-- ==== Sys2Proof/Word.lean ====
section
/-! DEFINITION. The plain types of the UCM-24: bytes, the indices of loops, rooms, slots and channels (R1, R30, R99,
R173), the two manifolds, and the big-endian bytes of a quantity (11_formats.md, opening). -/

namespace Sys2Proof

/-- One byte on the House Link. -/
abbrev Byte := BitVec 8

/-- A loop index, 0 to 23; 0 to 11 lie on manifold A, 12 to 23 on manifold B (R1). -/
abbrev LoopIx := Fin 24

/-- A room, held as its number less one: room `r` of the manual is index `r - 1` (R30). -/
abbrev RoomIx := Fin 16

/-- A roster slot, 0 to 17 (R173). -/
abbrev SlotIx := Fin 18

/-- A temperature channel, 0 to 27 (R99). -/
abbrev ChannelIx := Fin 28

/-- The two manifolds (R1). -/
inductive Manifold where
  | a
  | b
  deriving DecidableEq, Repr

/-- The kinds of station (R173). -/
inductive StationKind where
  | service
  | source
  | room
  deriving DecidableEq, Repr

/-- The two ends of a head's travel (R58). -/
inductive EndStop where
  | closedEnd
  | openEnd
  deriving DecidableEq, Repr

/-- One thing for each manifold. -/
structure PerManifold (α : Type) where
  a : α
  b : α
  deriving DecidableEq, Repr

/-- The thing of one manifold. -/
def PerManifold.get {α : Type} (p : PerManifold α) : Manifold → α
  | .a => p.a
  | .b => p.b

/-- The pair with one manifold's thing replaced. -/
def PerManifold.set {α : Type} (p : PerManifold α) (m : Manifold) (x : α) : PerManifold α :=
  match m with
  | .a => ⟨x, p.b⟩
  | .b => ⟨p.a, x⟩

/-- The manifold of a loop index, fixed by the index (R1). -/
def manifoldOf (i : LoopIx) : Manifold := if i.val < 12 then .a else .b

/-- The low byte of a number. -/
def byte (n : Nat) : Byte := BitVec.ofNat 8 n

/-- A two-byte quantity, most significant byte first (11_formats.md, opening). -/
def bytes2 (w : BitVec 16) : List Byte := [(w >>> 8).setWidth 8, w.setWidth 8]

/-- The number a two-byte quantity stands for. -/
def number2 (hi lo : Byte) : Nat := hi.toNat * 256 + lo.toNat

end Sys2Proof
end

