-- ==== Sys2Proof/Syntax.lean ====
section
/-! DEFINITION. The commands of the UCM-24: one constructor for each row of spec/opcode_table.json, in the table's
order. A request carries the bytes of its payload that follow the request kind, as 11.2 lays them out; where the kind
has an operation byte (WATCH) or a table byte (AMEND) that the row itself names, the bytes after that one. What the
outside world brings to an event (samples, a sensed head, a step count) is an operand of the event. -/

namespace Sys2Proof

/-- A command: a row of the table of operations and events. -/
inductive Instr where
  /-- POWER_UP (R56): the heads sensed at the 24 ports and the pause line as sensed (R74, R49). -/
  | powerUp (heads : Vector Bool 24) (pauseLine : Bool)
  /-- POLL (R174). -/
  | poll
  /-- NONE_REPLY (R175). -/
  | noneReply
  /-- CORRUPT_REPLY (R175). -/
  | corruptReply
  /-- JOIN (R177): a valid JOIN, its station kind and its address, 1 to 62. -/
  | join (kind : StationKind) (address : Nat)
  /-- WINDOW_EXPIRY (R176). -/
  | windowExpiry
  /-- LINK_RESTART (R178). -/
  | linkRestart
  /-- BREAK_END (R178). -/
  | breakEnd
  /-- UNKNOWN_REQUEST (R179): the request kind and the bytes after it. -/
  | unknownRequest (kind : Byte) (params : List Byte)
  /-- LOOK (R180): table, index, count. -/
  | look (params : List Byte)
  /-- WATCH_SET (R181): table, base, span, mirror, condition. -/
  | watchSet (params : List Byte)
  /-- WATCH_CLEAR (R181): table, base, span, mirror, condition. -/
  | watchClear (params : List Byte)
  /-- DESCRIBE (R183): nothing. -/
  | describe (params : List Byte)
  /-- CLAIM (R33): room. -/
  | claim (params : List Byte)
  /-- DEMAND (R34): room, demand. -/
  | demand (params : List Byte)
  /-- RELEASE (R35): room. -/
  | release (params : List Byte)
  /-- AMEND_LOOP (R21): index, pair count, pairs. -/
  | amendLoop (params : List Byte)
  /-- AMEND_ROOM (R41): index, pair count, pairs. -/
  | amendRoom (params : List Byte)
  /-- AMEND_FLOOR (R44): index, pair count, identifier, list length, list. -/
  | amendFloor (params : List Byte)
  /-- AMEND_HOUSE (R47): index, pair count, pairs. -/
  | amendHouse (params : List Byte)
  /-- ENROL (R15): loop, room, length, covering. -/
  | enrol (params : List Byte)
  /-- RETIRE (R18): loop. -/
  | retire (params : List Byte)
  /-- PRESET (R26): manifold. -/
  | preset (params : List Byte)
  /-- CAMPAIGN_START (R150): manifold. -/
  | campaignStart (params : List Byte)
  /-- CAMPAIGN_CANCEL (R160): manifold. -/
  | campaignCancel (params : List Byte)
  /-- HOLD (R90): nothing. -/
  | hold (params : List Byte)
  /-- STOP (R91): nothing; and the step position at which the port stops the motor (R71), read only where a move of a
  homed head runs (log 6). -/
  | stop (params : List Byte) (motorStep : Nat)
  /-- RESUME (R92): nothing. -/
  | resume (params : List Byte)
  /-- STORE (R54): nothing. -/
  | store (params : List Byte)
  /-- RESTART (R169): nothing. -/
  | restart (params : List Byte)
  /-- INSERTION (R59): the port. -/
  | insertion (port : LoopIx)
  /-- REMOVAL (R60): the port. -/
  | removal (port : LoopIx)
  /-- MOVE_START (R83). -/
  | moveStart
  /-- LEG_REACHED (R63). -/
  | legReached
  /-- END_STOP_REACHED (R63, R65): the end, and the steps driven in the leg when it is reached. -/
  | endStopReached (stop : EndStop) (steps : Nat)
  /-- HOMING_TRAVEL_LIMIT (R65). -/
  | homingTravelLimit
  /-- STALL (R69): the step the port reports (R58): the step position of a homed head, the count of a homing leg. -/
  | stall (step : Nat)
  /-- DWELL_EXPIRY (R88). -/
  | dwellExpiry
  /-- SCAN_COMPLETION (R100): a sample for each channel; none is a failed conversion. -/
  | scanCompletion (samples : Vector (Option Int) 28)
  /-- MINUTE_TICK (R132). -/
  | minuteTick
  /-- LEASE_EXPIRY (R38): the room. -/
  | leaseExpiry (room : RoomIx)
  /-- MIDNIGHT (R72). -/
  | midnight
  /-- EXERCISE_MINUTE (R166). -/
  | exerciseMinute
  /-- ROUND_EXPIRY (R140): the manifold. -/
  | roundExpiry (manifold : Manifold)
  /-- STORE_COMPLETION (R55): whether the comparison agrees. -/
  | storeCompletion (agrees : Bool)
  /-- PAUSE_LINE_ASSERTION (R49). -/
  | pauseLineAssertion
  /-- PAUSE_LINE_RELEASE (R49). -/
  | pauseLineRelease
  /-- LOSS_OF_SUPPLY (R56). -/
  | lossOfSupply
  /-- BREAK_ONSET (R178). -/
  | breakOnset
  /-- AMEND_OF_DRIVE_OR_ROSTER (R179): the bytes after the request kind, the table code first. -/
  | amendOfDriveOrRoster (params : List Byte)
  /-- OPEN_CALL_REPLY_DISCARDED (R177). -/
  | openCallReplyDiscarded
  deriving DecidableEq, Repr

end Sys2Proof
end

