-- ==== Sys2Proof/Decode.lean ====
section
/-! DEFINITION. What a word spells by spec/opcode_table.json's bits. No row of the table gives any bits (each row's
"fields" is empty and none has a "fixed"), so no word spells a command (log 21). The bytes a station puts on the line
are classified by Machine/Frames.lean. -/

namespace Sys2Proof

/-- The command that a word spells by the table's bits: none, since no row gives bits. -/
def decodeTableWord (_nbits _w : Nat) : Option Instr := none

end Sys2Proof
end

