-- ==== Sys2Proof/Config.lean ====
section
/-! DEFINITION. The numbers the manual fixes for every UCM-24 (00_scope.md, "Principal numbers", and the rules named
at each). The manual leaves no value undefined, so there is no free value here. -/

namespace Sys2Proof.Config

/-- Largest number of waiting entries (R76). -/
def queueCapacity : Nat := 16

/-- Largest number of loops in one room's list (R31). -/
def roomCapacity : Nat := 6

/-- Largest number of members of the Floor List (R43). -/
def floorCapacity : Nat := 8

/-- Smallest ceiling (R3). -/
def minCeiling : Nat := 80

/-- Full stroke, and largest ceiling (R3). -/
def fullStroke : Nat := 1000

/-- The dwell after a HOME, in seconds (R88). -/
def homeDwell : Nat := 10

/-- The dwell after a move of any other kind, in seconds (R88). -/
def moveDwell : Nat := 2

/-- The stall count at which a head is homed again (R70). -/
def stallLimit : Nat := 3

/-- Smallest and largest capacity a homing accepts (R66). -/
def minCapacity : Nat := 200
def maxCapacity : Nat := 1200

/-- Steps of a closing leg without an end-stop at which a homing fails (R65). -/
def closingAllowance : Nat := 1300

/-- Largest idle days and open counter, where they saturate (R72, R132). -/
def saturation : Nat := 255

/-- Valid samples, in tenths of a degree (R100). -/
def minSample : Int := -100
def maxSample : Int := 950

/-- Consecutive samples that put a channel into FAULT, or bring it back (R103). -/
def sampleRun : Nat := 3

/-- A supply drift is a difference of more than this (R106). -/
def driftWidth : Nat := 15

/-- Minutes of a day and of the week (00_scope.md, "Time in the house"). -/
def minutesPerDay : Nat := 1440
def minutesPerWeek : Nat := 10080

/-- Idle days from which a closed loop is exercised (R166). -/
def exerciseDays : Nat := 7

/-- Consecutive misses that free a slot (R176). -/
def missLimit : Nat := 3

/-- Watches one slot holds (R173). -/
def watchCapacity : Nat := 2

/-- Claims one room unit holds (R33). -/
def claimCapacity : Nat := 2

/-- The address of the open call (R172). -/
def openCallAddress : Nat := 63

/-- Payload bytes left for the records of a LOOK (R185). -/
def lookRoom : Nat := 57

/-- Family code, revision and outlets per manifold of DESCRIBE (11.6). -/
def familyCode : BitVec 16 := 0x5543
def revision : Nat := 1
def outlets : Nat := 12

end Sys2Proof.Config
end

