-- ==== Sys2Proof/Machine/State.lean ====
section
/-! DEFINITION. All state the manual gives the UCM-24, as plain data, and the state right after reset. Quantities are
integers in the manual's units (00_scope.md, "Conventions"); a field that may be absent is an Option. -/

namespace Sys2Proof.Machine

/-- Lifecycle states of a loop (01, section 1.2). -/
inductive Lifecycle where
  | vacant | enrolled | homing | ready | retiring
  deriving DecidableEq, Repr

/-- Who commands a loop (R4). -/
inductive Owner where
  | auto | service
  deriving DecidableEq, Repr

/-- Balance statuses (R129). -/
inductive Balance where
  | unmeasured | trimming | balanced | limitedHigh | limitedLow | excluded
  deriving DecidableEq, Repr

/-- The kinds of move, and of want other than NONE (R77). -/
inductive MoveKind where
  | home | position | park | exercise
  deriving DecidableEq, Repr

/-- The fault set: four latches (R5). -/
structure FaultSet where
  sensor : Bool
  headStall : Bool
  headFail : Bool
  headChanged : Bool
  deriving DecidableEq, Repr

/-- The empty fault set. -/
def FaultSet.empty : FaultSet := ⟨false, false, false, false⟩

/-- One loop record: the Loop Table's own fields, then those other blocks keep in it (R1, R2, R57, R77, R113, R104,
R129, R170). The return temperature and sensor state are the channel's (R101). A want is absent where it is NONE. -/
structure Loop where
  life : Lifecycle
  room : Option RoomIx
  length : Option Nat
  covering : Nat
  owner : Owner
  override : Nat
  ceiling : Nat
  faults : FaultSet
  /-- RESTART was taken while the loop's move ran (R170). -/
  restartMark : Bool
  present : Bool
  homed : Bool
  capacity : Option Nat
  stepPos : Option Nat
  position : Option Nat
  stallCount : Nat
  idleDays : Nat
  want : Option MoveKind
  pendingTarget : Option Nat
  commanded : Nat
  floorHeld : Bool
  deltaT : Option Int
  openCounter : Nat
  inBand : Nat
  balance : Balance
  deriving DecidableEq, Repr

/-- A VACANT record of an outlet with no head fitted (R14, R74, R97, R112, R128, R147). -/
def Loop.vacant : Loop where
  life := .vacant
  room := none
  length := none
  covering := 1
  owner := .auto
  override := 0
  ceiling := Config.fullStroke
  faults := .empty
  restartMark := false
  present := false
  homed := false
  capacity := none
  stepPos := none
  position := none
  stallCount := 0
  idleDays := 0
  want := none
  pendingTarget := none
  commanded := 0
  floorHeld := false
  deltaT := none
  openCounter := 0
  inBand := 0
  balance := .unmeasured

/-- Room states (R30). -/
inductive RoomState where
  | free | claimed | lapsed
  deriving DecidableEq, Repr

/-- One room record; its loop list is computed from the loops (R31). -/
structure Room where
  state : RoomState
  claimant : Option SlotIx
  demand : Nat
  leaseLength : Nat
  leaseRemaining : Nat
  fallback : Nat
  deriving DecidableEq, Repr

/-- The two seasons (R164). -/
inductive Season where
  | heating | standby
  deriving DecidableEq, Repr

/-- The House Record's own fields (R46), with the two events a minute tick hands on and that have not been taken yet
(R51, R166; log 2). -/
structure House where
  season : Season
  designA : Nat
  designB : Nat
  deadband : Nat
  settleBase : Nat
  trimEnable : Bool
  flowFloor : Nat
  pauseFlag : Bool
  pauseLine : Bool
  leaseUnit : Nat
  houseTime : Nat
  timeSet : Bool
  exerciseMinute : Nat
  roundLimit : Nat
  midnightDue : Bool
  exerciseDue : Bool
  deriving DecidableEq, Repr

/-- The defaults of R46. -/
def House.default : House where
  season := .heating
  designA := 50
  designB := 50
  deadband := 5
  settleBase := 20
  trimEnable := true
  flowFloor := 0
  pauseFlag := false
  pauseLine := false
  leaseUnit := 1
  houseTime := 0
  timeSet := false
  exerciseMinute := 180
  roundLimit := 24
  midnightDue := false
  exerciseDue := false

/-- What the image keeps of a loop (R53). -/
structure ImageLoop where
  life : Lifecycle
  room : Option RoomIx
  length : Option Nat
  covering : Nat
  ceiling : Nat
  balance : Balance
  deriving DecidableEq, Repr

/-- What the image keeps of a room (R53). -/
structure ImageRoom where
  leaseLength : Nat
  fallback : Nat
  deriving DecidableEq, Repr

/-- The content of the image (R53). -/
structure Image where
  loops : Vector ImageLoop 24
  rooms : Vector ImageRoom 16
  floorList : List LoopIx
  season : Season
  designA : Nat
  designB : Nat
  deadband : Nat
  settleBase : Nat
  trimEnable : Bool
  flowFloor : Nat
  leaseUnit : Nat
  exerciseMinute : Nat
  roundLimit : Nat
  deriving DecidableEq, Repr

/-- The nonvolatile memory: never written, an image whose check matches, or one whose check does not (R53, R56). The
content under a check that does not match is read by nothing, so it is not kept (log 12). -/
inductive NvMemory where
  | blank
  | sound (image : Image)
  | unsound
  deriving DecidableEq, Repr

/-- Image statuses (R56). -/
inductive ImageStatus where
  | valid | blank | bad
  deriving DecidableEq, Repr

/-- The stored image and its store (R53 to R56): store busy is whether a snapshot is being written. -/
structure Storage where
  memory : NvMemory
  status : ImageStatus
  running : Option Image
  again : Bool
  deriving DecidableEq, Repr

/-- A waiting entry; a target is present for POSITION alone (R76). -/
structure Entry where
  loop : LoopIx
  kind : MoveKind
  target : Option Nat
  deriving DecidableEq, Repr

/-- The legs of a move (R75). -/
inductive Leg where
  | first | second
  deriving DecidableEq, Repr

/-- The running move (R75), with whether the motor has driven a step of it in a leg that is over (R72). -/
structure Move where
  loop : LoopIx
  kind : MoveKind
  target : Option Nat
  leg : Leg
  returnStroke : Option Nat
  driven : Bool
  deriving DecidableEq, Repr

/-- How a move ends (R86). -/
inductive MoveEnd where
  | done | failed | aborted
  deriving DecidableEq, Repr

/-- Why it ends so (R86). -/
inductive EndReason where
  | stall | travel | stop | headLost
  deriving DecidableEq, Repr

/-- The last-end record, held while the dwell counts (R86, R88, R96). -/
structure Dwell where
  loop : LoopIx
  kind : MoveKind
  ending : MoveEnd
  reason : Option EndReason
  remaining : Nat
  deriving DecidableEq, Repr

/-- Drive states (R90). -/
inductive DriveState where
  | running | holding | held
  deriving DecidableEq, Repr

/-- The Drive Queue (R75, R76, R88, R90). -/
structure Drive where
  moving : Option Move
  queue : List Entry
  dwell : Option Dwell
  state : DriveState
  deriving DecidableEq, Repr

/-- Sensor states (R101). -/
inductive SensorState where
  | unknown | ok | fault
  deriving DecidableEq, Repr

/-- A channel record (R101). -/
structure Channel where
  state : SensorState
  filtered : Option Int
  invalidRun : Nat
  validRun : Nat
  deriving DecidableEq, Repr

/-- A channel at power-up (R112). -/
def Channel.initial : Channel := ⟨.unknown, none, 0, 0⟩

/-- A round timer: RUNNING exactly while minutes remain on it (R129); 0 between the tick that ends a round and the
taking of its expiry (log 2). -/
structure RoundTimer where
  remaining : Option Nat
  settleBase : Nat
  design : Nat
  deadband : Nat
  deriving DecidableEq, Repr

/-- Campaign states (R148). -/
inductive CampaignState where
  | idle | opening | rounds | suspended
  deriving DecidableEq, Repr

/-- The states a suspended campaign resumes to (R148). -/
inductive ResumeState where
  | opening | rounds
  deriving DecidableEq, Repr

/-- Campaign outcomes (R148). -/
inductive LastOutcome where
  | none | complete | partly | abandoned
  deriving DecidableEq, Repr

/-- Reasons of an abandonment (R161). -/
inductive AbandonReason where
  | cancelled | season | restart | noLoops
  deriving DecidableEq, Repr

/-- A campaign record (R148). -/
structure Campaign where
  state : CampaignState
  resume : Option ResumeState
  roundsDone : Nat
  outcome : LastOutcome
  reason : Option AbandonReason
  deriving DecidableEq, Repr

/-- A campaign record at power-up (R163). -/
def Campaign.initial : Campaign := ⟨.idle, none, 0, .none, none⟩

/-- The tables a watch may name (R181). -/
inductive WatchTable where
  | loop | room | house
  deriving DecidableEq, Repr

/-- The conditions of a watch (R181). -/
inductive Condition where
  | any | state
  deriving DecidableEq, Repr

/-- A watch (R181). -/
structure Watch where
  table : WatchTable
  base : Nat
  span : Nat
  mirror : Bool
  condition : Condition
  deriving DecidableEq, Repr

/-- A change marker (R182). -/
structure Marker where
  table : WatchTable
  index : Nat
  more : Bool
  deriving DecidableEq, Repr

/-- An occupied slot; its kind is that of the slot number (R173). -/
structure Slot where
  address : Nat
  misses : Nat
  watches : List Watch
  marker : Option Marker
  deriving DecidableEq, Repr

/-- The reply window (R174): none open, open for a slot's poll, or open for the open call. -/
inductive Window where
  | shut
  | slot (k : SlotIx)
  | openCall
  deriving DecidableEq, Repr

/-- The line's break condition (R178): none, being timed, or a link restart already taken in it. -/
inductive LineBreak where
  | clear | timing | restarted
  deriving DecidableEq, Repr

/-- The House Link Controller (R173, R174, R178). `cursor` is the lowest slot number still to be polled in the pass;
`sent` is the last frame put on the line, sync to check. -/
structure Link where
  roster : Vector (Option Slot) 18
  window : Window
  cursor : Nat
  lineBreak : LineBreak
  sent : List Byte
  deriving DecidableEq, Repr

/-- A change of a record's fields reported to the House Link Controller (R182): `state` where it is a change that
triggers condition STATE. That an entry comes to name a loop, or no longer names it, is reported too (R82), but it is no
field of the loop's record and triggers no watch (R182, R96), so it makes no entry in this list (log 8). -/
structure Report where
  table : WatchTable
  index : Nat
  state : Bool
  deriving DecidableEq, Repr

/-- The whole block. -/
structure State where
  /-- Supply is applied (R56; log 11). -/
  powered : Bool
  loops : Vector Loop 24
  rooms : Vector Room 16
  floorList : List LoopIx
  floorShort : Bool
  house : House
  storage : Storage
  drive : Drive
  channels : Vector Channel 28
  supplyRefs : PerManifold (Option Int)
  timers : PerManifold RoundTimer
  campaigns : PerManifold Campaign
  link : Link
  /-- The changes reported within the command being taken, oldest first; empty between commands (logs 8, 23). -/
  reports : List Report
  /-- The commands waiting to be taken, oldest first. -/
  pending : List Instr
  deriving DecidableEq, Repr

/-- Why a step would stop with a fault. No rule of the manual stops the block, so there is none (safe: nothing is
hidden behind a stop). -/
inductive Fault : Type where
  deriving DecidableEq, Repr

/-- Why a step would have no meaning. -/
inductive Refusal where
  /-- Raised by an arm of `exec` whose command has no meaning yet; no arm raises it now. Safe: it only stops. -/
  | notModelled (mnemonic : String)
  deriving DecidableEq, Repr

/-- A room record at power-up with the default lease length and fallback (R42). -/
def Room.initial : Room := ⟨.free, none, 0, 10, 0, 20⟩

/-- The machine right after reset: power-up with a memory never written, no head fitted and the pause line released
(R29, R42, R45, R52, R56, R74, R97, R112, R128, R147, R163, R173, R174; log 9). The round settings are log 10's, the
empty last frame log 19's. -/
def State.reset : State where
  powered := true
  loops := Vector.replicate 24 Loop.vacant
  rooms := Vector.replicate 16 Room.initial
  floorList := []
  floorShort := false
  house := House.default
  storage := ⟨.blank, .blank, none, false⟩
  drive := ⟨none, [], none, .running⟩
  channels := Vector.replicate 28 Channel.initial
  supplyRefs := ⟨none, none⟩
  timers := ⟨⟨none, 20, 50, 5⟩, ⟨none, 20, 50, 5⟩⟩
  campaigns := ⟨Campaign.initial, Campaign.initial⟩
  link := ⟨Vector.replicate 18 none, .shut, 18, .clear, []⟩
  reports := []
  pending := []

end Sys2Proof.Machine
end

