-- ==== Sys2Proof/Machine/Ops.lean ====
section
/-! DEFINITION. The named operations over the records: reading and writing a loop, a room, a channel, a slot, a timer
and a campaign record, and reporting a change of a record to the House Link Controller (R182). Every block reaches the
records through these. -/

namespace Sys2Proof.Machine

/-- The 24 loop indices in ascending order. -/
def allLoops : List LoopIx := List.finRange 24

/-- The 16 rooms in ascending order. -/
def allRooms : List RoomIx := List.finRange 16

/-- The 18 slots in ascending order. -/
def allSlots : List SlotIx := List.finRange 18

/-- "The loops on a manifold" (R1), ascending. -/
def loopsOf (m : Manifold) : List LoopIx := allLoops.filter fun i => manifoldOf i = m

/-- The supply channel of a manifold (R99). -/
def supplyChannel : Manifold → ChannelIx
  | .a => 24
  | .b => 25

/-- The common return channel of a manifold (R99). -/
def returnChannel : Manifold → ChannelIx
  | .a => 26
  | .b => 27

/-- A loop's channel has the loop's index (R99). -/
def loopChannel (i : LoopIx) : ChannelIx := Fin.castLE (by decide) i

/-- The kind of a slot is fixed by its number (R173). -/
def slotKind (k : SlotIx) : StationKind :=
  if k.val = 0 then .service else if k.val = 1 then .source else .room

/-- A loop record. -/
def State.loop (s : State) (i : LoopIx) : Loop := s.loops[i]

/-- Writes a loop record. -/
def State.setLoop (s : State) (i : LoopIx) (l : Loop) : State := { s with loops := s.loops.set i l }

/-- Changes a loop record. -/
def State.modLoop (s : State) (i : LoopIx) (f : Loop → Loop) : State := s.setLoop i (f (s.loop i))

/-- Changes every loop record together. -/
def State.mapLoops (s : State) (f : LoopIx → Loop → Loop) : State :=
  { s with loops := Vector.ofFn fun i => f i (s.loop i) }

/-- A room record. -/
def State.room (s : State) (r : RoomIx) : Room := s.rooms[r]

/-- Writes a room record. -/
def State.setRoom (s : State) (r : RoomIx) (x : Room) : State := { s with rooms := s.rooms.set r x }

/-- A channel record. -/
def State.channel (s : State) (c : ChannelIx) : Channel := s.channels[c]

/-- A roster slot. -/
def State.slot (s : State) (k : SlotIx) : Option Slot := s.link.roster[k]

/-- Writes a roster slot. -/
def State.setSlot (s : State) (k : SlotIx) (x : Option Slot) : State :=
  { s with link := { s.link with roster := s.link.roster.set k x } }

/-- The reply window. -/
def State.setWindow (s : State) (w : Window) : State := { s with link := { s.link with window := w } }

/-- A frame put on the line. -/
def State.setSent (s : State) (bytes : List Byte) : State := { s with link := { s.link with sent := bytes } }

/-- A manifold's round timer. -/
def State.timer (s : State) (m : Manifold) : RoundTimer := s.timers.get m

/-- Writes a round timer. -/
def State.setTimer (s : State) (m : Manifold) (t : RoundTimer) : State := { s with timers := s.timers.set m t }

/-- A manifold's campaign record. -/
def State.campaign (s : State) (m : Manifold) : Campaign := s.campaigns.get m

/-- Writes a campaign record. -/
def State.setCampaign (s : State) (m : Manifold) (c : Campaign) : State :=
  { s with campaigns := s.campaigns.set m c }

/-- Writes a supply reference (R105). -/
def State.setSupplyRef (s : State) (m : Manifold) (r : Option Int) : State :=
  { s with supplyRefs := s.supplyRefs.set m r }

/-- Writes the Drive Queue's part. -/
def State.setDrive (s : State) (d : Drive) : State := { s with drive := d }

/-- Writes the waiting entries (R76). -/
def State.setQueue (s : State) (q : List Entry) : State := s.setDrive { s.drive with queue := q }

/-- Writes the running move (R75). -/
def State.setMoving (s : State) (m : Option Move) : State := s.setDrive { s.drive with moving := m }

/-- Writes the dwell with its last-end record (R86, R88). -/
def State.setDwell (s : State) (d : Option Dwell) : State := s.setDrive { s.drive with dwell := d }

/-- Writes the drive state (R90). -/
def State.putDriveState (s : State) (d : DriveState) : State := s.setDrive { s.drive with state := d }

/-- Writes the channel records (R101). -/
def State.setChannels (s : State) (c : Vector Channel 28) : State := { s with channels := c }

/-- Writes every room record together. -/
def State.mapRooms (s : State) (f : Room → Room) : State := { s with rooms := Vector.ofFn fun r => f (s.room r) }

/-- Changes every occupied slot. -/
def State.mapSlots (s : State) (f : Slot → Slot) : State :=
  { s with link := { s.link with roster := Vector.ofFn fun k => (s.slot k).map f } }

/-- Empties the list of reports (R182). -/
def State.clearReports (s : State) : State := { s with reports := [] }

/-- Writes the House Record. -/
def State.setHouse (s : State) (h : House) : State := { s with house := h }

/-- Writes the Floor List (R43). -/
def State.setFloorList (s : State) (l : List LoopIx) : State := { s with floorList := l }

/-- Writes the floor-short indication (R122). -/
def State.setFloorShort (s : State) (b : Bool) : State := { s with floorShort := b }

/-- Writes the stored image's part. -/
def State.setStorage (s : State) (x : Storage) : State := { s with storage := x }

/-- Writes the line's break condition (R178). -/
def State.setBreak (s : State) (b : LineBreak) : State := { s with link := { s.link with lineBreak := b } }

/-- Writes the place in the pass of polls (R174). -/
def State.setCursor (s : State) (n : Nat) : State := { s with link := { s.link with cursor := n } }

/-- Writes the whole roster (R173). -/
def State.setRoster (s : State) (r : Vector (Option Slot) 18) : State := { s with link := { s.link with roster := r } }

/-- Reports a change of a record to the House Link Controller (R182). -/
def State.mark (s : State) (table : WatchTable) (index : Nat) (state : Bool) : State :=
  { s with reports := s.reports ++ [⟨table, index, state⟩] }

/-- Reports a change of a loop record. -/
def State.markLoop (s : State) (i : LoopIx) (state : Bool) : State := s.mark .loop i.val state

/-- Reports a change of a room record, under the room's own number. -/
def State.markRoom (s : State) (r : RoomIx) (state : Bool) : State := s.mark .room (r.val + 1) state

/-- Reports a change of the House Record. -/
def State.markHouse (s : State) (state : Bool) : State := s.mark .house 0 state

/-- Reports a change of a loop record, if there is one. -/
def State.markLoopIf (s : State) (changed : Bool) (i : LoopIx) (state : Bool) : State :=
  if changed then s.markLoop i state else s

/-- Reports a change of a room record, if there is one. -/
def State.markRoomIf (s : State) (changed : Bool) (r : RoomIx) (state : Bool) : State :=
  if changed then s.markRoom r state else s

/-- Reports a change of the House Record, if there is one. -/
def State.markHouseIf (s : State) (changed : Bool) (state : Bool) : State := if changed then s.markHouse state else s

/-- A loop's lifecycle state replaced. -/
def Loop.setLife (l : Loop) (x : Lifecycle) : Loop := { l with life := x }

/-- A loop's want replaced (R77). -/
def Loop.setWant (l : Loop) (w : Option MoveKind) : Loop := { l with want := w }

/-- A loop's pending target replaced (R77). -/
def Loop.setPending (l : Loop) (t : Option Nat) : Loop := { l with pendingTarget := t }

/-- A loop's open counter at 0 (R133). -/
def Loop.zeroCounter (l : Loop) : Loop := { l with openCounter := 0 }

/-- A loop's commanded stroke and floor-held mark replaced (R113). -/
def Loop.setStroke (l : Loop) (stroke : Nat) (held : Bool) : Loop := { l with commanded := stroke, floorHeld := held }

/-- A loop's in-band count and balance status replaced (R129). -/
def Loop.rate (l : Loop) (n : Nat) (b : Balance) : Loop := { l with inBand := n, balance := b }

/-- A loop's fault set replaced (R5). -/
def Loop.setFaults (l : Loop) (f : FaultSet) : Loop := { l with faults := f }

/-- A loop's ceiling replaced (R3). -/
def Loop.setCeiling (l : Loop) (n : Nat) : Loop := { l with ceiling := n }

/-- A loop's position replaced (R57). -/
def Loop.setPosition (l : Loop) (p : Option Nat) : Loop := { l with position := p }

/-- A loop's step position replaced (R57). -/
def Loop.setStep (l : Loop) (p : Nat) : Loop := { l with stepPos := some p }

/-- A head not homed: capacity, step position and position become absent together (R57, R64). -/
def Loop.unhomed (l : Loop) : Loop := { l with homed := false, capacity := none, stepPos := none, position := none }

/-- Takes `f` for each index of a list in turn. -/
def State.forEach {α : Type} (s : State) (l : List α) (f : State → α → State) : State := l.foldl f s

end Sys2Proof.Machine
end

