-- ==== Sys2Proof/Machine/Flags.lean ====
section
/-! DEFINITION. Every indication that is computed from the records and stored nowhere: pause (R49), drive idle (R95),
a channel's reading (R101), a room's effective demand and loop list (R31, R32), what the Drive Queue knows of a loop
(R78), the conditions of the open counter (R133), of the round timer (R130), of a suspension (R156), of the end of
opening (R152), and the change markers (R182). -/

namespace Sys2Proof.Machine

/-- Pause is active while the line is asserted or the flag is set (R49). -/
def House.pause (h : House) : Bool := h.pauseLine || h.pauseFlag

/-- A channel's reading: the filtered value while the state is OK (R101). -/
def Channel.reading (c : Channel) : Option Int := if c.state = .ok then c.filtered else none

/-- A room's effective demand (R32). -/
def Room.effective (x : Room) : Nat := if x.state = .claimed then x.demand else x.fallback

/-- The loop list of a room (R31): the loops whose room field names it, ascending. -/
def State.roomLoops (s : State) (r : RoomIx) : List LoopIx := allLoops.filter fun i => (s.loop i).room = some r

/-- A loop is occupied unless it is VACANT (R1). -/
def Loop.occupied (l : Loop) : Bool := decide (l.life ≠ .vacant)

/-- A waiting entry names the loop. -/
def State.queued (s : State) (i : LoopIx) : Bool := s.drive.queue.any fun e => decide (e.loop = i)

/-- The running move is the loop's. -/
def State.movingLoop (s : State) (i : LoopIx) : Bool :=
  match s.drive.moving with
  | some m => decide (m.loop = i)
  | none => false

/-- An entry, waiting or running, names the loop (R82). -/
def State.named (s : State) (i : LoopIx) : Bool := s.queued i || s.movingLoop i

/-- The running move is a HOME of the loop. -/
def State.homing (s : State) (i : LoopIx) : Bool :=
  match s.drive.moving with
  | some m => decide (m.loop = i) && decide (m.kind = .home)
  | none => false

/-- A want is outstanding (R78). -/
def State.outstanding (s : State) (i : LoopIx) : Bool :=
  (s.loop i).want.isSome && !s.queued i && !(decide ((s.loop i).want = some .home) && s.homing i)

/-- Drive idle (R95). -/
def Drive.idle (d : Drive) : Bool := d.moving.isNone && d.dwell.isNone && d.queue.isEmpty

/-- A move may start (R83). -/
def State.canStart (s : State) : Bool :=
  s.drive.moving.isNone && s.drive.dwell.isNone && decide (s.drive.state = .running) && !s.drive.queue.isEmpty

/-- The dwell of an EXERCISE of the loop counts (R88). -/
def State.exerciseDwell (s : State) (i : LoopIx) : Bool :=
  match s.drive.dwell with
  | some d => decide (d.loop = i) && decide (d.kind = .exercise)
  | none => false

/-- The conditions under which a loop's open counter counts (R133), and that no dwell of an EXERCISE of the loop counts
(R167). R133 names no dwell, so the dwell of another move does not stop the counter (log 29). -/
def State.counts (s : State) (i : LoopIx) : Bool :=
  decide ((s.loop i).life = .ready) && decide ((s.loop i).owner = .auto) &&
    decide ((s.loop i).position = some (s.loop i).ceiling) && (s.loop i).want.isNone && !s.queued i &&
    !s.movingLoop i && !s.exerciseDwell i && !s.house.pause && decide (s.drive.state = .running)

/-- The supply channel of a manifold is OK. -/
def State.supplyOk (s : State) (m : Manifold) : Bool := decide ((s.channel (supplyChannel m)).state = .ok)

/-- The conditions under which a manifold's round timer runs (R130). -/
def State.timerRuns (s : State) (m : Manifold) : Bool :=
  decide (s.house.season = .heating) && (s.house.trimEnable || decide ((s.campaign m).state = .rounds)) &&
    !s.house.pause && decide (s.drive.state = .running) && s.supplyOk m

/-- A campaign is open while its state is other than IDLE (R148). -/
def State.campaignOpen (s : State) (m : Manifold) : Bool := decide ((s.campaign m).state ≠ .idle)

/-- A cause of suspension holds (R156). -/
def State.held (s : State) (m : Manifold) : Bool :=
  s.house.pause || decide (s.drive.state ≠ .running) || !s.supplyOk m

/-- Opening has ended: no want and no entry, waiting or running, of any loop of the manifold (R152). -/
def State.openingOver (s : State) (m : Manifold) : Bool :=
  (loopsOf m).all fun i => (s.loop i).want.isNone && !s.named i

/-- The loop's return channel is in FAULT. -/
def State.sensorFault (s : State) (i : LoopIx) : Bool := decide ((s.channel (loopChannel i)).state = .fault)

/-- The status a loop gets where a rule gives it UNMEASURED (R142). -/
def State.unmeasured (s : State) (i : LoopIx) : Balance :=
  if (s.loop i).occupied && (decide ((s.loop i).owner = .service) || s.sensorFault i) then .excluded else .unmeasured

/-- The number of rooms a slot holds (R33). -/
def State.claims (s : State) (k : SlotIx) : Nat :=
  (allRooms.filter fun r => (s.room r).state = .claimed ∧ (s.room r).claimant = some k).length

/-- The index lies in a watch's range, or mirrors one that does (R181). -/
def Watch.covers (w : Watch) (index : Nat) : Bool :=
  let inRange := fun n => decide (w.base ≤ n) && decide (n < w.base + w.span)
  inRange index ||
    (w.mirror && ((decide (12 ≤ index) && decide (index ≤ 23) && inRange (index - 12)) ||
      (decide (index ≤ 11) && inRange (index + 12))))

/-- A reported change triggers a watch (R182). -/
def Watch.triggered (w : Watch) (r : Report) : Bool :=
  decide (w.table = r.table) && w.covers r.index && (decide (w.condition = .any) || r.state)

/-- A slot's change marker once a change has triggered one or more of its watches (R182). -/
def nextMarker (r : Report) : Option Marker → Marker
  | none => ⟨r.table, r.index, false⟩
  | some m => { m with more := true }

/-- A slot after one reported change (R182). -/
def Slot.hear (x : Slot) (r : Report) : Slot :=
  if x.watches.any fun w => w.triggered r then { x with marker := some (nextMarker r x.marker) } else x

/-- A slot after a list of reported changes, taken one after another (R182). -/
def Slot.told (x : Slot) (reports : List Report) : Slot := reports.foldl Slot.hear x

/-- Matches the reported changes against the watches of every occupied slot and empties the list (R182). -/
def State.tellWatches (s : State) : State := (s.mapSlots fun x => x.told s.reports).clearReports

end Sys2Proof.Machine
end

