-- ==== Sys2Proof/Machine/Operands.lean ====
section
/-! DEFINITION. The operand forms of the requests: what the bytes of a payload spell, by 11.2 to 11.4 and the third
check of R179. `none` is a payload outside the form its kind requires, answered RANGE. -/

namespace Sys2Proof.Machine

/-- The tables of LOOK and AMEND (11.4). -/
inductive Table where
  | loop | room | house | floor | drive | roster
  deriving DecidableEq, Repr

/-- A table code (11.4). -/
def tableOf (b : Byte) : Option Table :=
  match b.toNat with
  | 1 => some .loop
  | 2 => some .room
  | 3 => some .house
  | 4 => some .floor
  | 5 => some .drive
  | 6 => some .roster
  | _ => none

/-- The manifolds a manifold code names, A first (11.4). -/
def manifoldsOf (b : Byte) : Option (List Manifold) :=
  match b.toNat with
  | 1 => some [.a]
  | 2 => some [.b]
  | 3 => some [.a, .b]
  | _ => none

/-- A loop index in 0 to 23 (R1). -/
def loopIndex (n : Nat) : Option LoopIx := if h : n < 24 then some ⟨n, h⟩ else none

/-- A room number in 1 to 16 (R30). -/
def roomNumber (n : Nat) : Option RoomIx := if h : 1 ≤ n ∧ n ≤ 16 then some ⟨n - 1, by omega⟩ else none

/-- A payload with no parameter (DESCRIBE, HOLD, RESUME, STOP, STORE, RESTART). -/
def noParams : List Byte → Option Unit
  | [] => some ()
  | _ => none

/-- A payload of one byte (CLAIM, RELEASE, RETIRE, PRESET, CAMPAIGN START, CAMPAIGN CANCEL). -/
def oneByte : List Byte → Option Byte
  | [b] => some b
  | _ => none

/-- The parameters of a LOOK (R180): table, index, count of 1 to 4. -/
def lookForm : List Byte → Option (Table × Nat × Nat)
  | [t, i, c] =>
    match tableOf t with
    | some table => if 1 ≤ c.toNat ∧ c.toNat ≤ 4 then some (table, i.toNat, c.toNat) else none
    | none => none
  | _ => none

/-- A watch table by its code (R181). -/
def watchTableOf (b : Byte) : Option WatchTable :=
  match tableOf b with
  | some .loop => some .loop
  | some .room => some .room
  | some .house => some .house
  | _ => none

/-- The first and last index of a watched table (R180). -/
def WatchTable.first : WatchTable → Nat
  | .loop => 0
  | .room => 1
  | .house => 0
def WatchTable.last : WatchTable → Nat
  | .loop => 23
  | .room => 16
  | .house => 2

/-- The form of a watch (R181): a span of the set, a base that is a multiple of it, mirror for LOOP alone, and a range
in which some index is one of the table's. -/
def Watch.formOk (w : Watch) : Bool :=
  (decide (w.span = 1) || decide (w.span = 2) || decide (w.span = 4) || decide (w.span = 8)) &&
    decide (w.base % w.span = 0) && (!w.mirror || decide (w.table = .loop)) && decide (w.base ≤ w.table.last) &&
    decide (w.table.first < w.base + w.span)

/-- A yes/no byte. -/
def flagOf (b : Byte) : Option Bool :=
  match b.toNat with
  | 0 => some false
  | 1 => some true
  | _ => none

/-- The parameters of a WATCH after its operation (R181): table, base, span, mirror, condition. -/
def watchForm : List Byte → Option Watch
  | [t, base, span, mirror, condition] =>
    match watchTableOf t, flagOf mirror, flagOf condition with
    | some table, some m, some c =>
      let w : Watch := ⟨table, base.toNat, span.toNat, m, if c then .state else .any⟩
      if w.formOk then some w else none
    | _, _, _ => none
  | _ => none

/-- The parameters of DEMAND: room, demand. -/
def twoBytes : List Byte → Option (Byte × Byte)
  | [a, b] => some (a, b)
  | _ => none

/-- One field/value pair of an AMEND (11.2). -/
structure Pair where
  field : Nat
  value : Nat
  deriving DecidableEq, Repr

/-- The pairs of an AMEND, three bytes each. -/
def pairsOf : List Byte → Option (List Pair)
  | [] => some []
  | field :: hi :: lo :: rest =>
    match pairsOf rest with
    | some ps => some (⟨field.toNat, number2 hi lo⟩ :: ps)
    | none => none
  | _ => none

/-- The form of an AMEND of LOOP, ROOM or HOUSE (R179, R184): index, a count of 1 to 6, as many pairs, each naming a
field identifier of the table (11.3). -/
def amendForm (known : List Nat) : List Byte → Option (Nat × List Pair)
  | index :: count :: rest =>
    match pairsOf rest with
    | some ps =>
      if ps.length = count.toNat ∧ 1 ≤ ps.length ∧ ps.length ≤ 6 ∧ ps.all fun p => known.contains p.field then
        some (index.toNat, ps)
      else none
    | none => none
  | _ => none

/-- The form of an AMEND of FLOOR (11.2): index, one pair, identifier 1, the list's length and the list. A list of more
than 8 entries is in the form: with index 0 R44 answers RANGE. With another index the answer is NOSUCH (R184), where 11.2
could be read to make it RANGE at the third check: the model's choice (log 14). -/
def floorForm : List Byte → Option (Nat × List Byte)
  | index :: count :: field :: length :: list =>
    if count.toNat = 1 ∧ field.toNat = 1 ∧ length.toNat = list.length then some (index.toNat, list) else none
  | _ => none

/-- The field identifiers of 11.3. -/
def loopFields : List Nat := [1, 2, 3, 4, 5, 6, 7]
def roomFields : List Nat := [1, 2]
def houseAmendable : List Nat := [0x01, 0x02, 0x03, 0x04, 0x05, 0x06, 0x07, 0x08, 0x09, 0x0A, 0x0B, 0x0C]
def houseReadOnly : List Nat := [0x10, 0x11, 0x12, 0x13, 0x14, 0x15, 0x16, 0x17, 0x18, 0x19]

/-- No field is named twice (R21, R41, R47). -/
def distinctFields (ps : List Pair) : Bool := decide (ps.map Pair.field).Nodup

/-- What an AMEND of a loop asks for (R21): each field as its pair gives it, if one does. -/
structure LoopAmend where
  room : Option (Option RoomIx)
  length : Option (Option Nat)
  covering : Option Nat
  ceiling : Option Nat
  owner : Option Owner
  override : Option Nat
  clear : Option FaultSet
  deriving DecidableEq, Repr

/-- An amendment that names no field. -/
def LoopAmend.empty : LoopAmend := ⟨none, none, none, none, none, none, none⟩

/-- The set of latches a fault-clear value names (11.2); it names at least one, and no other bit is set. -/
def latchesOf (v : Nat) : Option FaultSet :=
  if 1 ≤ v ∧ v ≤ 15 then some ⟨v % 2 = 1, v / 2 % 2 = 1, v / 4 % 2 = 1, v / 8 % 2 = 1⟩ else none

/-- Adds one pair to an amendment of a loop, if its value lies in its range (R21). -/
def LoopAmend.add (a : LoopAmend) (p : Pair) : Option LoopAmend :=
  match p.field with
  | 1 =>
    if p.value = 0xFFFF then some { a with room := some none }
    else match roomNumber p.value with
      | some r => some { a with room := some (some r) }
      | none => none
  | 2 =>
    if p.value = 0xFFFF then some { a with length := some none }
    else if 5 ≤ p.value ∧ p.value ≤ 200 then some { a with length := some (some p.value) } else none
  | 3 => if 1 ≤ p.value ∧ p.value ≤ 3 then some { a with covering := some p.value } else none
  | 4 =>
    if Config.minCeiling ≤ p.value ∧ p.value ≤ Config.fullStroke then some { a with ceiling := some p.value } else none
  | 5 =>
    if p.value = 0 then some { a with owner := some .auto }
    else if p.value = 1 then some { a with owner := some .service } else none
  | 6 => if p.value ≤ Config.fullStroke then some { a with override := some p.value } else none
  | 7 =>
    match latchesOf p.value with
    | some f => some { a with clear := some f }
    | none => none
  | _ => none

/-- What the pairs of an AMEND of a loop ask for, or none for one the third check of R21 refuses. -/
def loopAmend (ps : List Pair) : Option LoopAmend :=
  if distinctFields ps then ps.foldl (fun a p => a.bind fun x => x.add p) (some .empty) else none

/-- What an AMEND of a room asks for (R41). -/
structure RoomAmend where
  leaseLength : Option Nat
  fallback : Option Nat
  deriving DecidableEq, Repr

/-- Adds one pair to an amendment of a room (R41). -/
def RoomAmend.add (a : RoomAmend) (p : Pair) : Option RoomAmend :=
  match p.field with
  | 1 => if 1 ≤ p.value ∧ p.value ≤ 15 then some { a with leaseLength := some p.value } else none
  | 2 => if p.value ≤ 100 then some { a with fallback := some p.value } else none
  | _ => none

/-- What the pairs of an AMEND of a room ask for (R41). -/
def roomAmend (ps : List Pair) : Option RoomAmend :=
  if distinctFields ps then ps.foldl (fun a p => a.bind fun x => x.add p) (some ⟨none, none⟩) else none

/-- The House Record fields a station kind may amend (R46). -/
def mayAmend : StationKind → Nat → Bool
  | .service, f => houseAmendable.contains f
  | .source, f => [0x01, 0x07, 0x08, 0x0A].contains f
  | .room, _ => false

/-- The House Record with one pair applied, if its value lies in its range (R46, R47). A house-time pair sets time set
to yes (R51). -/
def House.set (h : House) (p : Pair) : Option House :=
  let v := p.value
  match p.field with
  | 0x01 =>
    if v = 0 then some { h with season := .heating }
    else if v = 1 then some { h with season := .standby } else none
  | 0x02 => if 30 ≤ v ∧ v ≤ 100 then some { h with designA := v } else none
  | 0x03 => if 30 ≤ v ∧ v ≤ 100 then some { h with designB := v } else none
  | 0x04 => if 3 ≤ v ∧ v ≤ 20 then some { h with deadband := v } else none
  | 0x05 => if 5 ≤ v ∧ v ≤ 60 then some { h with settleBase := v } else none
  | 0x06 => if v ≤ 1 then some { h with trimEnable := decide (v = 1) } else none
  | 0x07 => if v ≤ 24000 then some { h with flowFloor := v } else none
  | 0x08 => if v ≤ 1 then some { h with pauseFlag := decide (v = 1) } else none
  | 0x09 => if v = 1 ∨ v = 5 then some { h with leaseUnit := v } else none
  | 0x0A => if v < Config.minutesPerWeek then some { h with houseTime := v, timeSet := true } else none
  | 0x0B => if v < Config.minutesPerWeek then some { h with exerciseMinute := v } else none
  | 0x0C => if 1 ≤ v ∧ v ≤ 48 then some { h with roundLimit := v } else none
  | _ => none

/-- The House Record with every pair applied together (R47). -/
def House.setAll (h : House) (ps : List Pair) : Option House := ps.foldl (fun x p => x.bind fun y => y.set p) (some h)

/-- What an ENROL asks for (R15): each of room, length and covering as given, 0xFF where it is not (R184). -/
structure EnrolRequest where
  loop : Nat
  room : Option Nat
  length : Option Nat
  covering : Option Nat
  deriving DecidableEq, Repr

/-- A one-byte field of an ENROL (R184). -/
def given (b : Byte) : Option Nat := if b.toNat = 0xFF then none else some b.toNat

/-- The parameters of an ENROL: loop, room, length, covering. -/
def enrolForm : List Byte → Option EnrolRequest
  | [l, r, n, c] => some ⟨l.toNat, given r, given n, given c⟩
  | _ => none

end Sys2Proof.Machine
end

