-- ==== Sys2Proof/Machine/Records.lean ====
section
/-! DEFINITION. The codes and the byte images of the records, as a LOOK shows them (11.4, 11.5), and the description
of DESCRIBE (11.6). -/

namespace Sys2Proof.Machine

/-- Answer statuses (00_scope.md). -/
inductive Status where
  | done | deferred | denied | busy | full | range | nosuch | stale | locked | corrupt | unknown
  deriving DecidableEq, Repr

/-- Status codes (11.4). -/
def Status.code : Status → Nat
  | .done => 0
  | .deferred => 1
  | .denied => 2
  | .busy => 3
  | .full => 4
  | .range => 5
  | .nosuch => 6
  | .stale => 7
  | .locked => 8
  | .corrupt => 9
  | .unknown => 10

/-- Table codes (11.4). -/
def Table.code : Table → Nat
  | .loop => 1
  | .room => 2
  | .house => 3
  | .floor => 4
  | .drive => 5
  | .roster => 6
def WatchTable.code : WatchTable → Nat
  | .loop => 1
  | .room => 2
  | .house => 3

/-- Codes of 11.4. -/
def kindCode : StationKind → Nat
  | .service => 0
  | .source => 1
  | .room => 2
def Lifecycle.code : Lifecycle → Nat
  | .vacant => 0
  | .enrolled => 1
  | .homing => 2
  | .ready => 3
  | .retiring => 4
def Balance.code : Balance → Nat
  | .unmeasured => 0
  | .trimming => 1
  | .balanced => 2
  | .limitedHigh => 3
  | .limitedLow => 4
  | .excluded => 5
def SensorState.code : SensorState → Nat
  | .unknown => 0
  | .ok => 1
  | .fault => 2
def MoveKind.code : MoveKind → Nat
  | .home => 1
  | .position => 2
  | .park => 3
  | .exercise => 4
def wantCode : Option MoveKind → Nat
  | none => 0
  | some k => k.code
def RoomState.code : RoomState → Nat
  | .free => 0
  | .claimed => 1
  | .lapsed => 2
def Season.code : Season → Nat
  | .heating => 0
  | .standby => 1
def DriveState.code : DriveState → Nat
  | .running => 0
  | .holding => 1
  | .held => 2
def CampaignState.code : CampaignState → Nat
  | .idle => 0
  | .opening => 1
  | .rounds => 2
  | .suspended => 3
def ResumeState.code : ResumeState → Nat
  | .opening => 1
  | .rounds => 2
def LastOutcome.code : LastOutcome → Nat
  | .none => 0
  | .complete => 1
  | .partly => 2
  | .abandoned => 3
def AbandonReason.code : AbandonReason → Nat
  | .cancelled => 1
  | .season => 2
  | .restart => 3
  | .noLoops => 4
def ImageStatus.code : ImageStatus → Nat
  | .valid => 0
  | .blank => 1
  | .bad => 2
def Leg.code : Leg → Nat
  | .first => 1
  | .second => 2
def MoveEnd.code : MoveEnd → Nat
  | .done => 0
  | .failed => 1
  | .aborted => 2
def EndReason.code : EndReason → Nat
  | .stall => 1
  | .travel => 2
  | .stop => 3
  | .headLost => 4

/-- A one-byte field that may be absent (11_formats.md, opening). -/
def byteOr (x : Option Nat) : Byte :=
  match x with
  | some n => byte n
  | none => 0xFF

/-- An unsigned two-byte field, and one that may be absent. -/
def word (n : Nat) : List Byte := bytes2 (BitVec.ofNat 16 n)
def wordOr (x : Option Nat) : List Byte :=
  match x with
  | some n => word n
  | none => [0xFF, 0xFF]

/-- A temperature or ΔT, signed, 0x8000 where absent. -/
def tempOr (x : Option Int) : List Byte :=
  match x with
  | some n => bytes2 (BitVec.ofInt 16 n)
  | none => [0x80, 0x00]

/-- A byte of flags, bit 0 first; a bit that the layout names nothing for is 0 (the model's choice, log 35). -/
def flags (bits : List Bool) : Byte := byte (bits.foldr (fun b n => (if b then 1 else 0) + 2 * n) 0)

/-- A list filled up to a length with 0xFF. -/
def padded (n : Nat) (bytes : List Byte) : List Byte := bytes ++ List.replicate (n - bytes.length) 0xFF

/-- The loop record, 28 bytes (11.5). The bits that 11.5 names nothing for, bits 4 to 7 of bytes 4 and 5 and bits 6 and 7
of byte 27, are 0: the model's choice (log 35). During a move of the head its position is absent, and the other head
fields are shown as they stand at the request: R73 says so, and also that they are shown as they were at the move's start,
which differs where a midnight (R72) or a fault-clear (R25) has changed the idle days or the stall count during the move.
That the changed value is shown is the model's choice (log 36). -/
def State.loopImage (s : State) (i : LoopIx) : List Byte :=
  let l := s.loop i
  let c := s.channel (loopChannel i)
  [byte l.life.code, byteOr (l.room.map fun r => r.val + 1), byteOr l.length, byte l.covering,
    flags [l.present, l.homed, decide (l.owner = .service), l.floorHeld],
    flags [l.faults.sensor, l.faults.headStall, l.faults.headFail, l.faults.headChanged]] ++
  word l.override ++ word l.ceiling ++ wordOr l.capacity ++ wordOr l.position ++
  [byte l.stallCount, byte l.idleDays, byte (wantCode l.want)] ++
  wordOr l.pendingTarget ++ word l.commanded ++ tempOr c.reading ++ [byte c.state.code] ++ tempOr l.deltaT ++
  [byte l.openCounter, byte (l.balance.code + 16 * l.inBand)]

/-- The room record, 13 bytes (11.5). -/
def State.roomImage (s : State) (r : RoomIx) : List Byte :=
  let x := s.room r
  let members := s.roomLoops r
  [byte x.state.code, byteOr (x.claimant.map fun k => k.val), byte members.length] ++
  padded 6 (members.map fun i => byte i.val) ++
  [byte x.demand, byte x.leaseLength, byte x.leaseRemaining, byte x.fallback]

/-- The floor record, 9 bytes (11.5). -/
def State.floorImage (s : State) : List Byte :=
  byte s.floorList.length :: padded 8 (s.floorList.map fun i => byte i.val)

/-- A campaign record's five bytes (11.5). -/
def Campaign.image (c : Campaign) : List Byte :=
  [byte c.state.code, byteOr (c.resume.map ResumeState.code), byte c.roundsDone, byte c.outcome.code,
    byteOr (c.reason.map AbandonReason.code)]

/-- The House record at index 0, 26 bytes (11.5). -/
def State.houseImage (s : State) : List Byte :=
  let h := s.house
  [byte h.season.code, byte h.designA, byte h.designB, byte h.deadband, byte h.settleBase] ++ word h.flowFloor ++
  [flags [h.pauseFlag, h.pauseLine, h.pause, h.timeSet, s.floorShort, s.drive.idle, s.storage.running.isSome,
      h.trimEnable],
    byte h.leaseUnit] ++
  word h.houseTime ++ word h.exerciseMinute ++ [byte h.roundLimit, byte s.drive.state.code] ++
  (s.campaign .a).image ++ (s.campaign .b).image ++ [byte s.storage.status.code]

/-- The manifold channel record, 8 bytes (11.5, R111). -/
def State.manifoldImage (s : State) (m : Manifold) : List Byte :=
  let supply := s.channel (supplyChannel m)
  let back := s.channel (returnChannel m)
  [byte supply.state.code] ++ tempOr supply.reading ++ tempOr (s.supplyRefs.get m) ++ [byte back.state.code] ++
  tempOr back.reading

/-- A drive record, 11 bytes (11.5): occupancy and the fields present for it. -/
def driveRecord (occupancy : Nat) (loop : Option LoopIx) (kind : Option MoveKind) (target : Option Nat)
    (leg : Option Leg) (returnStroke : Option Nat) (ending : Option MoveEnd) (reason : Option EndReason)
    (remaining : Option Nat) : List Byte :=
  [byte occupancy, byteOr (loop.map fun i => i.val), byteOr (kind.map MoveKind.code)] ++ wordOr target ++
  [byteOr (leg.map Leg.code)] ++ wordOr returnStroke ++
  [byteOr (ending.map MoveEnd.code), byteOr (reason.map EndReason.code), byteOr remaining]

/-- An empty drive record. -/
def emptyDriveRecord : List Byte := driveRecord 0 none none none none none none none none

/-- The DRIVE table (R96): the driver's record at index 0, then the waiting entries, oldest first. -/
def State.driveImage (s : State) (index : Nat) : List Byte :=
  if index = 0 then
    match s.drive.moving, s.drive.dwell with
    | some m, _ => driveRecord 1 m.loop m.kind m.target m.leg m.returnStroke none none none
    | none, some d => driveRecord 2 d.loop d.kind none none none d.ending d.reason d.remaining
    | none, none => emptyDriveRecord
  else
    match s.drive.queue[index - 1]? with
    | some e => driveRecord 3 e.loop e.kind e.target none none none none none
    | none => emptyDriveRecord

/-- A watch entry of a roster record, five bytes (11.5). -/
def Watch.image (w : Watch) : List Byte :=
  [byte w.table.code, byte w.base, byte w.span, byte (if w.mirror then 1 else 0),
    byte (match w.condition with
      | .any => 0
      | .state => 1)]

/-- A roster record, 16 bytes (11.5). -/
def State.rosterImage (s : State) (k : SlotIx) : List Byte :=
  match s.slot k with
  | some x =>
    padded 16 ([1, byte x.address, byte (kindCode (slotKind k)), byte x.misses,
      (if x.marker.isSome then 1 else 0), byte x.watches.length] ++ x.watches.flatMap Watch.image)
  | none => padded 16 [0]

/-- The record of a table at an index, or none where the table lacks the index (R180). -/
def State.recordAt (s : State) : Table → Nat → Option (List Byte)
  | .loop, n => (loopIndex n).map s.loopImage
  | .room, n => (roomNumber n).map s.roomImage
  | .house, n =>
    match n with
    | 0 => some s.houseImage
    | 1 => some (s.manifoldImage .a)
    | 2 => some (s.manifoldImage .b)
    | _ => none
  | .floor, n => if n = 0 then some s.floorImage else none
  | .drive, n => if n ≤ Config.queueCapacity then some (s.driveImage n) else none
  | .roster, n => if h : n < 18 then some (s.rosterImage ⟨n, h⟩) else none

/-- The records from an index on, at most `count` of them and as many whole ones as fit in `left` bytes (R180). -/
def State.recordsFrom (s : State) (t : Table) : Nat → Nat → Nat → List (List Byte)
  | 0, _, _ => []
  | count + 1, index, left =>
    match s.recordAt t index with
    | some bytes =>
      if bytes.length ≤ left then bytes :: s.recordsFrom t count (index + 1) (left - bytes.length) else []
    | none => []

/-- The body of a LOOK answered DONE (R180, R185): table, first index, number of records, records. -/
def State.lookBody (s : State) (t : Table) (index count : Nat) : List Byte :=
  let records := s.recordsFrom t count index Config.lookRoom
  [byte t.code, byte index, byte records.length] ++ records.flatten

/-- The number of a manifold's loops that are not VACANT, and that are READY (R183). -/
def State.occupiedCount (s : State) (m : Manifold) : Nat := ((loopsOf m).filter fun i => (s.loop i).occupied).length
def State.readyCount (s : State) (m : Manifold) : Nat :=
  ((loopsOf m).filter fun i => (s.loop i).life = .ready).length

/-- The description, 9 bytes (R183, 11.6). -/
def State.description (s : State) : List Byte :=
  bytes2 Config.familyCode ++
  [byte Config.revision, byte Config.outlets, byte (s.occupiedCount .a), byte (s.readyCount .a),
    byte (s.occupiedCount .b), byte (s.readyCount .b), byte s.storage.status.code]

end Sys2Proof.Machine
end

