-- ==== Sys2Proof/WellFormed.lean ====
section
/-! DEFINITION. Which commands can arise: the bounds the manual puts on what an outside party or a port can bring
(R58, R65, R172, R177, R179). The meanings are total, so an ill-formed command still has an effect; claims that need
the bound cite this check. -/

namespace Sys2Proof

/-- The request kinds the part knows (11.2). -/
def knownKinds : List Nat :=
  [0x10, 0x11, 0x12, 0x20, 0x21, 0x22, 0x30, 0x31, 0x32, 0x33, 0x40, 0x41, 0x50, 0x51, 0x52, 0x60, 0x61]

/-- A station address is 1 to 62 (R172). -/
def addressOk (n : Nat) : Bool := decide (1 ≤ n) && decide (n ≤ 62)

/-- The bytes after the request kind (and after a table or operation byte, `lead` of them in all) fit a payload of 64
(R172). -/
def fits (lead : Nat) (params : List Byte) : Bool := decide (lead + params.length ≤ 64)

/-- The check of one command. -/
def Instr.wf : Instr → Bool
  | .powerUp _ _ => true
  | .poll => true
  | .noneReply => true
  | .corruptReply => true
  | .join _ address => addressOk address
  | .windowExpiry => true
  | .linkRestart => true
  | .breakEnd => true
  | .unknownRequest kind params => !(knownKinds.contains kind.toNat) && fits 1 params
  | .look p => fits 1 p
  | .watchSet p => fits 2 p
  | .watchClear p => fits 2 p
  | .describe p => fits 1 p
  | .claim p => fits 1 p
  | .demand p => fits 1 p
  | .release p => fits 1 p
  | .amendLoop p => fits 2 p
  | .amendRoom p => fits 2 p
  | .amendFloor p => fits 2 p
  | .amendHouse p => fits 2 p
  | .enrol p => fits 1 p
  | .retire p => fits 1 p
  | .preset p => fits 1 p
  | .campaignStart p => fits 1 p
  | .campaignCancel p => fits 1 p
  | .hold p => fits 1 p
  | .stop p step => fits 1 p && decide (step ≤ Config.maxCapacity)
  | .resume p => fits 1 p
  | .store p => fits 1 p
  | .restart p => fits 1 p
  | .insertion _ => true
  | .removal _ => true
  | .moveStart => true
  | .legReached => true
  | .endStopReached _ steps => decide (steps ≤ Config.closingAllowance)
  | .homingTravelLimit => true
  | .stall step => decide (step ≤ Config.closingAllowance)
  | .dwellExpiry => true
  | .scanCompletion _ => true
  | .minuteTick => true
  | .leaseExpiry _ => true
  | .midnight => true
  | .exerciseMinute => true
  | .roundExpiry _ => true
  | .storeCompletion _ => true
  | .pauseLineAssertion => true
  | .pauseLineRelease => true
  | .lossOfSupply => true
  | .breakOnset => true
  | .amendOfDriveOrRoster p =>
    fits 1 p && (match p with
      | [] => true
      | t :: _ => !([1, 2, 3, 4].contains t.toNat))
  | .openCallReplyDiscarded => true

end Sys2Proof
end

