-- ==== Sys2Proof/Machine/Frames.lean ====
section
/-! DEFINITION. Frames on the House Link: the check and the bytes of a frame the part sends (R172, R184), the payload
of an answer (R185), and what the bytes of a received reply spell (R172, R175, R177, R179, R184). -/

namespace Sys2Proof.Machine

/-- One shift of the check register (R184). -/
def crcShift (r : BitVec 16) : BitVec 16 := if r.msb then (r <<< 1) ^^^ 0x1021 else r <<< 1

/-- `n` shifts of the check register. -/
def crcShifts : Nat → BitVec 16 → BitVec 16
  | 0, r => r
  | n + 1, r => crcShifts n (crcShift r)

/-- One byte taken into the check register (R184). -/
def crcByte (r : BitVec 16) (b : Byte) : BitVec 16 := crcShifts 8 (r ^^^ (b.setWidth 16 <<< 8))

/-- The check over the bytes from the address to the last payload byte (R172, R184). -/
def crc (bytes : List Byte) : BitVec 16 := bytes.foldl crcByte 0xFFFF

/-- The sync byte (11.1). -/
def sync : Byte := 0xA5

/-- The frame kinds (11.1). -/
inductive FrameKind where
  | poll | request | none | join | answer
  deriving DecidableEq, Repr

/-- Frame kind codes (11.1). -/
def FrameKind.code : FrameKind → Nat
  | .poll => 1
  | .request => 2
  | .none => 3
  | .join => 4
  | .answer => 5

/-- The bytes of a frame (11.1). -/
def frame (address : Nat) (kind : FrameKind) (payload : List Byte) : List Byte :=
  let body := [byte address, byte kind.code, byte payload.length] ++ payload
  sync :: body ++ bytes2 (crc body)

/-- The three marker bytes of an answer (R185). -/
def markerBytes : Option Marker → List Byte
  | none => [0, 0xFF, 0xFF]
  | some m => [if m.more then 2 else 1, byte m.table.code, byte m.index]

/-- The payload of an answer (R185): status, marker, body. -/
def answerPayload (status : Status) (marker : Option Marker) (body : List Byte) : List Byte :=
  byte status.code :: markerBytes marker ++ body

/-- A received reply that is not corrupt: its address, kind and payload. -/
structure Received where
  address : Nat
  kind : FrameKind
  payload : List Byte
  deriving DecidableEq, Repr

/-- The kind of a frame the part may receive, with the payload length it must have (R172, R184). -/
def receivedKind (kind length : Nat) : Option FrameKind :=
  if kind = 2 ∧ length ≠ 0 then some .request
  else if kind = 3 ∧ length = 0 then some .none
  else if kind = 4 ∧ length = 1 then some .join
  else none

/-- Reads the bytes of a received frame; none is a corrupt frame (R172, R184). -/
def readFrame : List Byte → Option Received
  | sy :: address :: kind :: length :: rest =>
    let n := length.toNat
    let payload := rest.take n
    match receivedKind kind.toNat n with
    | some k =>
      if sy = sync ∧ n ≤ 64 ∧ rest.length = n + 2 ∧
          rest.drop n = bytes2 (crc ([address, kind, length] ++ payload)) then
        some ⟨address.toNat, k, payload⟩
      else none
    | none => none
  | _ => none

/-- The command a WATCH spells; an operation that is neither clear nor set is outside the form, as a set with no
parameters is (R179). -/
def watchCommand : List Byte → Instr
  | operation :: rest =>
    if operation.toNat = 0 then .watchClear rest else if operation.toNat = 1 then .watchSet rest else .watchSet []
  | [] => .watchSet []

/-- The command an AMEND spells, by its table code (R179). -/
def amendCommand : List Byte → Instr
  | [] => .amendOfDriveOrRoster []
  | table :: rest =>
    match tableOf table with
    | some .loop => .amendLoop rest
    | some .room => .amendRoom rest
    | some .house => .amendHouse rest
    | some .floor => .amendFloor rest
    | _ => .amendOfDriveOrRoster (table :: rest)

/-- The command a REQUEST's payload spells (11.2). `motorStep` is where the motor stands if it is a STOP. -/
def requestCommand (motorStep : Nat) : List Byte → Instr
  | [] => .corruptReply
  | kind :: p =>
    match kind.toNat with
    | 0x10 => .look p
    | 0x11 => watchCommand p
    | 0x12 => .describe p
    | 0x20 => .claim p
    | 0x21 => .demand p
    | 0x22 => .release p
    | 0x30 => amendCommand p
    | 0x31 => .enrol p
    | 0x32 => .retire p
    | 0x33 => .preset p
    | 0x40 => .campaignStart p
    | 0x41 => .campaignCancel p
    | 0x50 => .hold p
    | 0x51 => .resume p
    | 0x52 => .stop p motorStep
    | 0x60 => .store p
    | 0x61 => .restart p
    | _ => .unknownRequest kind p

/-- The station kind a JOIN names (11.4). -/
def joinKind : List Byte → Option StationKind
  | [b] =>
    match b.toNat with
    | 0 => some .service
    | 1 => some .source
    | 2 => some .room
    | _ => none
  | _ => none

/-- The command a reply to the poll of an occupied slot spells (R175). -/
def slotReply (address motorStep : Nat) (bytes : List Byte) : Instr :=
  match readFrame bytes with
  | some r =>
    if r.address = address then
      match r.kind with
      | .none => .noneReply
      | .request => requestCommand motorStep r.payload
      | _ => .corruptReply
    else .corruptReply
  | none => .corruptReply

/-- The command a reply to the open call spells (R177). -/
def openCallReply (bytes : List Byte) : Instr :=
  match readFrame bytes with
  | some r =>
    match r.kind, joinKind r.payload with
    | .join, some k => if addressOk r.address then .join k r.address else .openCallReplyDiscarded
    | _, _ => .openCallReplyDiscarded
  | none => .openCallReplyDiscarded

/-- The bytes of a reply received while a window is open, put at the end of the queue as the command they spell; a
frame outside a window is ignored (R174). -/
def State.receive (s : State) (motorStep : Nat) (bytes : List Byte) : State :=
  match s.link.window with
  | .shut => s
  | .openCall => { s with pending := s.pending ++ [openCallReply bytes] }
  | .slot k =>
    match s.slot k with
    | some x => { s with pending := s.pending ++ [slotReply x.address motorStep bytes] }
    | none => s

end Sys2Proof.Machine
end

