-- ==== Sys2Proof/Machine/Storage.lean ====
section
/-! DEFINITION. The stored image: the snapshot (R53), the taking of a store (R54), the laws an image must satisfy
(R56), and the loading of records from it (R29, R42, R45, R52). -/

namespace Sys2Proof.Machine

/-- A VACANT loop as the image holds it (R53, R14). -/
def ImageLoop.vacant : ImageLoop := ⟨.vacant, none, none, 1, Config.fullStroke, .unmeasured⟩

/-- A loop is stored as VACANT: VACANT itself, or RETIRING (R53). -/
def Loop.storedVacant (l : Loop) : Bool := decide (l.life = .vacant) || decide (l.life = .retiring)

/-- What the image keeps of a loop (R53). -/
def Loop.image (l : Loop) : ImageLoop :=
  if l.storedVacant then .vacant else ⟨.enrolled, l.room, l.length, l.covering, l.ceiling, l.balance⟩

/-- The snapshot of the records (R53). -/
def State.snapshot (s : State) : Image where
  loops := Vector.ofFn fun i : LoopIx => (s.loop i).image
  rooms := Vector.ofFn fun r : RoomIx => ⟨(s.room r).leaseLength, (s.room r).fallback⟩
  floorList := s.floorList.filter fun i => !(s.loop i).storedVacant
  season := s.house.season
  designA := s.house.designA
  designB := s.house.designB
  deadband := s.house.deadband
  settleBase := s.house.settleBase
  trimEnable := s.house.trimEnable
  flowFloor := s.house.flowFloor
  leaseUnit := s.house.leaseUnit
  exerciseMinute := s.house.exerciseMinute
  roundLimit := s.house.roundLimit

/-- A store is taken: the snapshot begins to be written, and store busy becomes yes (R54). -/
def State.takeStore (s : State) : State :=
  (s.setStorage { s.storage with running := some s.snapshot }).markHouse true

/-- An automatic store: taken at once, or remembered by the store-again mark (R54). -/
def State.automaticStore (s : State) : State :=
  if s.storage.running.isSome then s.setStorage { s.storage with again := true } else s.takeStore

/-- A range of a quantity. -/
def within (lo n hi : Nat) : Bool := decide (lo ≤ n) && decide (n ≤ hi)

/-- A length in its range, or absent (R2). -/
def lengthOk : Option Nat → Bool
  | none => true
  | some n => within 5 n 200

/-- The ranges and laws of one stored loop (R56). -/
def ImageLoop.lawful (l : ImageLoop) : Bool :=
  match l.life with
  | .vacant => decide (l = .vacant)
  | .enrolled =>
    lengthOk l.length && within 1 l.covering 3 && within Config.minCeiling l.ceiling Config.fullStroke
  | _ => false

/-- The ranges of one stored room (R56). -/
def ImageRoom.lawful (x : ImageRoom) : Bool := within 1 x.leaseLength 15 && decide (x.fallback ≤ 100)

/-- No room is named by more than 6 loops (R31). -/
def Image.roomsFit (g : Image) : Bool :=
  allRooms.all fun r => decide ((allLoops.filter fun i => (g.loops[i]).room = some r).length ≤ Config.roomCapacity)

/-- The Floor List's laws (R43). -/
def Image.floorLawful (g : Image) : Bool :=
  decide (g.floorList.length ≤ Config.floorCapacity) && decide g.floorList.Nodup &&
    g.floorList.all fun i => decide ((g.loops[i]).life ≠ .vacant)

/-- The ranges of the stored settings (R46). -/
def Image.settingsLawful (g : Image) : Bool :=
  within 30 g.designA 100 && within 30 g.designB 100 && within 3 g.deadband 20 && within 5 g.settleBase 60 &&
    decide (g.flowFloor ≤ 24000) && (decide (g.leaseUnit = 1) || decide (g.leaseUnit = 5)) &&
    decide (g.exerciseMinute < Config.minutesPerWeek) && within 1 g.roundLimit 48

/-- The content breaks no range and no law (R56). -/
def Image.lawful (g : Image) : Bool :=
  (allLoops.all fun i => (g.loops[i]).lawful) && (allRooms.all fun r => (g.rooms[r]).lawful) && g.roomsFit &&
    g.floorLawful && g.settingsLawful

/-- The status the House Record gives the memory at power-up, with the image to load if it is VALID (R56). -/
def NvMemory.examine : NvMemory → ImageStatus × Option Image
  | .blank => (.blank, none)
  | .unsound => (.bad, none)
  | .sound g => if g.lawful then (.valid, some g) else (.bad, none)

/-- The memory after a supply or a run that ended: a store cut short leaves a check that does not match (R53, R56). -/
def Storage.afterLoss (x : Storage) : NvMemory := if x.running.isSome then .unsound else x.memory

/-- A loop record loaded from the image (R29). -/
def ImageLoop.load (l : ImageLoop) : Loop :=
  { Loop.vacant with
    life := l.life
    room := l.room
    length := l.length
    covering := l.covering
    ceiling := l.ceiling
    balance := if l.balance = .excluded then .unmeasured else l.balance }

/-- A room record loaded from the image (R42). -/
def ImageRoom.load (x : ImageRoom) : Room :=
  { Room.initial with leaseLength := x.leaseLength, fallback := x.fallback }

/-- The House Record's settings loaded from the image (R52). -/
def Image.house (g : Image) : House :=
  { House.default with
    season := g.season
    designA := g.designA
    designB := g.designB
    deadband := g.deadband
    settleBase := g.settleBase
    trimEnable := g.trimEnable
    flowFloor := g.flowFloor
    leaseUnit := g.leaseUnit
    exerciseMinute := g.exerciseMinute
    roundLimit := g.roundLimit }

end Sys2Proof.Machine
end

