-- ==== Sys2Proof/Machine/Drive.lean ====
section
/-! DEFINITION. Wants and entries of the Drive Queue: supersession (R80), appending (R78), filling freed places (R79),
taking a changed commanded stroke (R84), and the open counter's return to 0 at a report (R133). -/

namespace Sys2Proof.Machine

/-- A report to the Trimming Engine about one loop: its open counter returns to 0 unless its conditions hold (R133). -/
def State.recount (s : State) (i : LoopIx) : State := if s.counts i then s else s.modLoop i Loop.zeroCounter

/-- The same for every loop, at a report that touches all (R133: pause, drive state). -/
def State.recountAll (s : State) : State := s.mapLoops fun i l => if s.counts i then l else l.zeroCounter

/-- Two kinds of want combined, existing and new (R80). -/
def supersede : Option MoveKind → MoveKind → MoveKind
  | none, k => k
  | some .home, _ => .home
  | some .park, .home => .home
  | some .park, _ => .park
  | some .position, .home => .home
  | some .position, .park => .park
  | some .position, _ => .position
  | some .exercise, k => k

/-- The entry a want of a loop makes: POSITION takes the commanded stroke of the moment (R78, R80). -/
def State.entryFor (s : State) (i : LoopIx) (k : MoveKind) : Entry :=
  ⟨i, k, if k = .position then some (s.loop i).commanded else none⟩

/-- The Drive Queue's report of a loop after `before`: each change of its want and of its pending target (R82). Whether
an entry names the loop is no field of its record, and a change of it triggers no watch (R182; log 8). -/
def State.tellWork (t before : State) (i : LoopIx) : State :=
  (t.markLoopIf (decide ((before.loop i).want ≠ (t.loop i).want)) i false).markLoopIf
    (decide ((before.loop i).pendingTarget ≠ (t.loop i).pendingTarget)) i false

/-- The report of a change of drive idle after `before` (R82, R95; log 8). -/
def State.tellIdle (t before : State) : State := t.markHouseIf (decide (before.drive.idle ≠ t.drive.idle)) false

/-- Appends an entry at the tail (R78); drive idle may become no (R95; log 24). -/
def State.append (s : State) (e : Entry) : State := (s.setQueue (s.drive.queue ++ [e])).tellIdle s

/-- Appends an entry for a loop's want where it is outstanding and a place is free (R78). -/
def State.place (s : State) (i : LoopIx) : State :=
  match (s.loop i).want with
  | some k =>
    if s.outstanding i && decide (s.drive.queue.length < Config.queueCapacity) then s.append (s.entryFor i k) else s
  | none => s

/-- A want of a loop other than the one given is outstanding. -/
def State.othersWait (s : State) (i : LoopIx) : Bool := allLoops.any fun j => decide (j ≠ i) && s.outstanding j

/-- Places a want that has just been set (R78). Where the wants of other loops are outstanding, a free place is one that
a removal not yet taken in full has freed, and it is left to be filled by loop index (R79, R81). -/
def State.placeOwn (s : State) (i : LoopIx) : State := if s.othersWait i then s else s.place i

/-- Fills the free places in ascending loop index (R79). -/
def State.fill (s : State) : State := s.forEach allLoops State.place

/-- Any waiting entry of a loop changed in place to a kind, with its target (R80). -/
def State.retarget (s : State) (i : LoopIx) (k : MoveKind) : State :=
  s.setQueue (s.drive.queue.map fun e => if e.loop = i then s.entryFor i k else e)

/-- Sets a want, combined with the one the loop has (R80), and places it (R78). A want that is dropped leaves the loop as
it was. Every other one is reported as a change of the loop's want (R80, R82), also where the kind stays: a POSITION whose
target is replaced, and a want kept as it is (log 8). With a want on the loop the end of opening finds nothing (R152). -/
def State.want (s : State) (i : LoopIx) (k : MoveKind) : State :=
  if supersede (s.loop i).want k = k then
    ((((s.modLoop i fun l => l.setWant (some k)).retarget i k).recount i).markLoop i false).placeOwn i
  else s

/-- A want set to NONE, which the caller reports (R77). -/
def State.endWant (s : State) (i : LoopIx) : State := s.modLoop i fun l => l.setWant none

/-- Sets a want to NONE at the start of a move; the change is reported to the watches, but not to the Campaign Unit, since
the move still names the loop (R82, R83). -/
def State.unwant (s : State) (i : LoopIx) : State := (s.endWant i).tellWork s i

/-- Any waiting entry of a loop removed, with its want and its pending target (R60, R14, R81); the caller reports it. -/
def State.clearWork (s : State) (i : LoopIx) : State :=
  (s.setQueue (s.drive.queue.filter fun e => decide (e.loop ≠ i))).modLoop i fun l => (l.setWant none).setPending none

/-- Sets a pending target; a change is reported (R82, R84). -/
def State.setPending (s : State) (i : LoopIx) (t : Option Nat) : State :=
  (s.modLoop i fun l => l.setPending t).tellWork s i

/-- Takes a changed commanded stroke of a READY loop (R84). -/
def State.takeStroke (s : State) (i : LoopIx) : State :=
  if (s.loop i).want.isNone && s.movingLoop i then s.setPending i (some (s.loop i).commanded) else s.want i .position

/-- Marks a head not homed (R57, R64). -/
def State.unhome (s : State) (i : LoopIx) : State := (s.modLoop i Loop.unhomed).recount i

/-- Sets the want HOME; the head is not homed from that moment (R64). -/
def State.wantHome (s : State) (i : LoopIx) : State := (s.unhome i).want i .home

/-- A HOME want set where a condition holds (R16, R25). -/
def State.wantHomeIf (s : State) (c : Bool) (i : LoopIx) : State := if c then s.wantHome i else s

/-- A report to the Trimming Engine about one loop, if there is one (R133). -/
def State.recountIf (s : State) (c : Bool) (i : LoopIx) : State := if c then s.recount i else s

end Sys2Proof.Machine
end

