-- ==== Sys2Proof/Machine/Demand.lean ====
section
/-! DEFINITION. The Demand Unit: base strokes (R113), the sum (R120), the floor walk (R121, R122, R125) and the
recompute with what it hands on (R116, R117, R118). -/

namespace Sys2Proof.Machine

/-- The demand a loop's room asks for; a loop with no room uses 0 (R113). -/
def State.demandOf (s : State) (i : LoopIx) : Nat :=
  match (s.loop i).room with
  | some r => (s.room r).effective
  | none => 0

/-- The base stroke of a loop, by the first row of R113 it meets. -/
def State.baseStroke (s : State) (i : LoopIx) : Nat :=
  let l := s.loop i
  if l.life ≠ .ready then 0
  else if l.owner = .service then l.override
  else if s.house.season = .standby then 0
  else if s.campaignOpen (manifoldOf i) then l.ceiling
  else l.ceiling * s.demandOf i / 100

/-- Row 5 of R113 gives the loop's base stroke. -/
def State.onDemand (s : State) (i : LoopIx) : Bool :=
  decide ((s.loop i).life = .ready) && decide ((s.loop i).owner = .auto) && decide (s.house.season = .heating) &&
    !s.campaignOpen (manifoldOf i)

/-- The sum of a recompute: the base strokes of the READY loops (R120). -/
def State.strokeSum (s : State) : Nat :=
  ((allLoops.filter fun i => (s.loop i).life = .ready).map s.baseStroke).sum

/-- A member of the Floor List can help (R121). -/
def State.canHelp (s : State) (i : LoopIx) : Bool :=
  s.onDemand i && decide (s.baseStroke i < (s.loop i).ceiling)

/-- The walk over the Floor List from a running total: the loops it holds and the total it ends with (R121). -/
def State.walk (s : State) : List LoopIx → Nat → List LoopIx × Nat
  | [], total => ([], total)
  | i :: rest, total =>
    if s.house.flowFloor ≤ total then ([], total)
    else if s.canHelp i then
      let r := s.walk rest (total + ((s.loop i).ceiling - s.baseStroke i))
      (i :: r.1, r.2)
    else s.walk rest total

/-- The loops held for the flow floor, and whether the floor is short (R121, R122); in STANDBY no walk is made
(R125). -/
def State.floorWalk (s : State) : List LoopIx × Bool :=
  if s.house.season = .standby then ([], false)
  else
    let r := s.walk s.floorList s.strokeSum
    (r.1, decide (r.2 < s.house.flowFloor))

/-- A loop's new commanded stroke: its base stroke, or its ceiling if it is held (R113). -/
def State.newStroke (s : State) (held : List LoopIx) (i : LoopIx) : Nat :=
  if held.contains i then (s.loop i).ceiling else s.baseStroke i

/-- Every stroke, mark and the floor-short indication evaluated together from the inputs as they stand (R116). -/
def State.evaluated (s : State) : State :=
  (s.mapLoops fun i l => l.setStroke (s.newStroke s.floorWalk.1 i) (s.floorWalk.1.contains i)).setFloorShort
    s.floorWalk.2

/-- The changed strokes of READY loops handed to the Drive Queue in ascending index (R117, R118). -/
def State.handStrokes (t before after : State) : State :=
  t.forEach allLoops fun u i =>
    if (before.loop i).life = .ready ∧ (before.loop i).commanded ≠ (after.loop i).commanded then u.takeStroke i else u

/-- A changed floor-short indication handed to the House Record (R117). -/
def State.tellShort (t before after : State) : State :=
  if before.floorShort = after.floorShort then t else t.markHouse false

/-- The changed loops handed to the House Link Controller (R117). -/
def State.tellStrokes (t before after : State) : State :=
  t.forEach allLoops fun u i =>
    u.markLoopIf
      (decide ((before.loop i).commanded ≠ (after.loop i).commanded) ||
        decide ((before.loop i).floorHeld ≠ (after.loop i).floorHeld)) i false

/-- The recompute (R116), its differences handed on in the order of R117. -/
def State.recompute (s : State) : State :=
  ((s.evaluated.handStrokes s s.evaluated).tellShort s s.evaluated).tellStrokes s s.evaluated

/-- The recompute at a report, if there is one (R115). -/
def State.recomputeIf (s : State) (c : Bool) : State := if c then s.recompute else s

end Sys2Proof.Machine
end

