-- ==== Sys2Proof/Machine/Trimming.lean ====
section
/-! DEFINITION. The Trimming Engine's shared operations: round starts (R131), the check of a timer's conditions (R130),
coupling events (R134), pause (R135), balance statuses outside evaluation (R141, R142), and the evaluation of a loop
(R136 to R139). -/

namespace Sys2Proof.Machine

/-- Every open counter of a manifold to 0. -/
def State.clearCounters (s : State) (m : Manifold) : State :=
  s.mapLoops fun i l => if manifoldOf i = m then l.zeroCounter else l

/-- The manifold's own design ΔT (R46). -/
def House.design (h : House) : Manifold → Nat
  | .a => h.designA
  | .b => h.designB

/-- The round settings the House Record holds for a manifold, with the minutes of a round start (R131). -/
def House.round (h : House) (m : Manifold) (runs : Bool) : RoundTimer :=
  ⟨if runs then some h.settleBase else none, h.settleBase, h.design m, h.deadband⟩

/-- A round start (R131): the round settings are adopted, a running timer gets its full settle base, and the supply
reference is set (R105). -/
def State.roundStart (s : State) (m : Manifold) (runs : Bool) : State :=
  (s.setTimer m (s.house.round m runs)).setSupplyRef m (s.channel (supplyChannel m)).reading

/-- A round timer FROZEN, its remaining minutes discarded (R130). -/
def RoundTimer.frozen (t : RoundTimer) : RoundTimer := { t with remaining := none }

/-- The round timer is RUNNING (R129). -/
def State.timerRunning (s : State) (m : Manifold) : Bool := (s.timer m).remaining.isSome

/-- The check of a timer's conditions at a report (R130): a failing one freezes it, and a timer that meets every
condition again is released with a fresh round. -/
def State.checkTimer (s : State) (m : Manifold) : State :=
  if s.timerRuns m then
    if s.timerRunning m then s else (s.clearCounters m).roundStart m true
  else if s.timerRunning m then s.setTimer m (s.timer m).frozen else s

/-- A coupling event on a manifold (R134). -/
def State.coupling (s : State) (m : Manifold) : State := (s.clearCounters m).roundStart m (s.timerRunning m)

/-- A pause onset or end on one manifold (R135): counters to 0, and a round start that runs where the conditions of
R130 hold at that moment. -/
def State.pauseRound (s : State) (m : Manifold) : State := (s.clearCounters m).roundStart m (s.timerRuns m)

/-- UNMEASURED, or EXCLUDED where R142 says so, with in-band count 0 (R141). -/
def State.voidBalance (s : State) (i : LoopIx) : State :=
  s.modLoop i fun l => l.rate 0 (s.unmeasured i)

/-- The Trimming Engine's report of a change of a loop's in-band count or balance status since `before` (R146). -/
def State.tellBalance (t before : State) (i : LoopIx) : State :=
  t.markLoopIf
    (decide ((before.loop i).inBand ≠ (t.loop i).inBand) || decide ((before.loop i).balance ≠ (t.loop i).balance)) i
      (decide ((before.loop i).balance ≠ (t.loop i).balance))

/-- The step of an adjustment for an error beyond the deadband (R138). -/
def trimStep (error deadband : Nat) : Nat := min 50 (10 * ((error - deadband + 4) / 5))

/-- What an evaluation gives a loop (R137, R139): in-band count, status and the ceiling it claims, if it is adjusted. -/
structure Verdict where
  inBand : Nat
  balance : Balance
  claim : Option Nat
  deriving DecidableEq, Repr

/-- The evaluation of a loop's ΔT against the round's design ΔT and deadband (R137, R138, R139). The status in band
follows from the count alone. So a loop loaded BALANCED at power-up, with in-band count 0 (R29, R147), that is judged in
band gets count 1 and TRIMMING, as R139's own step says; that rule says too that a BALANCED loop judged in band stays
BALANCED with count 3, and which holds for a loaded one is the model's choice (log 37). -/
def judge (ceiling inBand : Nat) (deltaT : Int) (design deadband : Nat) : Verdict :=
  let e := deltaT - design
  let size := e.natAbs
  if size ≤ deadband then
    let n := min 3 (inBand + 1)
    ⟨n, if n = 3 then .balanced else .trimming, none⟩
  else if 0 < e then
    if ceiling < Config.fullStroke then
      ⟨0, .trimming, some (min Config.fullStroke (ceiling + trimStep size deadband))⟩
    else ⟨0, .limitedHigh, none⟩
  else
    if Config.minCeiling < ceiling then
      ⟨0, .trimming, some (max Config.minCeiling (ceiling - trimStep size deadband))⟩
    else ⟨0, .limitedLow, none⟩

/-- The verdict on a loop at its manifold's round expiry, where R136 admits it; EXCLUDED where R142 gives it that at
the expiry. -/
def State.verdict (s : State) (m : Manifold) (i : LoopIx) : Option Verdict :=
  let l := s.loop i
  let t := s.timer m
  if l.life ≠ .ready then none
  else if l.owner = .service ∨ s.sensorFault i then
    if l.balance = .excluded then none else some ⟨0, .excluded, none⟩
  else
    match l.deltaT with
    | none => none
    | some dt =>
      if (s.channel (loopChannel i)).state = .ok ∧ t.settleBase * l.covering ≤ l.openCounter then
        some (judge l.ceiling l.inBand dt t.design t.deadband)
      else none

end Sys2Proof.Machine
end

