-- ==== Sys2Proof/Machine/Campaigns.lean ====
section
/-! DEFINITION. The Campaign Unit: entering ROUNDS (R149, R145), the end of opening (R152), suspension and resumption
(R156, R157), the count of a round (R154, R155), a campaign's end (R158), abandonment (R161) and start (R151); and a
change of the drive state, which reaches the trimming and the campaigns (R82). -/

namespace Sys2Proof.Machine

/-- What the Trimming Engine does at an entry into ROUNDS: every counter of the manifold to 0 and a round start, which
runs where the other conditions hold (R145). -/
def State.roundsEntered (s : State) (m : Manifold) : State := (s.clearCounters m).roundStart m (s.timerRuns m)

/-- The state of an open campaign becomes ROUNDS (R152, R157); the record is reported by the caller. -/
def State.enterRounds (s : State) (m : Manifold) : State :=
  (s.setCampaign m { s.campaign m with state := .rounds, resume := none }).roundsEntered m

/-- The check of a timer's conditions where a campaign has left ROUNDS (R149). -/
def State.checkTimerIf (s : State) (c : Bool) (m : Manifold) : State := if c then s.checkTimer m else s

/-- A campaign in OPENING whose opening has ended enters ROUNDS (R152); the record is reported by the caller. -/
def State.endOpening (s : State) (m : Manifold) : State := if s.openingOver m then s.enterRounds m else s

/-- The examination of the end of opening at a report (R152). -/
def State.examineOpening (s : State) (m : Manifold) : State :=
  if (s.campaign m).state = .opening ∧ s.openingOver m then (s.enterRounds m).markHouse true else s

/-- A campaign becomes SUSPENDED with a resume state (R156); the record is reported by the caller. -/
def State.suspend (s : State) (m : Manifold) (r : ResumeState) : State :=
  (s.setCampaign m { s.campaign m with state := .suspended, resume := some r }).checkTimerIf (decide (r = .rounds)) m

/-- A suspended campaign resumes (R157); the record is reported by the caller, once (log 8). -/
def State.resumed (s : State) (m : Manifold) : State :=
  if (s.campaign m).resume = some .rounds then s.enterRounds m
  else (s.setCampaign m { s.campaign m with state := .opening, resume := none }).endOpening m

/-- The examination of a campaign at a report of a cause of suspension (R156, R157), and its report (R149). -/
def State.checkCampaign (s : State) (m : Manifold) : State :=
  match (s.campaign m).state with
  | .idle => s
  | .opening => if s.held m then (s.suspend m .opening).markHouse true else s
  | .rounds => if s.held m then (s.suspend m .rounds).markHouse true else s
  | .suspended => if s.held m then s else (s.resumed m).markHouse true

/-- A change of the drive state, reported to the Trimming Engine, the Campaign Unit and the House Record (R82). -/
def State.setDriveState (s : State) (d : DriveState) : State :=
  if s.drive.state = d then s
  else
    (((((s.putDriveState d).recountAll.checkTimer .a).checkTimer .b).checkCampaign .a).checkCampaign .b).markHouse
      true

/-- A campaign record back at IDLE with an outcome and a reason (R158, R161). -/
def Campaign.closed (c : Campaign) (o : LastOutcome) (r : Option AbandonReason) : Campaign :=
  { c with state := .idle, resume := none, outcome := o, reason := r }

/-- A campaign's return to IDLE: the departure from ROUNDS to the Trimming Engine, then the return to the Demand Unit
(R149). -/
def State.returnToIdle (s : State) (m : Manifold) (o : LastOutcome) (r : Option AbandonReason) : State :=
  ((s.setCampaign m ((s.campaign m).closed o r)).checkTimerIf (decide ((s.campaign m).state = .rounds)) m).recompute

/-- A campaign ends COMPLETE or PARTIAL, with its automatic store (R158). -/
def State.endCampaign (s : State) (m : Manifold) (o : LastOutcome) : State :=
  ((s.returnToIdle m o none).automaticStore).markHouse true

/-- An open campaign is abandoned (R161). -/
def State.abandon (s : State) (m : Manifold) (r : AbandonReason) : State :=
  if s.campaignOpen m then (s.returnToIdle m .abandoned (some r)).markHouse true else s

/-- The participants of a campaign at a round expiry (R154). -/
def State.participants (s : State) (m : Manifold) : List LoopIx :=
  (loopsOf m).filter fun i =>
    (s.loop i).life = .ready ∧ (s.loop i).owner = .auto ∧ (s.channel (loopChannel i)).state = .ok

/-- A balance status that settles a participant (R154). -/
def Balance.settled : Balance → Bool
  | .balanced => true
  | .limitedHigh => true
  | .limitedLow => true
  | .unmeasured => false
  | .trimming => false
  | .excluded => false

/-- A campaign record with one more round done (R155). -/
def Campaign.counted (c : Campaign) : Campaign := { c with roundsDone := c.roundsDone + 1 }

/-- What a campaign comes to at a counted round (R155, steps 2 to 5). -/
def State.decideRound (s : State) (m : Manifold) : State :=
  if (s.participants m).isEmpty then s.abandon m .noLoops
  else if (s.participants m).all fun i => (s.loop i).balance.settled then s.endCampaign m .complete
  else if s.house.roundLimit ≤ (s.campaign m).roundsDone then s.endCampaign m .partly
  else s.markHouse false

/-- A round expiry handed to the Campaign Unit (R155). -/
def State.countRound (s : State) (m : Manifold) : State :=
  if (s.campaign m).state = .rounds then (s.setCampaign m (s.campaign m).counted).decideRound m else s

/-- The examination of the causes of suspension, and else of the end of opening, at a start (R151, steps 3 and 4). -/
def State.examineStart (s : State) (m : Manifold) : State := if s.held m then s.suspend m .opening else s.endOpening m

/-- The start of a campaign on a manifold (R151); its record is reported once, as its own change. -/
def State.startCampaign (s : State) (m : Manifold) : State :=
  ((s.setCampaign m ⟨.opening, none, 0, .none, none⟩).recompute.examineStart m).markHouse true

end Sys2Proof.Machine
end

