-- ==== Sys2Proof/Machine/Lifecycle.lean ====
section
/-! DEFINITION. The Loop Table's shared operations: a lifecycle change with its reports in the order of R13, a loop
becoming VACANT (R14), and the ceiling laid out by length (R17, R26). -/

namespace Sys2Proof.Machine

/-- A loop whose state was `old` has entered or left READY (R9). -/
def State.crossed (s : State) (i : LoopIx) (old : Lifecycle) : Bool :=
  decide (old = .ready) != decide ((s.loop i).life = .ready)

/-- A coupling event on a manifold, if there is one (R134). -/
def State.couplingIf (s : State) (c : Bool) (m : Manifold) : State := if c then s.coupling m else s

/-- The examination of the end of opening at a report, if there is one (R152). -/
def State.examineOpeningIf (s : State) (c : Bool) (m : Manifold) : State := if c then s.examineOpening m else s

/-- The reports of a lifecycle change, in the order of R13: the Demand Unit, the Trimming Engine (a coupling event for
an entry into or exit from READY, R9), the Campaign Unit, the House Link Controller. -/
def State.lifeChanged (s : State) (i : LoopIx) (old : Lifecycle) : State :=
  (((s.recompute.couplingIf (s.crossed i old) (manifoldOf i)).recount i).examineOpeningIf (s.crossed i old)
    (manifoldOf i)).markLoop i true

/-- A lifecycle change with its reports. -/
def State.setLife (s : State) (i : LoopIx) (new : Lifecycle) : State :=
  (s.modLoop i fun l => l.setLife new).lifeChanged i (s.loop i).life

/-- A change of the head fields a LOOK shows (R57, R73): present, homed, capacity, position, stall count, idle days. -/
def Loop.headMoved (l x : Loop) : Bool :=
  decide (l.present ≠ x.present) || decide (l.homed ≠ x.homed) || decide (l.capacity ≠ x.capacity) ||
    decide (l.position ≠ x.position) || decide (l.stallCount ≠ x.stallCount) || decide (l.idleDays ≠ x.idleDays)

/-- The Head Ports' report of a change of a loop's head fields since `before`, once per event (R73; log 8). -/
def State.tellHead (t before : State) (i : LoopIx) : State :=
  t.markLoopIf ((before.loop i).headMoved (t.loop i)) i false

/-- A loop record as it is once VACANT: the values of R14, the head fields as the Head Ports hold them. -/
def Loop.vacated (l : Loop) : Loop :=
  { Loop.vacant with
    present := l.present
    homed := l.homed
    capacity := l.capacity
    stepPos := l.stepPos
    position := l.position
    idleDays := l.idleDays
    deltaT := l.deltaT }

/-- A report that a room's loop list has changed (R31). -/
def State.markRoomOf (s : State) (r : Option RoomIx) : State :=
  match r with
  | some r => s.markRoom r false
  | none => s

/-- A loop leaves the Floor List, the later members moving up (R14, R43). -/
def State.dropMember (s : State) (i : LoopIx) : State := s.setFloorList (s.floorList.filter fun j => decide (j ≠ i))

/-- The Drive Queue removes any waiting entry of a loop, its want and its pending target (R60, R14, R81), and reports it
to the Campaign Unit, which examines the end of opening (R152), before the watches (R82). The place is filled by the
caller, when the removal has been taken in full. -/
def State.dropWork (s : State) (i : LoopIx) : State :=
  (((s.clearWork i).examineOpening (manifoldOf i)).tellWork s i).tellIdle s

/-- A loop becomes VACANT (R14), taken together and then reported (R13); the place its entry leaves is filled after
(R81). The loop is reported first, then the list of the room it had: R14 gives no order, and this one is the model's
choice (log 32). -/
def State.becomeVacant (s : State) (i : LoopIx) : State :=
  (((((s.dropWork i).dropMember i).modLoop i Loop.vacated).lifeChanged i (s.loop i).life).markRoomOf
    (s.loop i).room).fill

/-- The longest length among the occupied loops of a manifold that have one (R17); 0 where none has. -/
def State.longest (s : State) (m : Manifold) : Nat :=
  ((loopsOf m).map fun i => if (s.loop i).occupied then (s.loop i).length.getD 0 else 0).foldl max 0

/-- The ceiling laid out by length (R17, R26). -/
def ceilingByLength (length : Option Nat) (longest : Nat) : Nat :=
  match length with
  | some n => max Config.minCeiling (1000 * n / longest)
  | none => Config.fullStroke

end Sys2Proof.Machine
end

