-- ==== Sys2Proof/Machine/Moves.lean ====
section
/-! DEFINITION. Moves: steps and strokes (R62), the start of a move (R83), legs (R63, R65), and the ends of moves with
what the Head Ports, the Loop Table and the Drive Queue do at them (R66, R67, R69 to R71, R19, R86, R87, R170). -/

namespace Sys2Proof.Machine

/-- The step of a stroke on a head of a capacity (R62). -/
def stepOf (capacity stroke : Nat) : Nat := capacity * stroke / 1000

/-- A step position shown as a position (R62). -/
def strokeOf (capacity step : Nat) : Nat := step * 1000 / capacity

/-- The stroke a leg of a move of a homed head is driven towards (R62). -/
def Move.aimedAt (m : Move) : Nat :=
  match m.kind with
  | .position => m.target.getD 0
  | .park => 0
  | .exercise => if m.leg = .first then Config.fullStroke else m.returnStroke.getD 0
  | .home => 0

/-- The step the motor starts the leg from, and the step of the leg's target (R63). -/
def State.legFrom (s : State) (m : Move) : Nat := (s.loop m.loop).stepPos.getD 0
def State.legTo (s : State) (m : Move) : Nat := stepOf ((s.loop m.loop).capacity.getD 0) m.aimedAt

/-- A step reported for a leg lies between the leg's two ends (R58, R63; log 6). -/
def clampStep (a b step : Nat) : Nat := max (min a b) (min step (max a b))

/-- The dwell that a move of a kind begins (R88). -/
def dwellOf : MoveKind → Nat
  | .home => Config.homeDwell
  | .position => Config.moveDwell
  | .park => Config.moveDwell
  | .exercise => Config.moveDwell

/-- A POSITION want where a READY loop's homed head stands away from its commanded stroke (R87). An absent position, which
a move ended ABORTED, HEAD_LOST has, sets none: the rule does not say whether it differs from the commanded stroke, and
this is the model's choice (log 31). -/
def State.wantAim (s : State) (i : LoopIx) : State :=
  match (s.loop i).position with
  | some p =>
    if (s.loop i).life = .ready ∧ (s.loop i).homed ∧ p ≠ (s.loop i).commanded then s.want i .position else s
  | none => s

/-- The loop's next aim after a move end, and the clearing of its pending target (R87), which the caller reports. -/
def State.aim (s : State) (i : LoopIx) : State := (s.wantAim i).modLoop i fun l => l.setPending none

/-- The last-end record of a move's end (R86, R88). -/
def Move.ended (m : Move) (ending : MoveEnd) (reason : Option EndReason) : Dwell :=
  ⟨m.loop, m.kind, ending, reason, dwellOf m.kind⟩

/-- The running move no longer runs and its dwell stands, from the moment the Head Ports take the end: no move starts, and
drive idle stays no, until the Drive Queue has taken the end (R86, steps 1, 2 and 5; R95). -/
def State.stopRunning (s : State) (m : Move) (ending : MoveEnd) (reason : Option EndReason) : State :=
  (s.setMoving none).setDwell (some (m.ended ending reason))

/-- A HOLDING drive becomes HELD at a move's end, and any drive at a STOP (R86, R90, R91). -/
def State.holdAtEnd (s : State) (toHeld : Bool) : State :=
  if toHeld ∨ s.drive.state = .holding then s.setDriveState .held else s

/-- The Drive Queue takes a move's end, in the order of R86: the running move is cleared and the dwell begins, which they
have where the Head Ports took the end first; a HOLDING drive becomes HELD (and any drive at a STOP, R91), the aim is
settled, and the end of opening is examined (log 17) before the watches hear of a pending target cleared (R82). So a
change of the drive state is reported before the wants of the aim, and the head fields after both (R73, log 23), an order
that is the model's choice where the rules leave it open (log 32). -/
def State.takeEnd (s : State) (m : Move) (ending : MoveEnd) (reason : Option EndReason) (toHeld : Bool) : State :=
  ((((s.stopRunning m ending reason).holdAtEnd toHeld).aim m.loop).examineOpening (manifoldOf m.loop)).markLoopIf
    (s.loop m.loop).pendingTarget.isSome m.loop false

/-- A loop's record as the restart mark clears it (R170). -/
def Loop.unmarked (l : Loop) : Loop := { l with restartMark := false, faults := .empty, stallCount := 0 }

/-- The restart mark of a loop with its head present, taken at a move's end (R170). -/
def State.rehomeAtEnd (s : State) (i : LoopIx) : State :=
  if (s.loop i).life = .ready ∨ (s.loop i).life = .enrolled then ((s.wantHome i).setLife i .homing) else s.wantHome i

/-- The restart mark taken: the fault set emptied, which is reported, and the stall count cleared (R170). -/
def State.unmark (s : State) (i : LoopIx) : State :=
  (s.modLoop i Loop.unmarked).markLoopIf (decide ((s.loop i).faults ≠ .empty)) i false

/-- The restart mark, taken at a move's end after the Head Ports and the Loop Table have taken it (R170). -/
def State.takeRestartMark (s : State) (i : LoopIx) : State :=
  if (s.loop i).restartMark then if (s.loop i).present then (s.unmark i).rehomeAtEnd i else s.unmark i else s

/-- A head's record at a DONE of a POSITION, PARK or EXERCISE (R63, R72). -/
def Loop.arrived (l : Loop) (stroke : Nat) (driven : Bool) : Loop :=
  { l with position := some stroke, stallCount := 0, idleDays := if driven then 0 else l.idleDays }

/-- A RETIRING loop whose PARK has completed becomes VACANT (R19). -/
def State.retireAtEnd (s : State) (m : Move) : State :=
  if (s.loop m.loop).life = .retiring ∧ m.kind = .park then s.becomeVacant m.loop else s

/-- A move of a homed head ends DONE at a stroke (R63), the step position being there already. -/
def State.moveDone (s : State) (m : Move) (stroke : Nat) (driven : Bool) : State :=
  (((((((s.stopRunning m .done none).modLoop m.loop fun l => l.arrived stroke driven).recount m.loop).retireAtEnd
    m).takeRestartMark m.loop).takeEnd m .done none false)).tellHead s m.loop

/-- The second leg of an EXERCISE, with its return stroke (R85). -/
def Move.secondLeg (m : Move) (returnStroke : Nat) (driven : Bool) : Move :=
  { m with leg := .second, returnStroke := some returnStroke, driven := driven }

/-- The second leg of an EXERCISE begins; it is reached at once where no step is to be driven (R85, R63). -/
def State.beginReturn (s : State) (m : Move) (driven : Bool) : State :=
  let m2 := m.secondLeg (s.loop m.loop).commanded driven
  if s.legTo m2 = s.legFrom m2 then (s.setMoving (some m2)).moveDone m2 (s.loop m.loop).commanded driven
  else s.setMoving (some m2)

/-- A leg of a move of a homed head is reached at a stroke; the first leg of an EXERCISE is followed by its second,
towards the commanded stroke of that moment (R85). -/
def State.legDone (s : State) (m : Move) (stroke : Nat) (driven : Bool) : State :=
  if m.kind = .exercise ∧ m.leg = .first then s.beginReturn m driven else s.moveDone m stroke driven

/-- The step position of the running move's head. -/
def State.atStep (s : State) (m : Move) (step : Nat) : State := s.modLoop m.loop fun l => l.setStep step

/-- The move an entry starts (R83, R75). -/
def Entry.move (e : Entry) : Move := ⟨e.loop, e.kind, e.target, .first, none, false⟩

/-- The want at a move's start: NONE but for a HOME (R83, step 1; R77). -/
def State.wantAtStart (s : State) (m : Move) : State := if m.kind = .home then s else s.unwant m.loop

/-- A leg that has no step to drive is reached at once (R63, log 4); a HOME drives until an end-stop (R65). -/
def State.reachAtOnce (s : State) (m : Move) : State :=
  if m.kind ≠ .home ∧ s.legTo m = s.legFrom m then s.legDone m m.aimedAt false else s

/-- A move starts, in the order of R83. -/
def State.beginMove (s : State) (m : Move) : State :=
  (((((s.setMoving (some m)).wantAtStart m).modLoop m.loop fun l => l.setPosition none).recount
    m.loop).fill).reachAtOnce m

/-- The entry at the head becomes the running move (R83). -/
def State.startMove (s : State) : State :=
  match s.drive.queue with
  | [] => s
  | e :: rest => (s.setQueue rest).beginMove e.move

/-- Starts the next move if the conditions of R83 hold at this moment. A command calls it once, at its end: where a
command makes several changes, as the cancel of two campaigns, the rooms of a freed slot and the claims of a round expiry
do, the move starts after the last of them, so a later change of its loop's stroke still changes the entry and sets no
pending target. R83 does not say at which of them it starts, and this is the model's choice (log 3). -/
def State.serve (s : State) : State := if s.canStart then s.startMove else s

/-- A fault set with HEAD_STALL set, and one with HEAD_FAIL set (R7). -/
def FaultSet.withStall (f : FaultSet) : FaultSet := { f with headStall := true }
def FaultSet.withFail (f : FaultSet) : FaultSet := { f with headFail := true }

/-- A fault set with the HEAD_CHANGED latch set or cleared (R8). -/
def FaultSet.withChanged (f : FaultSet) (b : Bool) : FaultSet := { f with headChanged := b }

/-- A fault set with the SENSOR latch set (R6). -/
def FaultSet.withSensor (f : FaultSet) : FaultSet := { f with sensor := true }

/-- HEAD_STALL is set on an occupied loop (R5, R7). -/
def State.latchStall (s : State) (i : LoopIx) : State :=
  if (s.loop i).occupied then (s.modLoop i fun l => l.setFaults l.faults.withStall).markLoop i false else s

/-- A READY loop at the stall limit becomes HOMING (R12). -/
def State.lifeAtLimit (s : State) (i : LoopIx) : State :=
  if (s.loop i).life = .ready then s.setLife i .homing else s

/-- The Head Ports apply the stall limit (R70), and the Loop Table takes it (R12). -/
def State.stallLimit (s : State) (i : LoopIx) : State := ((s.wantHome i).latchStall i).lifeAtLimit i

/-- The Loop Table's retry of a RETIRING loop's PARK that did not complete (R19). -/
def State.parkAgain (s : State) (m : Move) : State :=
  if (s.loop m.loop).life = .retiring ∧ m.kind = .park then s.want m.loop .park else s

/-- A head's record where a move stopped short of its end (R69, R71, R72). -/
def Loop.stoppedAt (l : Loop) (step stalls : Nat) (driven : Bool) : Loop :=
  { l with
    stepPos := some step
    position := some (strokeOf (l.capacity.getD 1) step)
    stallCount := min Config.stallLimit (l.stallCount + stalls)
    idleDays := if driven then 0 else l.idleDays }

/-- The step at which a leg stopped short (R58, log 6). -/
def State.stopStep (s : State) (m : Move) (step : Nat) : Nat := clampStep (s.legFrom m) (s.legTo m) step

/-- A move of a homed head stops at a step short of its end: the fields the Head Ports record (R69, R71). -/
def State.stopAt (s : State) (m : Move) (ending : MoveEnd) (reason : Option EndReason) (step stalls : Nat) : State :=
  ((s.stopRunning m ending reason).modLoop m.loop fun l =>
    l.stoppedAt (s.stopStep m step) stalls (m.driven || decide (s.stopStep m step ≠ s.legFrom m))).recount m.loop

/-- The stall limit where the count has reached it, else a RETIRING loop's PARK again (R70, R19). -/
def State.afterStall (s : State) (m : Move) : State :=
  if Config.stallLimit ≤ (s.loop m.loop).stallCount then s.stallLimit m.loop else s.parkAgain m

/-- A stall in a POSITION, PARK or EXERCISE (R69, R70). -/
def State.moveStalled (s : State) (m : Move) (step : Nat) : State :=
  ((((s.stopAt m .failed (some .stall) step 1).afterStall m).takeRestartMark m.loop).takeEnd m .failed (some .stall)
    false).tellHead s m.loop

/-- A STOP of a POSITION, PARK or EXERCISE (R71, R91). -/
def State.moveStopped (s : State) (m : Move) (step : Nat) : State :=
  ((((s.stopAt m .aborted (some .stop) step 0).parkAgain m).takeRestartMark m.loop).takeEnd m .aborted (some .stop)
    true).tellHead s m.loop

/-- A head's record after a successful homing with a count (R66). -/
def Loop.homedAt (l : Loop) (count : Nat) : Loop :=
  { l with
    homed := true
    capacity := some count
    stepPos := some count
    position := some Config.fullStroke
    stallCount := 0
    idleDays := 0 }

/-- The Loop Table takes a successful homing (R11). -/
def State.homeTaken (s : State) (i : LoopIx) : State :=
  match (s.loop i).life with
  | .homing => s.setLife i .ready
  | .retiring => s.want i .park
  | _ => s

/-- The want NONE at the end of a HOME (R77, R86), reported in the order of R82: to the Trimming Engine (R133), to the
Campaign Unit, which examines the end of opening (R152) unless more work of the same loop holds it, then to the
watches. -/
def State.homeEnded (s : State) (i : LoopIx) (examined : Bool) : State :=
  (((s.endWant i).recount i).examineOpeningIf examined (manifoldOf i)).tellWork s i

/-- A homing succeeds with a count (R66); the want NONE is reported (R77, R82) before the Loop Table takes the success
(R11). So a HOMING loop holds the campaign in OPENING until its HOME ends, and no longer, whatever POSITION its entry into
READY raises next; a RETIRING loop holds it until its PARK ends, so the report of its HOME does not end opening (R152;
log 17). -/
def State.homeDone (s : State) (m : Move) (count : Nat) : State :=
  ((((((s.stopRunning m .done none).modLoop m.loop fun l => l.homedAt count).homeEnded m.loop
    (decide ((s.loop m.loop).life ≠ .retiring))).homeTaken m.loop).takeRestartMark m.loop).takeEnd m .done none
      false).tellHead s m.loop

/-- A head's record after a homing that failed (R67). -/
def Loop.homeLost (l : Loop) (driven : Bool) : Loop :=
  { l.unhomed with idleDays := if driven then 0 else l.idleDays }

/-- The Loop Table takes a failed homing (R11). -/
def State.failTaken (s : State) (i : LoopIx) : State :=
  match (s.loop i).life with
  | .homing => (s.modLoop i fun l => l.setFaults l.faults.withFail).setLife i .enrolled
  | .retiring => s.becomeVacant i
  | _ => s

/-- A homing fails (R67), and the Loop Table takes it (R11), after the Drive Queue has set the want to NONE (R77). -/
def State.homeFailed (s : State) (m : Move) (reason : EndReason) (driven : Bool) : State :=
  ((((((s.stopRunning m .failed (some reason)).modLoop m.loop fun l => l.homeLost driven).homeEnded m.loop
    true).failTaken m.loop).takeRestartMark m.loop).takeEnd m .failed (some reason) false).tellHead s m.loop

end Sys2Proof.Machine
end

