-- ==== Sys2Proof/Machine/Answers.lean ====
section
/-! DEFINITION. How a command is taken: an event of the field side or of a timer, and a reply of a station that counts
for the poll under way (R174, R175, R179), with its answer (R175, R182, R185). -/

namespace Sys2Proof.Machine

/-- The outcome of every command: a next state. A part without supply takes nothing (log 11). -/
def powered (s : State) (f : State → State) : Host.Outcome State Fault Refusal := .next (if s.powered then f s else s)

/-- An event: its effect, then the changes it reported matched against the watches (R182). -/
def event (s : State) (f : State → State) : Host.Outcome State Fault Refusal := powered s fun t => (f t).tellWatches

/-- The open call has been dealt with: the next pass begins at the lowest slot (R174). -/
def State.openCallOver (s : State) : State := (s.setWindow .shut).setCursor 0

/-- The answer of a request: a status, a body and the state it leaves. -/
structure Taken where
  status : Status
  body : List Byte
  state : State
  deriving DecidableEq, Repr

/-- A request answered without effect. -/
def State.refuse (s : State) (x : Status) : Taken := ⟨x, [], s⟩

/-- The third check of R179: a payload outside its form is answered RANGE. -/
def checked {α : Type} (form : List Byte → Option α) (params : List Byte) (s : State) (take : α → Taken) : Taken :=
  match form params with
  | some x => take x
  | none => s.refuse .range

/-- A slot with no marker pending (R175, R182). -/
def Slot.unmarked (x : Slot) : Slot := { x with marker := none }

/-- A slot with miss count 0 (R175). -/
def Slot.heard (x : Slot) : Slot := { x with misses := 0 }

/-- A slot without its watches and marker (R176, R178). -/
def Slot.unwatched (x : Slot) : Slot := { x with watches := [], marker := none }

/-- Sends an answer to a slot, with its marker if one is pending; the marker is then cleared (R175, R182, R185). -/
def State.answer (s : State) (k : SlotIx) (x : Status) (body : List Byte) : State :=
  match s.slot k with
  | some slot =>
    (s.setSlot k (some slot.unmarked)).setSent (frame slot.address .answer (answerPayload x slot.marker body))
  | none => s

/-- A corrupt reply is answered CORRUPT; the miss count and the marker are kept (R175, R185). -/
def State.answerCorrupt (s : State) (k : SlotIx) : State :=
  match s.slot k with
  | some slot => (s.setWindow .shut).setSent (frame slot.address .answer (answerPayload .corrupt none []))
  | none => s.setWindow .shut

/-- A reply that reaches the part: `counts` where it counts for the poll of an occupied slot; at the open call it is
discarded unless it is a JOIN (R177); outside a window, and while the line is in break, nothing arrives (R174, R178;
log 18). -/
def reply (s : State) (counts : SlotIx → Slot → State → State) : Host.Outcome State Fault Refusal :=
  powered s fun t =>
    if t.link.lineBreak ≠ .clear then t
    else
      match t.link.window with
      | .shut => t
      | .openCall => t.openCallOver
      | .slot k =>
        match t.slot k with
        | some x => counts k x t
        | none => t.setWindow .shut

/-- The state in which a valid reply is taken: miss count 0, the window closed (R175). -/
def State.heard (s : State) (k : SlotIx) (x : Slot) : State :=
  (s.setSlot k (some x.heard)).setWindow .shut

/-- A request that has been taken: the changes it reported are matched, then it is answered (R175, R182). -/
def Taken.finish (r : Taken) (k : SlotIx) : State := r.state.tellWatches.answer k r.status r.body

/-- A valid REQUEST: DENIED unless the sender's kind may make it (R179), else taken by its owner; the changes are
matched before the answer is built (R175, R182). -/
def request (s : State) (allowed : StationKind → Bool) (take : SlotIx → State → Taken) :
    Host.Outcome State Fault Refusal :=
  reply s fun k x t =>
    (if allowed (slotKind k) then take k (t.heard k x) else (t.heard k x).refuse .denied).finish k

/-- Who may make a request (the table of R179). -/
def anyStation : StationKind → Bool := fun _ => true
def roomUnit : StationKind → Bool := fun k => decide (k = .room)
def serviceStation : StationKind → Bool := fun k => decide (k = .service)
def notSource : StationKind → Bool := fun k => decide (k ≠ .source)
def notRoomUnit : StationKind → Bool := fun k => decide (k ≠ .room)
def noStation : StationKind → Bool := fun _ => false

/-- A request with no parameter of the service station, taken by the Drive Queue, the House Record or all blocks. -/
def serviceOrder (params : List Byte) (s : State) (take : State → Taken) : Host.Outcome State Fault Refusal :=
  request s serviceStation fun _ t => checked noParams params t fun _ => take t

end Sys2Proof.Machine
end

