-- ==== Sys2Proof/Machine/LinkCommands.lean ====
section
/-! DEFINITION. The commands of the House Link Controller: polling, replies, joining, misses, the link restart, LOOK,
WATCH and DESCRIBE (10_the_house_link.md). -/

namespace Sys2Proof.Machine

/-- The next occupied slot of the pass under way (R174). -/
def State.nextSlot (s : State) : Option SlotIx :=
  allSlots.find? fun k => decide (s.link.cursor ≤ k.val) && (s.slot k).isSome

/-- Sends a POLL and opens the reply window (R174). -/
def State.sendPoll (s : State) : State :=
  match s.nextSlot with
  | some k =>
    match s.slot k with
    | some x =>
      ((s.setWindow (.slot k)).setCursor (k.val + 1)).setSent (frame x.address .poll [])
    | none => s
  | none => ((s.setWindow .openCall).setCursor 18).setSent (frame Config.openCallAddress .poll [])

/-- POLL (R174): while no window is open and the line is not in break (R178). -/
def execPoll (s : State) : Host.Outcome State Fault Refusal :=
  event s fun t => if t.link.window = .shut ∧ t.link.lineBreak = .clear then t.sendPoll else t

/-- NONE_REPLY (R175): miss count 0, answered DONE. -/
def execNoneReply (s : State) : Host.Outcome State Fault Refusal :=
  request s anyStation fun _ t => ⟨.done, [], t⟩

/-- CORRUPT_REPLY (R175). -/
def execCorruptReply (s : State) : Host.Outcome State Fault Refusal := reply s fun k _ t => t.answerCorrupt k

/-- The lowest empty slot of a kind (R177). -/
def State.emptySlot (s : State) (kind : StationKind) : Option SlotIx :=
  allSlots.find? fun k => decide (slotKind k = kind) && (s.slot k).isNone

/-- Some occupied slot holds the address (R177). -/
def State.addressHeld (s : State) (address : Nat) : Bool :=
  allSlots.any fun k =>
    match s.slot k with
    | some x => decide (x.address = address)
    | none => false

/-- A JOIN at the open call (R177): the lowest empty slot of its kind, if its address holds none; answered with the
slot number. -/
def State.takeJoin (s : State) (kind : StationKind) (address : Nat) : State :=
  if s.addressHeld address then s
  else
    match s.emptySlot kind with
    | some k =>
      (s.setSlot k (some ⟨address, 0, [], none⟩)).setSent
        (frame address .answer (answerPayload .done none [byte k.val]))
    | none => s

/-- JOIN (R177); at the poll of an occupied slot it is answered CORRUPT (R175). -/
def execJoin (kind : StationKind) (address : Nat) (s : State) : Host.Outcome State Fault Refusal :=
  powered s fun t =>
    if t.link.lineBreak ≠ .clear then t
    else
      match t.link.window with
      | .shut => t
      | .openCall => (t.takeJoin kind address).openCallOver
      | .slot k => t.answerCorrupt k

/-- OPEN_CALL_REPLY_DISCARDED (R177): no answer; the open call is dealt with. At the poll of an occupied slot the same
bytes are a corrupt reply (R175). -/
def execOpenCallReplyDiscarded (s : State) : Host.Outcome State Fault Refusal := reply s fun k _ t => t.answerCorrupt k

/-- A room record changed, with its reports (R32): the Demand Unit where the effective demand changed, then the
watches. -/
def State.changeRoom (s : State) (r : RoomIx) (new : Room) : State :=
  ((s.setRoom r new).recomputeIf (decide ((s.room r).effective ≠ new.effective))).markRoomIf
    (decide (s.room r ≠ new)) r (decide ((s.room r).state ≠ new.state))

/-- A room record with no claimant, FREE or LAPSED (R35, R36, R38, R40). -/
def Room.unclaimed (x : Room) (y : RoomState) : Room :=
  { x with state := y, claimant := none, demand := 0, leaseRemaining := 0 }

/-- A room becomes LAPSED (R38, R40). -/
def State.lapse (s : State) (r : RoomIx) : State := s.changeRoom r ((s.room r).unclaimed .lapsed)

/-- Every room that a slot holds becomes LAPSED (R40, R176), one after another in ascending number, each with its own
recompute: the rules give no order among them, and this one is the model's choice (log 30). -/
def State.lapseRoomsOf (s : State) (k : SlotIx) : State :=
  s.forEach allRooms fun t r =>
    if (t.room r).state = .claimed ∧ (t.room r).claimant = some k then t.lapse r else t

/-- Every CLAIMED room becomes LAPSED (R40, R178), one after another in ascending number, each with its own recompute:
the model's choice, as for the rooms of one slot (log 30). -/
def State.lapseRooms (s : State) : State :=
  s.forEach allRooms fun t r => if (t.room r).state = .claimed then t.lapse r else t

/-- The drive is released at the loss of the service slot (R94). -/
def State.releaseDrive (s : State) (k : SlotIx) : State :=
  if slotKind k = .service then s.setDriveState .running else s

/-- A slot is freed, in the order of R176. -/
def State.freeSlot (s : State) (k : SlotIx) (x : Slot) : State :=
  ((((s.setSlot k (some x.unwatched)).lapseRoomsOf k).releaseDrive k).setSlot k none).serve

/-- A slot with one more miss (R176). -/
def Slot.missed (x : Slot) : Slot := { x with misses := x.misses + 1 }

/-- The reply window closes with no counting reply (R176). -/
def State.windowExpiry (s : State) : State :=
  match s.link.window with
  | .shut => s
  | .openCall => s.openCallOver
  | .slot k =>
    match s.slot k with
    | some x =>
      if Config.missLimit ≤ x.misses + 1 then (s.setWindow .shut).freeSlot k x.missed
      else (s.setWindow .shut).setSlot k (some x.missed)
    | none => s.setWindow .shut

/-- WINDOW_EXPIRY (R176). -/
def execWindowExpiry (s : State) : Host.Outcome State Fault Refusal := event s State.windowExpiry

/-- Every watch and marker cleared and the open window shut, with a link restart taken in this break (R178). -/
def State.clearWatches (s : State) : State := ((s.mapSlots Slot.unwatched).setWindow .shut).setBreak .restarted

/-- Every slot freed, and an open call next (R178). -/
def State.emptyRoster (s : State) : State :=
  (s.setRoster (Vector.replicate 18 none)).setCursor 18

/-- A link restart, in the order of R178. -/
def State.linkRestart (s : State) : State := s.clearWatches.lapseRooms.emptyRoster.serve

/-- LINK_RESTART (R178): once in one break. -/
def execLinkRestart (s : State) : Host.Outcome State Fault Refusal :=
  event s fun t => if t.link.lineBreak = .restarted then t else t.linkRestart

/-- BREAK_ONSET (R178). -/
def execBreakOnset (s : State) : Host.Outcome State Fault Refusal :=
  event s fun t => if t.link.lineBreak = .clear then t.setBreak .timing else t

/-- BREAK_END (R178): the line is clear again; after a link restart polling resumes with an open call, which the
restart has set. -/
def execBreakEnd (s : State) : Host.Outcome State Fault Refusal := event s fun t => t.setBreak .clear

/-- UNKNOWN_REQUEST (R179). -/
def execUnknownRequest (_kind : Byte) (_params : List Byte) (s : State) : Host.Outcome State Fault Refusal :=
  request s anyStation fun _ t => t.refuse .unknown

/-- LOOK (R180). -/
def execLook (params : List Byte) (s : State) : Host.Outcome State Fault Refusal :=
  request s anyStation fun _ t => checked lookForm params t fun x =>
    if (t.recordAt x.1 x.2.1).isSome then ⟨.done, t.lookBody x.1 x.2.1 x.2.2, t⟩ else t.refuse .nosuch

/-- Sets a watch of a slot (R181). -/
def State.setWatch (s : State) (k : SlotIx) (w : Watch) : Taken :=
  match s.slot k with
  | some x =>
    if x.watches.contains w then s.refuse .done
    else if Config.watchCapacity ≤ x.watches.length then s.refuse .full
    else ⟨.done, [], s.setSlot k (some { x with watches := x.watches ++ [w] })⟩
  | none => s.refuse .nosuch

/-- Clears a watch of a slot (R181). -/
def State.clearWatch (s : State) (k : SlotIx) (w : Watch) : Taken :=
  match s.slot k with
  | some x =>
    if x.watches.contains w then ⟨.done, [], s.setSlot k (some { x with watches := x.watches.erase w })⟩
    else s.refuse .nosuch
  | none => s.refuse .nosuch

/-- WATCH_SET (R181). -/
def execWatchSet (params : List Byte) (s : State) : Host.Outcome State Fault Refusal :=
  request s anyStation fun k t => checked watchForm params t fun w => t.setWatch k w

/-- WATCH_CLEAR (R181). -/
def execWatchClear (params : List Byte) (s : State) : Host.Outcome State Fault Refusal :=
  request s anyStation fun k t => checked watchForm params t fun w => t.clearWatch k w

/-- DESCRIBE (R183). -/
def execDescribe (params : List Byte) (s : State) : Host.Outcome State Fault Refusal :=
  request s anyStation fun _ t => checked noParams params t fun _ => ⟨.done, t.description, t⟩

/-- A table code that names DRIVE or ROSTER. -/
def namesDriveOrRoster : List Byte → Bool
  | [] => false
  | b :: _ => decide (tableOf b = some .drive) || decide (tableOf b = some .roster)

/-- AMEND_OF_DRIVE_OR_ROSTER (R179): DENIED for DRIVE and ROSTER, and to a room unit, which may amend nothing; a code
that names no table is outside the form, RANGE (log 14). -/
def execAmendOfDriveOrRoster (params : List Byte) (s : State) : Host.Outcome State Fault Refusal :=
  request s (fun k => notRoomUnit k && !namesDriveOrRoster params) fun _ t => t.refuse .range

end Sys2Proof.Machine
end

