-- ==== Sys2Proof/Machine/CampaignCommands.lean ====
section
/-! DEFINITION. The commands of the Campaign Unit: CAMPAIGN START and CAMPAIGN CANCEL (08_balance_campaigns.md, 8.2
and 8.7). -/

namespace Sys2Proof.Machine

/-- The manifolds a CAMPAIGN START or CANCEL names, A first (R150, R160). -/
def campaignForm : List Byte → Option (List Manifold)
  | [b] => manifoldsOf b
  | _ => none

/-- A manifold has a READY loop (R150). -/
def State.hasReady (s : State) (m : Manifold) : Bool := (loopsOf m).any fun i => decide ((s.loop i).life = .ready)

/-- CAMPAIGN START of the named manifolds, the checks of R150 after the first. -/
def State.startCampaigns (s : State) (ms : List Manifold) : Taken :=
  if s.house.season = .standby ∨ ms.any s.campaignOpen then s.refuse .busy
  else if ms.all s.hasReady then ⟨.deferred, [], (s.forEach ms State.startCampaign).serve⟩
  else s.refuse .nosuch

/-- CAMPAIGN_START (R150). -/
def execCampaignStart (params : List Byte) (s : State) : Host.Outcome State Fault Refusal :=
  request s serviceStation fun _ t => checked campaignForm params t fun ms => t.startCampaigns ms

/-- CAMPAIGN CANCEL of the named manifolds (R160). Where both are named, manifold A's campaign is abandoned first, then
B's, each with its own recompute and report: R160 and R161 give no order for this cause and R115 does not say whether its
one recompute for a request applies, so this is the model's choice (log 33). -/
def State.cancelCampaigns (s : State) (ms : List Manifold) : Taken :=
  if ms.any s.campaignOpen then ⟨.done, [], (s.forEach ms fun t m => t.abandon m .cancelled).serve⟩
  else s.refuse .nosuch

/-- CAMPAIGN_CANCEL (R160). -/
def execCampaignCancel (params : List Byte) (s : State) : Host.Outcome State Fault Refusal :=
  request s serviceStation fun _ t => checked campaignForm params t fun ms => t.cancelCampaigns ms

end Sys2Proof.Machine
end

