-- ==== Sys2Proof/Machine/ClockCommands.lean ====
section
/-! DEFINITION. The scan completion of the Temperature Channels (05_temperature_channels.md) and the round expiry of
the Trimming Engine (07_trimming.md, 7.4). -/

namespace Sys2Proof.Machine

/-- A valid sample (R100); none is a failed conversion. -/
def validSample (x : Option Int) : Option Int :=
  match x with
  | some n => if Config.minSample ≤ n ∧ n ≤ Config.maxSample then some n else none
  | none => none

/-- The filtered value after a valid sample (R102); the division rounds towards the lower number. -/
def filter (old : Option Int) (n : Int) : Int :=
  match old with
  | some f => (3 * f + n + 2) / 4
  | none => n

/-- A channel after one sample, by the table of R103. -/
def Channel.sample (c : Channel) (x : Option Int) : Channel :=
  match c.state, validSample x with
  | .unknown, some n => { c with state := .ok, filtered := some n, invalidRun := 0 }
  | .unknown, none =>
    if Config.sampleRun ≤ c.invalidRun + 1 then { c with state := .fault, invalidRun := 0 }
    else { c with invalidRun := c.invalidRun + 1 }
  | .ok, some n => { c with filtered := some (filter c.filtered n), invalidRun := 0 }
  | .ok, none =>
    if Config.sampleRun ≤ c.invalidRun + 1 then { c with state := .fault, filtered := none, invalidRun := 0 }
    else { c with invalidRun := c.invalidRun + 1 }
  | .fault, some n =>
    if c.validRun = 0 then { c with filtered := some n, validRun := 1 }
    else if Config.sampleRun ≤ c.validRun + 1 then
      { c with state := .ok, filtered := some (filter c.filtered n), validRun := 0 }
    else { c with filtered := some (filter c.filtered n), validRun := c.validRun + 1 }
  | .fault, none => { c with validRun := 0 }

/-- The ΔT of a loop (R104): a reading is present exactly while its channel is OK. -/
def State.deltaOf (s : State) (i : LoopIx) : Option Int :=
  match (s.channel (supplyChannel (manifoldOf i))).reading, (s.channel (loopChannel i)).reading with
  | some supply, some back => some (supply - back)
  | _, _ => none

/-- The channel records after a scan (R100). -/
def State.sampled (s : State) (samples : Vector (Option Int) 28) : Vector Channel 28 :=
  Vector.ofFn fun c : ChannelIx => (s.channel c).sample samples[c]

/-- A loop's ΔT replaced (R104). -/
def Loop.setDelta (l : Loop) (d : Option Int) : Loop := { l with deltaT := d }

/-- The channel records and every ΔT after a scan (R100, R104). -/
def State.scanned (s : State) (samples : Vector (Option Int) 28) : State :=
  (s.setChannels (s.sampled samples)).mapLoops fun i l => l.setDelta ((s.setChannels (s.sampled samples)).deltaOf i)

/-- A channel's sensor state changed. -/
def State.sensorMoved (before after : State) (c : ChannelIx) : Bool :=
  decide ((before.channel c).state ≠ (after.channel c).state)

/-- A supply drift on a manifold whose supply channel was OK (R106). -/
def State.drifted (before after : State) (m : Manifold) : Bool :=
  match before.supplyRefs.get m, (after.channel (supplyChannel m)).reading with
  | some r, some n => !before.sensorMoved after (supplyChannel m) && decide (Config.driftWidth < (n - r).natAbs)
  | _, _ => false

/-- The supply reference after a scan (R105, R106). -/
def State.scannedRef (before after : State) (m : Manifold) : Option Int :=
  if before.sensorMoved after (supplyChannel m) || before.drifted after m then
    (after.channel (supplyChannel m)).reading
  else before.supplyRefs.get m

/-- A loop's channel entered FAULT, and a loop's channel recovered (R103). -/
def State.entered (before after : State) (i : LoopIx) : Bool := !before.sensorFault i && after.sensorFault i
def State.recovered (before after : State) (i : LoopIx) : Bool :=
  before.sensorFault i && decide ((after.channel (loopChannel i)).state = .ok)

/-- A loop's record after its channel's news: the SENSOR latch (R6) and the balance status (R109, R141, R142). -/
def State.newsOf (before after : State) (i : LoopIx) (l : Loop) : Loop :=
  if !l.occupied then l
  else if before.entered after i then
    (l.setFaults l.faults.withSensor).rate 0 .excluded
  else if before.recovered after i then l.rate 0 (after.unmeasured i)
  else l

/-- A manifold's supply news handed to the Trimming Engine (R108, step 2). -/
def State.supplyNews (s before after : State) (m : Manifold) : State :=
  if before.sensorMoved after (supplyChannel m) then s.checkTimer m
  else if before.drifted after m then s.coupling m
  else s

/-- A manifold's supply news handed to the Campaign Unit (R108, step 3). -/
def State.supplyCampaign (s before after : State) (m : Manifold) : State :=
  if before.sensorMoved after (supplyChannel m) then s.checkCampaign m else s

/-- The index of a manifold's channel record in the HOUSE table (R111). -/
def manifoldIndex : Manifold → Nat
  | .a => 1
  | .b => 2

/-- A sensor state of a manifold's channel record reported, where it has changed (R108, step 4; R111). -/
def State.markManifoldIf (s : State) (changed : Bool) (m : Manifold) : State :=
  if changed then s.mark .house (manifoldIndex m) true else s

/-- Each change of a sensor state of a manifold's channel record reported (R108, step 4; R111). -/
def State.markManifold (s before after : State) (m : Manifold) : State :=
  (s.markManifoldIf (before.sensorMoved after (supplyChannel m)) m).markManifoldIf
    (before.sensorMoved after (returnChannel m)) m

/-- The loops take their channels' news (R108, steps 1 and 2). -/
def State.takeNews (s before after : State) : State := s.mapLoops fun i l => before.newsOf after i l

/-- What a scan changed in a loop's record reported: its sensor state (R108, step 4), the latch the Loop Table set (R6),
and the judgement the Trimming Engine gave it (R146). -/
def State.tellNews (t before after : State) (i : LoopIx) : State :=
  let l := after.loop i
  let x := before.newsOf after i l
  ((t.markLoopIf (before.sensorMoved after (loopChannel i)) i false).markLoopIf (decide (l.faults ≠ x.faults)) i
    false).markLoopIf (decide (l.inBand ≠ x.inBand) || decide (l.balance ≠ x.balance)) i
      (decide (l.balance ≠ x.balance))

/-- The same for every loop, in ascending index (R108, step 4). -/
def State.markSensors (s before after : State) : State := s.forEach allLoops fun t i => t.tellNews before after i

/-- A scan completion (R100), its results handed on in the order of R108. The watches hear of the campaigns first, at step
3. At step 4 they hear of every loop, its sensor state, then the latch of step 1, then the judgement of step 2, and after
the loops of the channel record of manifold A, then of that of B. R108 gives no order among these reports, and this one is
the model's choice (log 32). -/
def State.scan (s : State) (samples : Vector (Option Int) 28) : State :=
  let x := s.scanned samples
  ((((((((((x.setSupplyRef .a (s.scannedRef x .a)).setSupplyRef .b (s.scannedRef x .b)).takeNews s x).supplyNews s x
    .a).supplyNews s x .b).supplyCampaign s x .a).supplyCampaign s x .b).markSensors s x).markManifold s x
      .a).markManifold s x .b)

/-- SCAN_COMPLETION (R100). -/
def execScanCompletion (samples : Vector (Option Int) 28) (s : State) : Host.Outcome State Fault Refusal :=
  event s fun t => (t.scan samples).serve

/-- The verdicts of a round expiry on a manifold, given to its loops (R140, step 1). -/
def State.judged (s : State) (m : Manifold) : State :=
  s.mapLoops fun i l =>
    if manifoldOf i = m then
      match s.verdict m i with
      | some v => l.rate v.inBand v.balance
      | none => l
    else l

/-- The claim on a loop, if its verdict made one. -/
def State.claimOn (s : State) (m : Manifold) (i : LoopIx) : Option Nat := (s.verdict m i).bind Verdict.claim

/-- The Loop Table takes or drops a claim (R27). -/
def State.takeClaim (s : State) (i : LoopIx) (ceiling : Nat) : State :=
  if (s.loop i).life = .ready ∧ (s.loop i).owner = .auto then
    (((s.modLoop i fun l => l.setCeiling ceiling).recompute).recount i).markLoop i false
  else s

/-- The claims of a round handed on in ascending index, from the verdicts of the state before (R140, step 3). -/
def State.takeClaims (s before : State) (m : Manifold) : State :=
  s.forEach (loopsOf m) fun t i =>
    match before.claimOn m i with
    | some c => t.takeClaim i c
    | none => t

/-- At least one claim of the round was taken: its loop was READY and AUTO (R140, R27). -/
def State.claimTaken (before : State) (m : Manifold) : Bool :=
  (loopsOf m).any fun i =>
    (before.claimOn m i).isSome && decide ((before.loop i).life = .ready) && decide ((before.loop i).owner = .auto)

/-- A round expiry on a manifold gave a loop a settled status. -/
def State.settles (before : State) (m : Manifold) (i : LoopIx) : Bool :=
  match before.verdict m i with
  | some v => v.balance.settled
  | none => false

/-- HEAD_CHANGED cleared on the loops given a settled status, each latch that was set reported (R140, step 4; R8). -/
def State.clearChanged (s before : State) (m : Manifold) : State :=
  (s.mapLoops fun i l =>
    if manifoldOf i = m ∧ before.settles m i then l.setFaults (l.faults.withChanged false) else l).forEach (loopsOf m)
      fun t i => t.markLoopIf (before.settles m i && (before.loop i).faults.headChanged) i false

/-- Each change of in-band count or balance status handed to the House Link Controller (R140, step 6). -/
def State.markVerdicts (s before : State) (m : Manifold) : State :=
  s.forEach (loopsOf m) fun t i =>
    match before.verdict m i with
    | some v =>
      t.markLoopIf (decide ((before.loop i).inBand ≠ v.inBand) || decide ((before.loop i).balance ≠ v.balance)) i
        (decide ((before.loop i).balance ≠ v.balance))
    | none => t

/-- A round expiry on a manifold, taken whole in the order of R140. -/
def State.roundOver (s : State) (m : Manifold) : State :=
  (((((((s.judged m).roundStart m true).takeClaims s m).couplingIf (s.claimTaken m) m).clearChanged s m).countRound
    m).markVerdicts s m)

/-- ROUND_EXPIRY (R140): of a timer whose remaining minutes have reached 0 (log 2). -/
def execRoundExpiry (m : Manifold) (s : State) : Host.Outcome State Fault Refusal :=
  event s fun t => if (t.timer m).remaining = some 0 then (t.roundOver m).serve else t

end Sys2Proof.Machine
end

