-- ==== Sys2Proof/Machine/RoomCommands.lean ====
section
/-! DEFINITION. The commands of the Room Table: CLAIM, DEMAND, RELEASE, AMEND of ROOM and FLOOR, and the lease expiry
(02_rooms_the_floor_list_and_the_house_record.md, 2.1 to 2.4). -/

namespace Sys2Proof.Machine

/-- The minutes a lease starts or restarts with (R37). -/
def State.leaseMinutes (s : State) (r : RoomIx) : Nat := (s.room r).leaseLength * s.house.leaseUnit

/-- A room request: NOSUCH before any other check for a room outside 1 to 16 (R30). -/
def State.onRoom (s : State) (n : Nat) (take : RoomIx → Taken) : Taken :=
  match roomNumber n with
  | some r => take r
  | none => s.refuse .nosuch

/-- A room record with its lease started or restarted (R37). -/
def Room.leased (x : Room) (minutes : Nat) : Room := { x with leaseRemaining := minutes }

/-- A room record newly claimed (R33). -/
def Room.claimedBy (x : Room) (k : SlotIx) (minutes : Nat) : Room :=
  { x with state := .claimed, claimant := some k, demand := 0, leaseRemaining := minutes }

/-- A room record with a posted demand (R34). -/
def Room.posted (x : Room) (demand minutes : Nat) : Room := { x with demand := demand, leaseRemaining := minutes }

/-- CLAIM by a slot (R33). -/
def State.claimRoom (s : State) (k : SlotIx) (r : RoomIx) : Taken :=
  if (s.room r).state = .claimed then
    if (s.room r).claimant = some k then
      ⟨.done, [], (s.changeRoom r ((s.room r).leased (s.leaseMinutes r))).serve⟩
    else s.refuse .busy
  else if s.claims k < Config.claimCapacity then
    ⟨.done, [], (s.changeRoom r ((s.room r).claimedBy k (s.leaseMinutes r))).serve⟩
  else s.refuse .full

/-- CLAIM (R33). -/
def execClaim (params : List Byte) (s : State) : Host.Outcome State Fault Refusal :=
  request s roomUnit fun k t => checked oneByte params t fun b => t.onRoom b.toNat fun r => t.claimRoom k r

/-- DEMAND by a slot (R34). -/
def State.postDemand (s : State) (k : SlotIx) (r : RoomIx) (demand : Nat) : Taken :=
  if 100 < demand then s.refuse .range
  else if (s.room r).state = .claimed then
    if (s.room r).claimant = some k then
      ⟨.done, [], (s.changeRoom r ((s.room r).posted demand (s.leaseMinutes r))).serve⟩
    else s.refuse .denied
  else s.refuse .stale

/-- DEMAND (R34). -/
def execDemand (params : List Byte) (s : State) : Host.Outcome State Fault Refusal :=
  request s roomUnit fun k t => checked twoBytes params t fun p =>
    t.onRoom p.1.toNat fun r => t.postDemand k r p.2.toNat

/-- A room becomes FREE (R35, R36). -/
def State.free (s : State) (r : RoomIx) : State :=
  (s.changeRoom r ((s.room r).unclaimed .free)).serve

/-- RELEASE by a room unit (R35) or by the service station (R36). -/
def State.releaseRoom (s : State) (k : SlotIx) (r : RoomIx) : Taken :=
  if slotKind k = .service then ⟨.done, [], s.free r⟩
  else if (s.room r).state = .claimed then
    if (s.room r).claimant = some k then ⟨.done, [], s.free r⟩ else s.refuse .denied
  else s.refuse .stale

/-- RELEASE (R35, R36). -/
def execRelease (params : List Byte) (s : State) : Host.Outcome State Fault Refusal :=
  request s notSource fun k t => checked oneByte params t fun b => t.onRoom b.toNat fun r => t.releaseRoom k r

/-- A room record with every pair of an AMEND applied (R41). -/
def RoomAmend.apply (a : RoomAmend) (x : Room) : Room :=
  { x with leaseLength := a.leaseLength.getD x.leaseLength, fallback := a.fallback.getD x.fallback }

/-- AMEND_ROOM (R41): a running lease's remaining minutes are kept. -/
def execAmendRoom (params : List Byte) (s : State) : Host.Outcome State Fault Refusal :=
  request s serviceStation fun _ t => checked (amendForm roomFields) params t fun p =>
    t.onRoom p.1 fun r =>
      match roomAmend p.2 with
      | some a => ⟨.done, [], (t.changeRoom r (a.apply (t.room r))).serve⟩
      | none => t.refuse .range

/-- A new Floor List, or none where R44 refuses it. -/
def State.floorListOf (s : State) (list : List Byte) : Option (List LoopIx) :=
  let members := list.filterMap fun b => loopIndex b.toNat
  if list.length ≤ Config.floorCapacity ∧ members.length = list.length ∧ members.Nodup ∧
      members.all fun i => (s.loop i).occupied then
    some members
  else none

/-- AMEND_FLOOR (R44). -/
def execAmendFloor (params : List Byte) (s : State) : Host.Outcome State Fault Refusal :=
  request s serviceStation fun _ t => checked floorForm params t fun p =>
    if p.1 = 0 then
      match t.floorListOf p.2 with
      | some members => ⟨.done, [], (t.setFloorList members).recompute.serve⟩
      | none => t.refuse .range
    else t.refuse .nosuch

/-- LEASE_EXPIRY (R38): of a CLAIMED room whose lease remaining has reached 0 (log 2). -/
def execLeaseExpiry (r : RoomIx) (s : State) : Host.Outcome State Fault Refusal :=
  event s fun t =>
    if (t.room r).state = .claimed ∧ (t.room r).leaseRemaining = 0 then (t.lapse r).serve else t

end Sys2Proof.Machine
end

