-- ==== Sys2Proof/Machine/DriveCommands.lean ====
section
/-! DEFINITION. The commands of the Drive Queue: HOLD, STOP, RESUME, the start of a move and the dwell's expiry
(04_the_drive_queue.md, 4.3 and 4.4), and the RESTART request taken as a whole (09, 9.3). -/

namespace Sys2Proof.Machine

/-- HOLD, by the table of R90. -/
def State.hold (s : State) : Taken :=
  match s.drive.state with
  | .running =>
    if s.drive.moving.isSome then ⟨.deferred, [], s.setDriveState .holding⟩ else ⟨.done, [], s.setDriveState .held⟩
  | .holding => s.refuse .deferred
  | .held => s.refuse .done

/-- HOLD (R90). -/
def execHold (params : List Byte) (s : State) : Host.Outcome State Fault Refusal := serviceOrder params s State.hold

/-- STOP with the step at which the port stops the motor (R91). -/
def State.stop (s : State) (motorStep : Nat) : Taken :=
  match s.drive.moving with
  | some m => if m.kind = .home then s.refuse .locked else ⟨.done, [], s.moveStopped m motorStep⟩
  | none => ⟨.done, [], s.setDriveState .held⟩

/-- STOP (R91). -/
def execStop (params : List Byte) (motorStep : Nat) (s : State) : Host.Outcome State Fault Refusal :=
  serviceOrder params s fun t => t.stop motorStep

/-- RESUME (R92). -/
def execResume (params : List Byte) (s : State) : Host.Outcome State Fault Refusal :=
  serviceOrder params s fun t => ⟨.done, [], (t.setDriveState .running).serve⟩

/-- MOVE_START (R83). Each command starts the move it makes possible itself (log 3). -/
def execMoveStart (s : State) : Host.Outcome State Fault Refusal := event s State.serve

/-- The dwell expires and the last-end record is cleared (R88); drive idle may become yes (R95). -/
def State.dwellOver (s : State) : State := (s.setDwell none).tellIdle s

/-- DWELL_EXPIRY (R88). -/
def execDwellExpiry (s : State) : Host.Outcome State Fault Refusal := event s fun t => t.dwellOver.serve

/-- A dwell after one more second (R88, R96); it ends by its expiry, so a second remains until then. -/
def Dwell.second (d : Dwell) : Dwell := { d with remaining := max 1 (d.remaining - 1) }

/-- What a step does while no command waits: one second of the dwell (log 5). -/
def State.secondTick (s : State) : State :=
  if s.powered then s.setDwell (s.drive.dwell.map Dwell.second) else s

/-- Every waiting entry removed, and every want but that of a running HOME (R98, step 1). -/
def State.clearQueue (s : State) : State :=
  (((s.setQueue []).mapLoops fun i l => if s.homing i then l else l.setWant none).forEach allLoops fun t i =>
    t.tellWork s i).tellIdle s

/-- A loop's record with the restart mark (R170). -/
def Loop.marked (l : Loop) : Loop := { l with restartMark := true }

/-- A loop's record as RESTART changes it (R28, R74, R170). Of an occupied loop whose head is absent R74 says both that
every stall count returns to 0 and that absent heads keep their fields: the model sets it to 0, as R28 does, and this is
the model's choice (log 34). -/
def Loop.restarted (l : Loop) (moving : Bool) : Loop :=
  if l.life = .vacant then l
  else if moving then l.marked
  else if l.present then
    ((l.unmarked.unhomed.setLife (if l.life = .retiring then .retiring else .homing)).setWant (some .home))
  else l.unmarked

/-- Some loop of a manifold has left READY between two states. -/
def State.readyLost (before after : State) (m : Manifold) : Bool :=
  (loopsOf m).any fun i => decide ((before.loop i).life = .ready) && decide ((after.loop i).life ≠ .ready)

/-- Every loop's record as RESTART changes it. -/
def State.allRestarted (s : State) : State := s.mapLoops fun i l => l.restarted (s.movingLoop i)

/-- The reports of the Loop Table and the Head Ports of what RESTART changes in a loop (R13, R73). -/
def State.tellRestarted (t before after : State) (i : LoopIx) : State :=
  (t.markLoopIf
    (decide ((before.loop i).life ≠ (after.loop i).life) || decide ((before.loop i).faults ≠ (after.loop i).faults)) i
      (decide ((before.loop i).life ≠ (after.loop i).life))).markLoopIf
        ((before.loop i).headMoved (after.loop i)) i false

/-- Every occupied loop cleared and its head wanted home (R28), reported as R13 states, with the HOME entries placed
(R98, step 3; log 15). -/
def State.rehome (s : State) : State :=
  let after := s.allRestarted
  (((((after.forEach allLoops fun t i => t.tellWork s i).recompute.couplingIf (s.readyLost after .a) .a).couplingIf
    (s.readyLost after .b) .b).recountAll.fill).forEach allLoops fun t i => t.tellRestarted s after i)

/-- The lease of every CLAIMED room restarted (R37, R42). -/
def State.restartLeases (s : State) : State :=
  s.forEach allRooms fun t r =>
    if (t.room r).state = .claimed then t.changeRoom r ((t.room r).leased (t.leaseMinutes r)) else t

/-- Every open counter 0 and a round start on both manifolds (R147). -/
def State.restartRounds (s : State) : State := (s.pauseRound .a).pauseRound .b

/-- RESTART, in the order of R169. No move starts until the HOME entries stand in the queue (R98, step 4): a POSITION
that step 1, the abandonment of a campaign, puts in an empty queue starts nothing, and step 2 removes it (log 15). -/
def State.restart (s : State) : State :=
  (((s.abandon .a .restart).abandon .b .restart).clearQueue.setDriveState .running).rehome.serve.restartLeases.restartRounds

/-- RESTART (R169). -/
def execRestart (params : List Byte) (s : State) : Host.Outcome State Fault Refusal :=
  serviceOrder params s fun t => ⟨.done, [], t.restart⟩

end Sys2Proof.Machine
end

