-- ==== Sys2Proof/Machine/HeadCommands.lean ====
section
/-! DEFINITION. The commands of the Head Ports: insertion and removal, and the events of the running move
(03_head_ports_and_homing.md). -/

namespace Sys2Proof.Machine

/-- The head fields of a head just fitted (R59). -/
def Loop.fitted (l : Loop) : Loop :=
  { l with
    present := true
    homed := false
    capacity := none
    stepPos := none
    position := none
    stallCount := 0
    idleDays := 0 }

/-- The lifecycle state of an occupied loop after an insertion (R10). -/
def Lifecycle.inserted : Lifecycle → Lifecycle
  | .enrolled => .homing
  | x => x

/-- An insertion at the port of an occupied loop (R59, R10, R8). -/
def State.insertOccupied (s : State) (i : LoopIx) : State :=
  (((((s.modLoop i fun l => (l.fitted.setLife l.life.inserted).setFaults (l.faults.withChanged true)).wantHome
    i).voidBalance i).tellBalance s i).lifeChanged i (s.loop i).life).tellHead s i

/-- An insertion (R59); one that finds the head present does not arise (R58, log 1). -/
def State.insert (s : State) (i : LoopIx) : State :=
  if (s.loop i).present then s
  else if (s.loop i).occupied then (s.insertOccupied i).serve
  else (s.modLoop i Loop.fitted).tellHead s i

/-- INSERTION (R59). -/
def execInsertion (port : LoopIx) (s : State) : Host.Outcome State Fault Refusal := event s fun t => t.insert port

/-- The head fields of a head taken off (R60), with the restart mark taken where it is held (R170). -/
def Loop.bared (l : Loop) : Loop :=
  { l with
    present := false
    homed := false
    capacity := none
    stepPos := none
    position := none
    idleDays := 0
    restartMark := false
    faults := if l.restartMark then .empty else l.faults
    stallCount := if l.restartMark then 0 else l.stallCount }

/-- The running move of a head taken off ends ABORTED (R60, step 1). -/
def State.headLost (s : State) (i : LoopIx) : State :=
  match s.drive.moving with
  | some m => if m.loop = i then s.takeEnd m .aborted (some .headLost) false else s
  | none => s

/-- The Loop Table takes a removal (R60, step 4; R10). -/
def State.lifeBared (s : State) (i : LoopIx) : State :=
  match (s.loop i).life with
  | .retiring => s.becomeVacant i
  | .homing => s.setLife i .enrolled
  | .ready => s.setLife i .enrolled
  | .enrolled => s
  | .vacant => s

/-- A removal in the order of R60, its place filled when it has been taken in full (R81) and the head fields reported last
(R73); one that finds the head absent does not arise (R58, log 1). -/
def State.remove (s : State) (i : LoopIx) : State :=
  if (s.loop i).present then
    (((((((s.headLost i).dropWork i).modLoop i Loop.bared).recount i).lifeBared i).coupling (manifoldOf i)).fill.tellHead
      s i).serve
  else s

/-- REMOVAL (R60). -/
def execRemoval (port : LoopIx) (s : State) : Host.Outcome State Fault Refusal := event s fun t => t.remove port

/-- An event of the running move; none runs, none arises (R58, log 1). -/
def onMove (s : State) (f : State → Move → State) : Host.Outcome State Fault Refusal :=
  event s fun t =>
    match t.drive.moving with
    | some m => f t m
    | none => t

/-- The target step of a leg is reached (R63); a HOME aims at none (R65). -/
def State.legReached (s : State) (m : Move) : State :=
  if m.kind = .home then s
  else (s.atStep m (s.legTo m)).legDone m m.aimedAt (m.driven || decide (s.legTo m ≠ s.legFrom m))

/-- LEG_REACHED (R63). -/
def execLegReached (s : State) : Host.Outcome State Fault Refusal := onMove s State.legReached

/-- A HOME in its opening leg (R65). -/
def Move.openingLeg (m : Move) (driven : Bool) : Move := { m with leg := .second, driven := driven }

/-- An end-stop in a leg of a HOME (R65, R66): the closed one ends the closing leg, the open one the opening leg. -/
def State.homeEndStop (s : State) (m : Move) (stop : EndStop) (steps : Nat) : State :=
  match m.leg, stop with
  | .first, .closedEnd =>
    if steps ≤ Config.closingAllowance then
      s.setMoving (some (m.openingLeg (m.driven || decide (0 < steps))))
    else s
  | .second, .openEnd =>
    if steps < Config.minCapacity then s.homeFailed m .travel (m.driven || decide (0 < steps))
    else if steps ≤ Config.maxCapacity then s.homeDone m steps
    else s
  | .first, .openEnd => s
  | .second, .closedEnd => s

/-- An end-stop on the way of a leg of a move of a homed head (R63). -/
def State.legEndStop (s : State) (m : Move) (stop : EndStop) (steps : Nat) : State :=
  match stop with
  | .closedEnd =>
    if s.legTo m < s.legFrom m then (s.atStep m 0).legDone m 0 (m.driven || decide (0 < steps)) else s
  | .openEnd =>
    if s.legFrom m < s.legTo m then
      (s.atStep m ((s.loop m.loop).capacity.getD 0)).legDone m Config.fullStroke (m.driven || decide (0 < steps))
    else s

/-- END_STOP_REACHED (R63, R65). -/
def execEndStopReached (stop : EndStop) (steps : Nat) (s : State) : Host.Outcome State Fault Refusal :=
  onMove s fun t m => if m.kind = .home then t.homeEndStop m stop steps else t.legEndStop m stop steps

/-- HOMING_TRAVEL_LIMIT (R65): steps have been driven in either leg. -/
def execHomingTravelLimit (s : State) : Host.Outcome State Fault Refusal :=
  onMove s fun t m => if m.kind = .home then t.homeFailed m .travel true else t

/-- STALL (R65, R69). -/
def execStall (step : Nat) (s : State) : Host.Outcome State Fault Refusal :=
  onMove s fun t m =>
    if m.kind = .home then t.homeFailed m .stall (m.driven || decide (0 < step)) else t.moveStalled m step

end Sys2Proof.Machine
end

