-- ==== Sys2Proof/Machine/HouseCommands.lean ====
section
/-! DEFINITION. The commands of the House Record: AMEND of HOUSE, the pause line, the minute tick with midnight and the
exercise minute, and the stored image (02, 2.5 and 2.6; 09). -/

namespace Sys2Proof.Machine

/-- The season, and pause, differ between two House Records. -/
def House.seasonMoves (old new : House) : Bool := decide (old.season ≠ new.season)
def House.pauseMoves (old new : House) : Bool := decide (old.pause ≠ new.pause)

/-- The Demand Unit hears of a change of the House Record (R115). -/
def House.moves (old new : House) : Bool := old.seasonMoves new || decide (old.flowFloor ≠ new.flowFloor)

/-- The Trimming Engine takes a change of the House Record (R130, R135). -/
def State.trimHouse (s : State) (old new : House) : State :=
  if old.pauseMoves new then (s.recountAll.pauseRound .a).pauseRound .b
  else if old.seasonMoves new || decide (old.trimEnable ≠ new.trimEnable) then (s.checkTimer .a).checkTimer .b
  else s

/-- The Campaign Unit takes a change of the House Record (R156, R161). -/
def State.campaignHouse (s : State) (old new : House) : State :=
  if old.seasonMoves new && decide (new.season = .standby) then (s.abandon .a .season).abandon .b .season
  else if old.pauseMoves new then (s.checkCampaign .a).checkCampaign .b
  else s

/-- New values of the House Record applied together, their consequences handed on once, in the order of R48 and R49:
the Demand Unit, the Trimming Engine, the Campaign Unit, then the watches (R47, R126, R130, R135, R156, R161). -/
def State.applyHouse (s : State) (h : House) : State :=
  ((((s.setHouse h).recomputeIf (s.house.moves h)).trimHouse s.house h).campaignHouse s.house h).markHouseIf
    (decide (s.house ≠ h)) (s.house.seasonMoves h || s.house.pauseMoves h)

/-- AMEND of HOUSE index 0 by a sender, the checks of R47 in order. -/
def State.amendHouse (s : State) (k : SlotIx) (ps : List Pair) : Taken :=
  if !distinctFields ps then s.refuse .range
  else if !(ps.all fun p => mayAmend (slotKind k) p.field) then s.refuse .denied
  else
    match s.house.setAll ps with
    | some h => ⟨.done, [], (s.applyHouse h).serve⟩
    | none => s.refuse .range

/-- AMEND_HOUSE (R47): index 1 and 2 are read-only records, DENIED (R111, R184); another index is NOSUCH. -/
def execAmendHouse (params : List Byte) (s : State) : Host.Outcome State Fault Refusal :=
  request s notRoomUnit fun k t => checked (amendForm (houseAmendable ++ houseReadOnly)) params t fun p =>
    if p.1 = 0 then t.amendHouse k p.2
    else if p.1 = 1 ∨ p.1 = 2 then t.refuse .denied
    else t.refuse .nosuch

/-- The pause line as sensed (R49). -/
def House.setLine (h : House) (asserted : Bool) : House := { h with pauseLine := asserted }

/-- PAUSE_LINE_ASSERTION (R49). -/
def execPauseLineAssertion (s : State) : Host.Outcome State Fault Refusal :=
  event s fun t => (t.applyHouse (t.house.setLine true)).serve

/-- PAUSE_LINE_RELEASE (R49). -/
def execPauseLineRelease (s : State) : Host.Outcome State Fault Refusal :=
  event s fun t => (t.applyHouse (t.house.setLine false)).serve

/-- House time after a minute tick, and the events its advance hands on (R51). -/
def House.minute (h : House) : House :=
  if h.timeSet then
    let now := (h.houseTime + 1) % Config.minutesPerWeek
    { h with
      houseTime := now
      midnightDue := h.midnightDue || decide (now % Config.minutesPerDay = 0)
      exerciseDue := h.exerciseDue || decide (now = h.exerciseMinute) }
  else h

/-- A round timer after a minute tick (R132). -/
def RoundTimer.minute (t : RoundTimer) : RoundTimer := { t with remaining := t.remaining.map fun n => n - 1 }

/-- A room's lease after a minute tick in HEATING (R37). -/
def Room.minute (x : Room) : Room :=
  if x.state = .claimed then { x with leaseRemaining := x.leaseRemaining - 1 } else x

/-- The leases at a minute tick: counted in HEATING (R37). -/
def State.leaseTick (s : State) : State := if s.house.season = .heating then s.mapRooms Room.minute else s

/-- A loop's open counter after a minute it counts (R132, R133). -/
def Loop.minute (l : Loop) : Loop := { l with openCounter := min Config.saturation (l.openCounter + 1) }

/-- The open counters at a minute tick (R132, step 1). -/
def State.counterTick (s : State) : State := s.mapLoops fun i l => if s.counts i then l.minute else l

/-- A round timer at a minute tick (R132, step 2). -/
def State.timerTick (s : State) (m : Manifold) : State := s.setTimer m (s.timer m).minute

/-- A minute tick (R37, R51, R132): leases in HEATING, open counters, then round timers, and a set house time. -/
def State.minuteTick (s : State) : State :=
  ((s.leaseTick.counterTick.timerTick .a).timerTick .b).setHouse s.house.minute

/-- MINUTE_TICK (R132). What a timer that has reached 0 causes is a command of its own (log 2). -/
def execMinuteTick (s : State) : Host.Outcome State Fault Refusal := event s State.minuteTick

/-- A loop's idle days after a midnight (R72). -/
def Loop.idled (l : Loop) : Loop :=
  { l with idleDays := if l.present then min Config.saturation (l.idleDays + 1) else l.idleDays }

/-- The House Record with the midnight, or the exercise minute, a tick handed on taken (log 2). -/
def House.midnightTaken (h : House) : House := { h with midnightDue := false }
def House.exerciseTaken (h : House) : House := { h with exerciseDue := false }

/-- Midnight of house time at the head ports (R72), each change reported (R73). -/
def State.midnight (s : State) : State :=
  ((s.setHouse s.house.midnightTaken).mapLoops fun _ l => l.idled).forEach allLoops fun t i =>
    t.markLoopIf (decide ((s.loop i).idleDays ≠ (s.loop i).idled.idleDays)) i false

/-- MIDNIGHT (R72): the tick that handed it on has been taken (log 2). -/
def execMidnight (s : State) : Host.Outcome State Fault Refusal :=
  event s fun t => if t.house.midnightDue then t.midnight else t

/-- A loop the valve exercise chooses (R166). -/
def Loop.chosen (l : Loop) : Bool :=
  decide (l.life = .ready) && decide (l.owner = .auto) && decide (l.commanded = 0) &&
    decide (Config.exerciseDays ≤ l.idleDays)

/-- The exercise minute: an EXERCISE want for each chosen loop, ascending (R166). -/
def State.exercise (s : State) : State :=
  (s.setHouse s.house.exerciseTaken).forEach allLoops fun t i => if (s.loop i).chosen then t.want i .exercise else t

/-- EXERCISE_MINUTE (R166): after the midnight of the same tick, if it is one (log 20). -/
def execExerciseMinute (s : State) : Host.Outcome State Fault Refusal :=
  event s fun t => if t.house.exerciseDue && !t.house.midnightDue then t.exercise.serve else t

/-- STORE (R54). -/
def execStore (params : List Byte) (s : State) : Host.Outcome State Fault Refusal :=
  serviceOrder params s fun t =>
    if t.storage.running.isSome then t.refuse .busy else ⟨.deferred, [], t.takeStore⟩

/-- The stored image's part once a snapshot has been written and compared (R55). -/
def Storage.written (g : Image) (agrees : Bool) : Storage :=
  ⟨if agrees then .sound g else .unsound, if agrees then .valid else .bad, none, false⟩

/-- A store completion (R55). -/
def State.storeCompletion (s : State) (agrees : Bool) : State :=
  match s.storage.running with
  | some g =>
    if s.storage.again then ((s.setStorage (.written g agrees)).markHouse true).takeStore
    else (s.setStorage (.written g agrees)).markHouse true
  | none => s

/-- STORE_COMPLETION (R55). -/
def execStoreCompletion (agrees : Bool) (s : State) : Host.Outcome State Fault Refusal :=
  event s fun t => t.storeCompletion agrees

/-- A loop as power-up loads or defaults it, with its head as sensed (R29, R74). -/
def loadLoop (found : Option Image) (heads : Vector Bool 24) (i : LoopIx) : Loop :=
  { (match found with
    | some g => (g.loops[i]).load
    | none => Loop.vacant) with present := heads[i] }

/-- A room as power-up loads or defaults it (R42). -/
def loadRoom (found : Option Image) (r : RoomIx) : Room :=
  match found with
  | some g => (g.rooms[r]).load
  | none => Room.initial

/-- The Floor List as power-up loads or defaults it (R45). -/
def loadFloor (found : Option Image) : List LoopIx :=
  match found with
  | some g => g.floorList
  | none => []

/-- The House Record as power-up loads or defaults it, with the pause line as sensed (R52, R49). -/
def loadHouse (found : Option Image) (pauseLine : Bool) : House :=
  (match found with
    | some g => g.house
    | none => House.default).setLine pauseLine

/-- The records as power-up loads or defaults them (R29, R42, R45, R52, R56, R74, R97, R112, R128, R147, R163, R173),
before the HOME wants are set. -/
def State.loaded (s : State) (heads : Vector Bool 24) (pauseLine : Bool) : State :=
  let memory := s.storage.afterLoss
  let house := loadHouse memory.examine.2 pauseLine
  { State.reset with
    loops := Vector.ofFn (loadLoop memory.examine.2 heads)
    rooms := Vector.ofFn (loadRoom memory.examine.2)
    floorList := loadFloor memory.examine.2
    house := house
    storage := ⟨memory, memory.examine.1, none, false⟩
    timers := ⟨house.round .a false, house.round .b false⟩
    pending := s.pending }

/-- A loop whose HOME is wanted at power-up: occupied, with its head present (R29, R74). -/
def Loop.wakened (l : Loop) : Loop :=
  if l.occupied && l.present then (l.setLife .homing).setWant (some .home) else l

/-- Power-up (R29, R74, R97, R128): the loaded records, HOME wanted for every occupied loop whose head is present, the
entries placed, the first recompute, and the head entry started. -/
def State.powerUp (s : State) (heads : Vector Bool 24) (pauseLine : Bool) : State :=
  ((s.loaded heads pauseLine).mapLoops fun _ l => l.wakened).fill.recompute.serve.tellWatches

/-- POWER_UP (R56). -/
def execPowerUp (heads : Vector Bool 24) (pauseLine : Bool) (s : State) : Host.Outcome State Fault Refusal :=
  .next (s.powerUp heads pauseLine)

/-- The part without supply: only the nonvolatile memory is kept (R56; log 11). -/
def State.unpowered (s : State) : State :=
  { State.reset with powered := false, storage := ⟨s.storage.afterLoss, .blank, none, false⟩, pending := s.pending }

/-- LOSS_OF_SUPPLY (R56). -/
def execLossOfSupply (s : State) : Host.Outcome State Fault Refusal := powered s State.unpowered

end Sys2Proof.Machine
end

