-- ==== Sys2Proof/Machine/LoopCommands.lean ====
section
/-! DEFINITION. The commands of the Loop Table: ENROL, RETIRE, AMEND of LOOP and PRESET (01_the_loop_table.md, 1.3 to
1.6). -/

namespace Sys2Proof.Machine

/-- A loop request: NOSUCH for an index outside 0 to 23 (R1). -/
def State.onLoop (s : State) (n : Nat) (take : LoopIx → Taken) : Taken :=
  match loopIndex n with
  | some i => take i
  | none => s.refuse .nosuch

/-- The room of an ENROL in its range, or absent (R15). -/
def roomGiven : Option Nat → Option (Option RoomIx)
  | none => some none
  | some n => (roomNumber n).map some

/-- A room list has a place for one more loop (R31). -/
def State.roomHasPlace (s : State) : Option RoomIx → Bool
  | none => true
  | some r => decide ((s.roomLoops r).length < Config.roomCapacity)

/-- The longest length of a loop's manifold with the new loop counted (R17). -/
def State.longestWith (s : State) (i : LoopIx) (length : Option Nat) : Nat :=
  max (s.longest (manifoldOf i)) (length.getD 0)

/-- The record that an ENROL sets (R16); its balance status is settled by R142 after it. -/
def Loop.enrolled (l : Loop) (room : Option RoomIx) (length : Option Nat) (covering ceiling : Nat) : Loop :=
  { l with
    life := if l.present then .homing else .enrolled
    room := room
    length := length
    covering := covering
    owner := .auto
    override := 0
    ceiling := ceiling
    faults := .empty
    openCounter := 0 }

/-- An accepted ENROL (R16). The loop is reported first, then its room's list: R16 gives no order, and this one is the
model's choice (log 32). -/
def State.enrol (s : State) (i : LoopIx) (room : Option RoomIx) (length : Option Nat) (covering : Nat) : State :=
  ((((((((s.modLoop i fun l =>
    l.enrolled room length covering (ceilingByLength length (s.longestWith i length))).voidBalance i).wantHomeIf
      (s.loop i).present i).lifeChanged i .vacant).coupling (manifoldOf i)).tellHead s i).markRoomOf room)).serve

/-- ENROL of a loop index, the checks of R15 after the first. -/
def State.enrolLoop (s : State) (x : EnrolRequest) (i : LoopIx) : Taken :=
  if (s.loop i).occupied then s.refuse .busy
  else
    match roomGiven x.room with
    | none => s.refuse .range
    | some room =>
      if lengthOk x.length && within 1 (x.covering.getD 1) 3 then
        if s.roomHasPlace room then ⟨.done, [], s.enrol i room x.length (x.covering.getD 1)⟩ else s.refuse .full
      else s.refuse .range

/-- ENROL (R15). -/
def execEnrol (params : List Byte) (s : State) : Host.Outcome State Fault Refusal :=
  request s serviceStation fun _ t => checked enrolForm params t fun x => t.onLoop x.loop fun i => t.enrolLoop x i

/-- RETIRE of a READY loop (R18): the exit from READY is reported, then the PARK is wanted (log 16). -/
def State.retireReady (s : State) (i : LoopIx) : State :=
  (((((((s.modLoop i fun l => l.setLife .retiring).recompute).coupling (manifoldOf i)).recount i).want i
    .park).examineOpening (manifoldOf i)).markLoop i true).serve

/-- RETIRE of a loop index, by the table of R18. -/
def State.retireLoop (s : State) (i : LoopIx) : Taken :=
  match (s.loop i).life with
  | .vacant => s.refuse .nosuch
  | .retiring => s.refuse .busy
  | .enrolled => ⟨.done, [], (s.becomeVacant i).serve⟩
  | .homing =>
    if (s.loop i).present then ⟨.deferred, [], (s.setLife i .retiring).serve⟩ else ⟨.done, [], (s.becomeVacant i).serve⟩
  | .ready => if (s.loop i).present then ⟨.deferred, [], s.retireReady i⟩ else ⟨.done, [], (s.becomeVacant i).serve⟩

/-- RETIRE (R18). -/
def execRetire (params : List Byte) (s : State) : Host.Outcome State Fault Refusal :=
  request s serviceStation fun _ t => checked oneByte params t fun b => t.onLoop b.toNat fun i => t.retireLoop i

/-- The latches a fault-clear leaves set (R25). -/
def FaultSet.without (f clear : FaultSet) : FaultSet :=
  ⟨f.sensor && !clear.sensor, f.headStall && !clear.headStall, f.headFail && !clear.headFail,
    f.headChanged && !clear.headChanged⟩

/-- A fault-clear that names HEAD_STALL or HEAD_FAIL (R25). -/
def LoopAmend.namesHead (a : LoopAmend) : Bool :=
  match a.clear with
  | some f => f.headStall || f.headFail
  | none => false

/-- The installer's retry of a head (R25). -/
def LoopAmend.retries (a : LoopAmend) (l : Loop) : Bool := a.namesHead && decide (l.life = .enrolled) && l.present

/-- The record with every pair of an AMEND applied together (R22 to R25). -/
def LoopAmend.apply (a : LoopAmend) (l : Loop) : Loop :=
  { l with
    life := if a.retries l then .homing else l.life
    room := a.room.getD l.room
    length := a.length.getD l.length
    covering := a.covering.getD l.covering
    ceiling := a.ceiling.getD l.ceiling
    owner := a.owner.getD l.owner
    override := a.override.getD l.override
    faults := l.faults.without (a.clear.getD .empty)
    stallCount := if a.namesHead then 0 else l.stallCount }

/-- An AMEND that voids the loop's earlier judgements: a ceiling pair, or a change of owner (R23, R24). -/
def LoopAmend.voids (a : LoopAmend) (l : Loop) : Bool := a.ceiling.isSome || decide ((a.apply l).owner ≠ l.owner)

/-- An AMEND that the Demand Unit hears of (R115). -/
def LoopAmend.drives (a : LoopAmend) (l : Loop) : Bool :=
  a.voids l || decide ((a.apply l).override ≠ l.override) || decide ((a.apply l).room ≠ l.room) || a.retries l

/-- Reports of the room lists that a loop's move between rooms has changed, in ascending number (R22, R182). -/
def State.markRooms (s : State) (old new : Option RoomIx) : State :=
  if old = new then s
  else s.forEach allRooms fun t r => if old = some r ∨ new = some r then t.markRoom r false else t

/-- The loop with every pair applied together and its judgements voided where they are (R22 to R25, R142). -/
def State.amended (s : State) (i : LoopIx) (a : LoopAmend) : State :=
  if a.voids (s.loop i) then (s.setLoop i (a.apply (s.loop i))).voidBalance i else s.setLoop i (a.apply (s.loop i))

/-- An accepted AMEND of a loop (R21): its pairs applied together, then one recompute, at most one coupling event, and
each watch marked once. The loop is reported first, then the room lists it has left and joined: R22 gives no order, and
this one is the model's choice (log 32). -/
def State.amendLoop (s : State) (i : LoopIx) (a : LoopAmend) : State :=
  let l := s.loop i
  let x := (s.amended i a).loop i
  ((((((((s.amended i a).wantHomeIf (a.retries l) i).recomputeIf (a.drives l)).couplingIf a.ceiling.isSome
    (manifoldOf i)).recountIf (a.voids l) i).markLoopIf (decide (x ≠ l)) i
      (decide (x.life ≠ l.life) || decide (x.balance ≠ l.balance))).markRooms l.room x.room)).serve

/-- A room pair that fails the fourth check of R21. -/
def State.roomRefused (s : State) (i : LoopIx) (a : LoopAmend) : Bool :=
  match a.room with
  | some r => decide (r ≠ (s.loop i).room) && !s.roomHasPlace r
  | none => false

/-- AMEND of a loop index, the checks of R21 in order. -/
def State.amendLoopBy (s : State) (ps : List Pair) (i : LoopIx) : Taken :=
  match (s.loop i).life with
  | .vacant => s.refuse .nosuch
  | .retiring => s.refuse .busy
  | _ =>
    match loopAmend ps with
    | none => s.refuse .range
    | some a => if s.roomRefused i a then s.refuse .full else ⟨.done, [], s.amendLoop i a⟩

/-- AMEND_LOOP (R21). -/
def execAmendLoop (params : List Byte) (s : State) : Host.Outcome State Fault Refusal :=
  request s serviceStation fun _ t => checked (amendForm loopFields) params t fun p =>
    t.onLoop p.1 fun i => t.amendLoopBy p.2 i

/-- The one manifold a PRESET names (R26). -/
def presetForm : List Byte → Option Manifold
  | [b] =>
    match manifoldsOf b with
    | some [m] => some m
    | _ => none
  | _ => none

/-- The ceilings of a manifold laid out by length, with what that voids (R26). -/
def State.layOut (s : State) (m : Manifold) : State :=
  s.mapLoops fun i l =>
    if manifoldOf i = m ∧ l.occupied then
      (l.setCeiling (ceilingByLength l.length (s.longest m))).rate 0 (s.unmeasured i)
    else l

/-- An accepted PRESET (R26): one recompute, one coupling event, the changed records reported in ascending index. -/
def State.preset (s : State) (m : Manifold) : State :=
  (((s.layOut m).recompute.coupling m).forEach (loopsOf m) fun t i =>
    t.markLoopIf (decide (s.loop i ≠ (s.layOut m).loop i)) i
      (decide ((s.loop i).balance ≠ ((s.layOut m).loop i).balance))).serve

/-- PRESET of a manifold, the checks of R26 after the first. -/
def State.presetManifold (s : State) (m : Manifold) : Taken :=
  if s.campaignOpen m then s.refuse .busy
  else if (loopsOf m).any fun i => (s.loop i).occupied then ⟨.done, [], s.preset m⟩
  else s.refuse .nosuch

/-- PRESET (R26). -/
def execPreset (params : List Byte) (s : State) : Host.Outcome State Fault Refusal :=
  request s serviceStation fun _ t => checked presetForm params t fun m => t.presetManifold m

end Sys2Proof.Machine
end

