-- ==== Sys2Proof/Machine/Dispatch.lean ====
section
/-! DEFINITION. The meaning of every command: one arm for each row of spec/opcode_table.json, in the table's order. -/

namespace Sys2Proof.Machine

def exec (i : Instr) (s : State) : Host.Outcome State Fault Refusal :=
  match i with
  | .powerUp heads pauseLine => Sys2Proof.Machine.execPowerUp heads pauseLine s
  | .poll => Sys2Proof.Machine.execPoll s
  | .noneReply => Sys2Proof.Machine.execNoneReply s
  | .corruptReply => Sys2Proof.Machine.execCorruptReply s
  | .join kind address => Sys2Proof.Machine.execJoin kind address s
  | .windowExpiry => Sys2Proof.Machine.execWindowExpiry s
  | .linkRestart => Sys2Proof.Machine.execLinkRestart s
  | .breakEnd => Sys2Proof.Machine.execBreakEnd s
  | .unknownRequest kind params => Sys2Proof.Machine.execUnknownRequest kind params s
  | .look params => Sys2Proof.Machine.execLook params s
  | .watchSet params => Sys2Proof.Machine.execWatchSet params s
  | .watchClear params => Sys2Proof.Machine.execWatchClear params s
  | .describe params => Sys2Proof.Machine.execDescribe params s
  | .claim params => Sys2Proof.Machine.execClaim params s
  | .demand params => Sys2Proof.Machine.execDemand params s
  | .release params => Sys2Proof.Machine.execRelease params s
  | .amendLoop params => Sys2Proof.Machine.execAmendLoop params s
  | .amendRoom params => Sys2Proof.Machine.execAmendRoom params s
  | .amendFloor params => Sys2Proof.Machine.execAmendFloor params s
  | .amendHouse params => Sys2Proof.Machine.execAmendHouse params s
  | .enrol params => Sys2Proof.Machine.execEnrol params s
  | .retire params => Sys2Proof.Machine.execRetire params s
  | .preset params => Sys2Proof.Machine.execPreset params s
  | .campaignStart params => Sys2Proof.Machine.execCampaignStart params s
  | .campaignCancel params => Sys2Proof.Machine.execCampaignCancel params s
  | .hold params => Sys2Proof.Machine.execHold params s
  | .stop params motorStep => Sys2Proof.Machine.execStop params motorStep s
  | .resume params => Sys2Proof.Machine.execResume params s
  | .store params => Sys2Proof.Machine.execStore params s
  | .restart params => Sys2Proof.Machine.execRestart params s
  | .insertion port => Sys2Proof.Machine.execInsertion port s
  | .removal port => Sys2Proof.Machine.execRemoval port s
  | .moveStart => Sys2Proof.Machine.execMoveStart s
  | .legReached => Sys2Proof.Machine.execLegReached s
  | .endStopReached stop steps => Sys2Proof.Machine.execEndStopReached stop steps s
  | .homingTravelLimit => Sys2Proof.Machine.execHomingTravelLimit s
  | .stall step => Sys2Proof.Machine.execStall step s
  | .dwellExpiry => Sys2Proof.Machine.execDwellExpiry s
  | .scanCompletion samples => Sys2Proof.Machine.execScanCompletion samples s
  | .minuteTick => Sys2Proof.Machine.execMinuteTick s
  | .leaseExpiry room => Sys2Proof.Machine.execLeaseExpiry room s
  | .midnight => Sys2Proof.Machine.execMidnight s
  | .exerciseMinute => Sys2Proof.Machine.execExerciseMinute s
  | .roundExpiry manifold => Sys2Proof.Machine.execRoundExpiry manifold s
  | .storeCompletion agrees => Sys2Proof.Machine.execStoreCompletion agrees s
  | .pauseLineAssertion => Sys2Proof.Machine.execPauseLineAssertion s
  | .pauseLineRelease => Sys2Proof.Machine.execPauseLineRelease s
  | .lossOfSupply => Sys2Proof.Machine.execLossOfSupply s
  | .breakOnset => Sys2Proof.Machine.execBreakOnset s
  | .amendOfDriveOrRoster params => Sys2Proof.Machine.execAmendOfDriveOrRoster params s
  | .openCallReplyDiscarded => Sys2Proof.Machine.execOpenCallReplyDiscarded s

end Sys2Proof.Machine
end

