-- ==== Sys2Proof/Machine/Step.lean ====
section
/-! DEFINITION. One step of the block: the oldest waiting command is taken; while none waits, a second of the dwell
passes (log 5). -/

namespace Sys2Proof.Machine

/-- A step (log 21, log 5). -/
def step (s : State) : Host.Outcome State Fault Refusal :=
  match s.pending with
  | [] => .next s.secondTick
  | c :: rest => exec c { s with pending := rest }

/-- The state with the command that a word spells by the table's bits put at the front of its queue; no row gives bits,
so no word spells one (log 21). -/
def State.withFetchWord (s : State) (nbits w : Nat) : State :=
  match decodeTableWord nbits w with
  | some c => { s with pending := c :: s.pending }
  | none => s

end Sys2Proof.Machine
end

