-- ==== Sys2Proof/Safety.lean ====
section
/-! DEFINITION. The properties that statements are made of: the invariants the manual gives the block, and how a
command and its answer are spoken of. -/

namespace Sys2Proof.Machine

/-- The Drive Queue's law: at most 16 waiting entries, no two naming the same loop (R76). -/
def State.QueueLaw (s : State) : Prop :=
  s.drive.queue.length ≤ Config.queueCapacity ∧ (s.drive.queue.map Entry.loop).Nodup

/-- Every ceiling lies between 80 and 1000 (R3). -/
def State.CeilingLaw (s : State) : Prop :=
  ∀ i : LoopIx, Config.minCeiling ≤ (s.loop i).ceiling ∧ (s.loop i).ceiling ≤ Config.fullStroke

/-- A room record's law: a claimant exactly while CLAIMED; otherwise no demand and no lease remaining; a demand of at
most 100 (R30). -/
def Room.Lawful (x : Room) : Prop :=
  (x.state = .claimed ↔ x.claimant ≠ none) ∧ (x.state ≠ .claimed → x.demand = 0 ∧ x.leaseRemaining = 0) ∧
    x.demand ≤ 100

/-- Every room record keeps its law (R30). -/
def State.RoomLaw (s : State) : Prop := ∀ r : RoomIx, (s.room r).Lawful

/-- A campaign record's law (R148): a resume state exactly while SUSPENDED, no outcome while open, a reason exactly
after an abandonment. -/
def Campaign.Lawful (c : Campaign) : Prop :=
  (c.resume ≠ none ↔ c.state = .suspended) ∧ (c.state ≠ .idle → c.outcome = .none) ∧
    (c.reason ≠ none ↔ c.outcome = .abandoned)

/-- Both campaign records keep their law, and none is open but in HEATING (R148). -/
def State.CampaignLaw (s : State) : Prop :=
  (∀ m : Manifold, (s.campaign m).Lawful) ∧
    (s.house.season = .standby → ∀ m : Manifold, (s.campaign m).state = .idle)

/-- The Floor List's law: at most 8 members, none twice, and none VACANT (R43). -/
def State.FloorLaw (s : State) : Prop :=
  s.floorList.length ≤ Config.floorCapacity ∧ s.floorList.Nodup ∧ ∀ i ∈ s.floorList, (s.loop i).life ≠ .vacant

/-- The roster's law: no two occupied slots hold one address (R173). -/
def State.RosterLaw (s : State) : Prop :=
  ∀ (j k : SlotIx) (x y : Slot), s.slot j = some x → s.slot k = some y → x.address = y.address → j = k

/-- The driver's law: no move runs while a dwell counts, a HOLDING drive has a move running and a HELD drive none
(R75, R83, R90). -/
def Drive.Lawful (d : Drive) : Prop :=
  (d.moving ≠ none → d.dwell = none) ∧ (d.state = .holding → d.moving ≠ none) ∧ (d.state = .held → d.moving = none)

/-- No move that R83 lets start is left waiting (R83). -/
def State.StartLaw (s : State) : Prop := s.canStart = false

/-- The reports of a command have been matched when it ends (R182). -/
def State.ReportLaw (s : State) : Prop := s.reports = []

/-- A reply arrives that counts for the poll of slot `k`, held by `x`: the part has supply, the line is not in break
and the reply window of that slot is open (R174, R175, R178). -/
structure State.Polled (s : State) (k : SlotIx) (x : Slot) : Prop where
  powered : s.powered = true
  clear : s.link.lineBreak = .clear
  window : s.link.window = .slot k
  slot : s.slot k = some x

/-- The last frame sent is an answer to an address, with a status and a body, whatever its marker (R175, R185). -/
def State.Answered (s : State) (address : Nat) (x : Status) (body : List Byte) : Prop :=
  ∃ marker : Option Marker, s.link.sent = frame address .answer (answerPayload x marker body)

/-- Two states agree in every record of the blocks behind the House Link Controller and in the queue of commands:
all but the link itself. -/
structure State.SameRecords (s t : State) : Prop where
  powered : t.powered = s.powered
  loops : t.loops = s.loops
  rooms : t.rooms = s.rooms
  floorList : t.floorList = s.floorList
  floorShort : t.floorShort = s.floorShort
  house : t.house = s.house
  storage : t.storage = s.storage
  drive : t.drive = s.drive
  channels : t.channels = s.channels
  supplyRefs : t.supplyRefs = s.supplyRefs
  timers : t.timers = s.timers
  campaigns : t.campaigns = s.campaigns
  pending : t.pending = s.pending

/-- A loop's record but for what the Drive Queue, the Demand Unit and the count of open minutes hold in it: the same
record, with want, pending target, commanded stroke, floor-held mark and open counter free (R77, R113, R129). -/
def Loop.Steady (l x : Loop) : Prop :=
  { x with
    want := l.want
    pendingTarget := l.pendingTarget
    commanded := l.commanded
    floorHeld := l.floorHeld
    openCounter := l.openCounter } = l

/-- Two records of one loop agree in the configuration, the owner and the ceiling (R2, R3, R4). -/
structure Loop.SameConfig (l x : Loop) : Prop where
  room : x.room = l.room
  length : x.length = l.length
  covering : x.covering = l.covering
  owner : x.owner = l.owner
  override : x.override = l.override
  ceiling : x.ceiling = l.ceiling

/-- A restart mark is held only for the loop whose move runs (R170). -/
def State.MarkLaw (s : State) : Prop := ∀ i : LoopIx, (s.loop i).restartMark = true → s.movingLoop i = true

/-- The driver can start no move: one runs, a dwell counts, or the drive state is not RUNNING (R83). -/
def State.DriverBusy (s : State) : Prop :=
  s.drive.moving ≠ none ∨ s.drive.dwell ≠ none ∨ s.drive.state ≠ .running

/-- The conditions under which the round timer of a manifold runs (R130). -/
def State.RoundConditions (s : State) (m : Manifold) : Prop :=
  s.house.season = .heating ∧ (s.house.trimEnable = true ∨ (s.campaign m).state = .rounds) ∧ s.house.pause = false ∧
    s.drive.state = .running ∧ (s.channel (supplyChannel m)).state = .ok

/-- A cause of suspension of a manifold's campaign holds (R156). -/
def State.Suspends (s : State) (m : Manifold) : Prop :=
  s.house.pause = true ∨ s.drive.state ≠ .running ∨ (s.channel (supplyChannel m)).state ≠ .ok

/-- A round has just started on a manifold: the round settings are the House Record's, the timer runs with its full
settle base or is FROZEN, and the supply reference is the supply channel's reading (R131, R105). -/
structure State.RoundStarted (t : State) (m : Manifold) (runs : Prop) : Prop where
  running : runs → (t.timer m).remaining = some t.house.settleBase
  frozen : ¬runs → (t.timer m).remaining = none
  settleBase : (t.timer m).settleBase = t.house.settleBase
  design : (t.timer m).design = t.house.design m
  deadband : (t.timer m).deadband = t.house.deadband
  supplyRef : t.supplyRefs.get m = (t.channel (supplyChannel m)).reading

/-- A round has just started with every open counter of the manifold at 0, as at a coupling event, a release, a pause
onset or end, and an entry into ROUNDS (R134, R130, R135, R145). -/
structure State.FreshRound (t : State) (m : Manifold) (runs : Prop) : Prop where
  started : t.RoundStarted m runs
  counters : ∀ i, manifoldOf i = m → (t.loop i).openCounter = 0

/-- The timer and the supply reference of a manifold are as they were (R129, R105). -/
structure State.SameRound (s : State) (m : Manifold) (t : State) : Prop where
  timer : t.timer m = s.timer m
  supplyRef : t.supplyRefs.get m = s.supplyRefs.get m

/-- A manifold's round timer once its conditions have been checked: one that fails them is FROZEN, one that meets them
again is released, and one that runs on is left alone (R130). -/
structure State.Checked (s : State) (m : Manifold) (t : State) : Prop where
  freezes : ¬t.RoundConditions m → t.timer m = { s.timer m with remaining := none }
  released : t.RoundConditions m → (s.timer m).remaining = none → t.FreshRound m True
  runsOn : t.RoundConditions m → (s.timer m).remaining ≠ none → t.timer m = s.timer m
  supplyRef : (s.timer m).remaining ≠ none ∨ ¬t.RoundConditions m →
    (t.channel (supplyChannel m)).state = (s.channel (supplyChannel m)).state →
      t.supplyRefs.get m = s.supplyRefs.get m

/-- A manifold's round timer after a report of its conditions that its campaign hears of too: an entry into ROUNDS
starts a round, and any other report is a check of the conditions (R130, R145, R149). -/
structure State.Timed (s : State) (m : Manifold) (t : State) : Prop where
  entered : (s.campaign m).state ≠ .rounds → (t.campaign m).state = .rounds → t.FreshRound m (t.RoundConditions m)
  checked : (s.campaign m).state = .rounds ∨ (t.campaign m).state ≠ .rounds → s.Checked m t

/-- A loop's record but for what changes where a move of it starts, or starts and is reached at once: the same record,
with what `Steady` frees and the position and the stall count free (R63, R83). -/
def Loop.Kept (l x : Loop) : Prop :=
  { x with
    want := l.want
    pendingTarget := l.pendingTarget
    position := l.position
    stallCount := l.stallCount
    commanded := l.commanded
    floorHeld := l.floorHeld
    openCounter := l.openCounter } = l

/-- What a recompute and the wants it raises leave alone: everything but wants, pending targets, waiting entries,
commanded strokes, floor-held marks, open counters and the floor-short indication (R116, R117). The link is spoken of
apart. -/
structure State.OnlyDemand (s t : State) : Prop where
  powered : t.powered = s.powered
  rooms : t.rooms = s.rooms
  floorList : t.floorList = s.floorList
  house : t.house = s.house
  storage : t.storage = s.storage
  channels : t.channels = s.channels
  supplyRefs : t.supplyRefs = s.supplyRefs
  timers : t.timers = s.timers
  campaigns : t.campaigns = s.campaigns
  pending : t.pending = s.pending
  moving : t.drive.moving = s.drive.moving
  dwell : t.drive.dwell = s.drive.dwell
  driveState : t.drive.state = s.drive.state
  loops : ∀ i, (s.loop i).Steady (t.loop i)

/-- What stays where, besides, the driver may start the entry at the head of its queue (R83): a loop outside `but`
keeps its record (`Kept`), or was RETIRING with a PARK that had no step to drive and is VACANT (R19, R63), leaving the
Floor List (R14). -/
structure State.OnlyDrive (but : List LoopIx) (s t : State) : Prop where
  powered : t.powered = s.powered
  rooms : t.rooms = s.rooms
  house : t.house = s.house
  storage : t.storage = s.storage
  channels : t.channels = s.channels
  pending : t.pending = s.pending
  driveState : t.drive.state = s.drive.state
  members : t.floorList.Sublist s.floorList
  floor : ∀ i ∈ s.floorList, i ∈ t.floorList ∨ (t.loop i).life = .vacant
  loops : ∀ i, i ∉ but → (s.loop i).Kept (t.loop i) ∨ ((s.loop i).life = .retiring ∧ (t.loop i).life = .vacant)

/-- A state after a change of what the Demand Unit reads: the change, then only what the Demand Unit and the Drive
Queue make of it; while the driver is busy, no move starts. -/
structure State.FollowsDemand (s t : State) : Prop where
  drive : State.OnlyDrive [] s t
  busy : s.DriverBusy → s.OnlyDemand t

/-- A request of slot `k` has been answered with a status and a body, whatever marker rode on the answer: the window is
shut, the slot's miss count and marker are cleared, and of the other slots only markers may have changed (R175, R182). -/
structure State.Replies (s : State) (k : SlotIx) (x : Slot) (status : Status) (body : List Byte) (t : State) : Prop where
  sent : t.Answered x.address status body
  window : t.link.window = .shut
  cursor : t.link.cursor = s.link.cursor
  lineBreak : t.link.lineBreak = s.link.lineBreak
  slot : t.slot k = some ⟨x.address, 0, x.watches, none⟩
  others : ∀ j, j ≠ k → (t.slot j).map Slot.unmarked = (s.slot j).map Slot.unmarked
  reports : t.reports = []

/-- The state once a request of slot `k` that changes no record has been answered: the window shut, the slot's miss count
0, and its pending marker, if any, on the answer and cleared (R175, R182, R185). -/
def State.answered (s : State) (k : SlotIx) (x : Slot) (status : Status) (body : List Byte) : State :=
  { s with
    link := { s.link with
      window := .shut
      roster := s.link.roster.set k (some ⟨x.address, 0, x.watches, none⟩)
      sent := frame x.address .answer (answerPayload status x.marker body) } }

/-- A request has been answered and no record has changed; where no report was left over, the answer is all there is, and
it carries the marker that was pending (R175, R182). -/
structure State.OnlyAnswers (s : State) (k : SlotIx) (x : Slot) (status : Status) (body : List Byte) (t : State) :
    Prop where
  replies : s.Replies k x status body t
  records : s.SameRecords t
  quiet : s.ReportLaw → t = s.answered k x status body

/-- Every slot has been told a list of reported changes (R182). -/
def State.Told (s t : State) (reports : List Report) : Prop :=
  ∀ j, t.slot j = (s.slot j).map fun y => y.told reports

/-- A request of slot `k` whose effect reported a list of changes: every other slot is told them, and the answer carries
the sender's marker as they leave it (R182). -/
structure State.Carries (s : State) (k : SlotIx) (x : Slot) (status : Status) (body : List Byte)
    (reports : List Report) (t : State) : Prop where
  sent : t.link.sent = frame x.address .answer (answerPayload status (x.told reports).marker body)
  others : ∀ j, j ≠ k → t.slot j = (s.slot j).map fun y => y.told reports

/-- The commanded strokes, the floor-held marks and the floor-short indication are those a recompute of `s` gives
(R116). -/
structure State.Commanded (s t : State) : Prop where
  stroke : ∀ i, (t.loop i).commanded = (s.recompute.loop i).commanded
  held : ∀ i, (t.loop i).floorHeld = (s.recompute.loop i).floorHeld
  short : t.floorShort = s.recompute.floorShort

/-- A change has been made to `s`. Where the Demand Unit hears of it, it recomputes, which is all that happens while the
driver is busy; where it does not, nothing more happens, unless a move was waiting to start (R32, R115, R83). -/
structure State.TakesDemand (heard : Prop) (s t : State) : Prop where
  follows : s.FollowsDemand t
  told : heard → s.DriverBusy → s.recompute.SameRecords t
  silent : ¬heard → s.StartLaw → s.SameRecords t

/-- A room's record has become `new`: the Demand Unit hears of a changed effective demand (R32). -/
def State.TakesRoom (s : State) (r : RoomIx) (new : Room) (t : State) : Prop :=
  (s.setRoom r new).TakesDemand ((s.room r).effective ≠ new.effective) t

/-- The reports of a room's record that has become `new`: its own change is among them, and is the only one where the
effective demand is as it was and no move was waiting to start (R32, R182). -/
structure State.RoomReports (s : State) (r : RoomIx) (new : Room) (reports : List Report) : Prop where
  own : s.room r ≠ new → ⟨.room, r.val + 1, decide ((s.room r).state ≠ new.state)⟩ ∈ reports
  alone : (s.room r).effective = new.effective → s.StartLaw →
    reports = if s.room r = new then [] else [⟨.room, r.val + 1, decide ((s.room r).state ≠ new.state)⟩]

/-- A request that makes a room's record `new` has been answered DONE: what it does, and the marker it carries. -/
structure State.ServesRoom (s : State) (k : SlotIx) (x : Slot) (r : RoomIx) (new : Room) (t : State) : Prop where
  replies : s.Replies k x .done [] t
  room : s.TakesRoom r new t
  told : s.ReportLaw → ∃ reports, s.Carries k x .done [] reports t ∧ s.RoomReports r new reports

/-- Rooms of `s` have lapsed, `lapsed` being `s` with their records changed: the Demand Unit hears of it where an
effective demand has changed (R32, R40). -/
structure State.TakesLapses (s lapsed t : State) : Prop where
  follows : lapsed.FollowsDemand t
  told : (∃ r, (lapsed.room r).effective ≠ (s.room r).effective) → s.DriverBusy → lapsed.Commanded t
  silent : (∀ r, (lapsed.room r).effective = (s.room r).effective) → s.StartLaw → lapsed.SameRecords t

/-- The value a list of pairs gives a field, if it names it. -/
def pairValue (ps : List Pair) (field : Nat) : Option Nat :=
  (ps.find? fun p => decide (p.field = field)).map Pair.value

/-- The House Record fields a station kind may amend, by their identifiers (R46, 11.3). -/
def HouseAmendable : StationKind → Nat → Prop
  | .service, f => 1 ≤ f ∧ f ≤ 12
  | .source, f => f = 1 ∨ f = 7 ∨ f = 8 ∨ f = 10
  | .room, _ => False

/-- A value lies in the range of an amendable field of the House Record (R46). -/
def HouseInRange (f v : Nat) : Prop :=
  ((f = 1 ∨ f = 6 ∨ f = 8) ∧ v ≤ 1) ∨ ((f = 2 ∨ f = 3) ∧ 30 ≤ v ∧ v ≤ 100) ∨ (f = 4 ∧ 3 ≤ v ∧ v ≤ 20) ∨
    (f = 5 ∧ 5 ≤ v ∧ v ≤ 60) ∨ (f = 7 ∧ v ≤ 24000) ∨ (f = 9 ∧ (v = 1 ∨ v = 5)) ∨ ((f = 10 ∨ f = 11) ∧ v ≤ 10079) ∨
    (f = 12 ∧ 1 ≤ v ∧ v ≤ 48)

/-- The House Record with each field a list of pairs names at the value given; a house-time pair sets time set (R46, R47,
R51). -/
def House.amendedBy (h : House) (ps : List Pair) : House :=
  { h with
    season := ((pairValue ps 1).map fun v => if v = 0 then Season.heating else .standby).getD h.season
    designA := (pairValue ps 2).getD h.designA
    designB := (pairValue ps 3).getD h.designB
    deadband := (pairValue ps 4).getD h.deadband
    settleBase := (pairValue ps 5).getD h.settleBase
    trimEnable := ((pairValue ps 6).map fun v => decide (v = 1)).getD h.trimEnable
    flowFloor := (pairValue ps 7).getD h.flowFloor
    pauseFlag := ((pairValue ps 8).map fun v => decide (v = 1)).getD h.pauseFlag
    leaseUnit := (pairValue ps 9).getD h.leaseUnit
    houseTime := (pairValue ps 10).getD h.houseTime
    timeSet := h.timeSet || (pairValue ps 10).isSome
    exerciseMinute := (pairValue ps 11).getD h.exerciseMinute
    roundLimit := (pairValue ps 12).getD h.roundLimit }

/-- A value lies in the range of an amendable field of a loop (R21); 0xFFFF makes a room or a length absent (R184). -/
def LoopInRange (f v : Nat) : Prop :=
  (f = 1 ∧ (v = 65535 ∨ 1 ≤ v ∧ v ≤ 16)) ∨ (f = 2 ∧ (v = 65535 ∨ 5 ≤ v ∧ v ≤ 200)) ∨ (f = 3 ∧ 1 ≤ v ∧ v ≤ 3) ∨
    (f = 4 ∧ 80 ≤ v ∧ v ≤ 1000) ∨ (f = 5 ∧ v ≤ 1) ∨ (f = 6 ∧ v ≤ 1000) ∨ (f = 7 ∧ 1 ≤ v ∧ v ≤ 15)

/-- What a list of pairs in range asks of a loop (R21, 11.2, 11.3). -/
def loopAsked (ps : List Pair) : LoopAmend where
  room := (pairValue ps 1).map fun v => if v = 65535 then none else roomNumber v
  length := (pairValue ps 2).map fun v => if v = 65535 then none else some v
  covering := pairValue ps 3
  ceiling := pairValue ps 4
  owner := (pairValue ps 5).map fun v => if v = 0 then .auto else .service
  override := pairValue ps 6
  clear := (pairValue ps 7).map fun v =>
    ⟨decide (v % 2 = 1), decide (v / 2 % 2 = 1), decide (v / 4 % 2 = 1), decide (v / 8 % 2 = 1)⟩

/-- No want and no entry, waiting or running, of any loop of a manifold (R152). -/
def State.Still (s : State) (m : Manifold) : Prop :=
  ∀ i, manifoldOf i = m → (s.loop i).want = none ∧ (∀ e ∈ s.drive.queue, e.loop ≠ i) ∧
    ∀ r, s.drive.moving = some r → r.loop ≠ i

/-- A manifold's campaign once the causes of its suspension have been examined: suspended where one holds, with the state
to resume to, and resumed where none does, from OPENING on to ROUNDS where opening has ended (R156, R157, R152). Whether
opening has ended is read from the state after, which is said where no move starts and is reached at once: such a move may
raise wants after the examination. -/
structure State.Examined (s : State) (m : Manifold) (t : State) : Prop where
  idle : (s.campaign m).state = .idle → t.campaign m = s.campaign m
  opening : (s.campaign m).state = .opening → ¬t.Suspends m →
    t.campaign m = s.campaign m ∨ (t.drive.dwell = s.drive.dwell → t.Still m) ∧
      t.campaign m = { s.campaign m with state := .rounds, resume := none }
  rounds : (s.campaign m).state = .rounds → ¬t.Suspends m → t.campaign m = s.campaign m
  opened : (s.campaign m).state = .opening → t.Suspends m →
    t.campaign m = { s.campaign m with state := .suspended, resume := some .opening }
  counted : (s.campaign m).state = .rounds → t.Suspends m →
    t.campaign m = { s.campaign m with state := .suspended, resume := some .rounds }
  suspended : (s.campaign m).state = .suspended → t.Suspends m → t.campaign m = s.campaign m
  toRounds : (s.campaign m).state = .suspended → ¬t.Suspends m → (s.campaign m).resume = some .rounds ∨ t.Still m →
    t.campaign m = { s.campaign m with state := .rounds, resume := none }
  resumes : (s.campaign m).state = .suspended → ¬t.Suspends m → (s.campaign m).resume = some .opening →
    ∃ x ∈ [CampaignState.opening, .rounds], t.campaign m = { s.campaign m with state := x, resume := none }
  toOpening : (s.campaign m).state = .suspended → ¬t.Suspends m → (s.campaign m).resume = some .opening → ¬t.Still m →
    t.drive.moving = s.drive.moving → t.drive.dwell = s.drive.dwell →
      t.campaign m = { s.campaign m with state := .opening, resume := none }

/-- The want a loop has after a move's end has left its head at a position, from the want it had: a POSITION where it is
READY, its head homed and the position not its commanded stroke (R87, R80). -/
def Loop.wantAt (l : Loop) (position : Nat) : Option MoveKind :=
  if l.life = .ready ∧ l.homed = true ∧ position ≠ l.commanded then some (supersede l.want .position) else l.want

/-- The same where the move did not complete: a RETIRING loop wants its PARK again (R19). -/
def Move.wantAgain (m : Move) (l : Loop) (position : Nat) : Option MoveKind :=
  if l.life = .retiring ∧ m.kind = .park then some (supersede l.want .park) else l.wantAt position

/-- A want that is outstanding: not NONE, no waiting entry names its loop, and not the HOME want of a running HOME
(R78). -/
def State.Outstanding (s : State) (i : LoopIx) : Prop :=
  (s.loop i).want ≠ none ∧ (∀ e ∈ s.drive.queue, e.loop ≠ i) ∧
    ¬((s.loop i).want = some .home ∧ ∃ m, s.drive.moving = some m ∧ m.loop = i ∧ m.kind = .home)

/-- The restart mark has been taken at the end of a move, of a loop whose state before it was `life`: the mark is gone,
and the loop's head is to be homed afresh (R170). -/
structure State.RestartTaken (i : LoopIx) (life : Lifecycle) (t : State) : Prop where
  mark : (t.loop i).restartMark = false
  faults : (t.loop i).faults = .empty
  stalls : (t.loop i).stallCount = 0
  homed : (t.loop i).homed = false
  capacity : (t.loop i).capacity = none
  stepPos : (t.loop i).stepPos = none
  position : (t.loop i).position = none
  want : (t.loop i).want = some .home
  life : (t.loop i).life = if life = .retiring then .retiring else .homing
  moving : t.drive.moving = none

/-! ### Record images, by their bytes (11.5) -/

/-- The value of the byte at an offset. -/
def oneAt (b : List Byte) (n : Nat) : Option Nat := b[n]?.map BitVec.toNat

/-- The value of the two bytes from an offset on, the first the more significant. -/
def twoAt (b : List Byte) (n : Nat) : Option Nat :=
  match b[n]?, b[n + 1]? with
  | some hi, some lo => some (256 * hi.toNat + lo.toNat)
  | _, _ => none

/-- An image of a length, with one-byte and two-byte fields at their offsets. -/
structure Shows (b : List Byte) (length : Nat) (ones twos : List (Nat × Nat)) : Prop where
  length : b.length = length
  ones : ∀ e ∈ ones, oneAt b e.1 = some (e.2 % 256)
  twos : ∀ e ∈ twos, twoAt b e.1 = some (e.2 % 65536)

/-- The bits of a byte of flags, bit 0 first; the bits above those listed are 0 (the model's choice, log 35). -/
def bitSum (bits : List Bool) : Nat := bits.foldr (fun b n => (if b = true then 1 else 0) + 2 * n) 0

/-- A temperature or ΔT as a two-byte quantity, 0x8000 where it is absent. -/
def signedCode (x : Option Int) : Nat := (x.map fun n => (n % 65536).toNat).getD 0x8000

/-- A loop record's image (11.5); the bits that 11.5 names nothing for are 0 (the model's choice, log 35). -/
def State.LoopShown (s : State) (i : LoopIx) (b : List Byte) : Prop :=
  let l := s.loop i
  let c := s.channel (loopChannel i)
  Shows b 28
    [(0, l.life.code), (1, (l.room.map fun r => r.val + 1).getD 255), (2, l.length.getD 255), (3, l.covering),
      (4, bitSum [l.present, l.homed, decide (l.owner = .service), l.floorHeld]),
      (5, bitSum [l.faults.sensor, l.faults.headStall, l.faults.headFail, l.faults.headChanged]), (14, l.stallCount),
      (15, l.idleDays), (16, wantCode l.want), (23, c.state.code), (26, l.openCounter),
      (27, l.balance.code + 16 * l.inBand)]
    [(6, l.override), (8, l.ceiling), (10, l.capacity.getD 65535), (12, l.position.getD 65535),
      (17, l.pendingTarget.getD 65535), (19, l.commanded),
      (21, signedCode (if c.state = .ok then c.filtered else none)), (24, signedCode l.deltaT)]

/-- A room record's image (11.5). -/
def State.RoomShown (s : State) (r : RoomIx) (b : List Byte) : Prop :=
  let x := s.room r
  let members := allLoops.filter fun i => (s.loop i).room = some r
  Shows b 13
    ([(0, x.state.code), (1, (x.claimant.map fun k => k.val).getD 255), (2, members.length), (9, x.demand),
      (10, x.leaseLength), (11, x.leaseRemaining), (12, x.fallback)] ++
      (List.range 6).map fun n => (3 + n, (members[n]?.map fun i => i.val).getD 255)) []

/-- The floor record's image (11.5). -/
def State.FloorShown (s : State) (b : List Byte) : Prop :=
  Shows b 9
    ((0, s.floorList.length) :: (List.range 8).map fun n => (1 + n, (s.floorList[n]?.map fun i => i.val).getD 255)) []

/-- A campaign record's bytes from an offset on (11.5). -/
def Campaign.shownAt (c : Campaign) (n : Nat) : List (Nat × Nat) :=
  [(n, c.state.code), (n + 1, (c.resume.map ResumeState.code).getD 255), (n + 2, c.roundsDone), (n + 3, c.outcome.code),
    (n + 4, (c.reason.map AbandonReason.code).getD 255)]

/-- The House Record's image at index 0 (11.5). -/
def State.HouseShown (s : State) (b : List Byte) : Prop :=
  let h := s.house
  Shows b 26
    ([(0, h.season.code), (1, h.designA), (2, h.designB), (3, h.deadband), (4, h.settleBase),
      (7, bitSum [h.pauseFlag, h.pauseLine, h.pauseLine || h.pauseFlag, h.timeSet, s.floorShort,
        decide (s.drive.moving = none ∧ s.drive.dwell = none ∧ s.drive.queue = []), s.storage.running.isSome,
        h.trimEnable]),
      (8, h.leaseUnit), (13, h.roundLimit), (14, s.drive.state.code), (25, s.storage.status.code)] ++
      (s.campaign .a).shownAt 15 ++ (s.campaign .b).shownAt 20)
    [(5, h.flowFloor), (9, h.houseTime), (11, h.exerciseMinute)]

/-- A manifold channel record's image at index 1 or 2 (11.5). -/
def State.ManifoldShown (s : State) (m : Manifold) (b : List Byte) : Prop :=
  let supply := s.channel (supplyChannel m)
  let back := s.channel (returnChannel m)
  Shows b 8 [(0, supply.state.code), (5, back.state.code)]
    [(1, signedCode (if supply.state = .ok then supply.filtered else none)), (3, signedCode (s.supplyRefs.get m)),
      (6, signedCode (if back.state = .ok then back.filtered else none))]

/-- A drive record's image: MOVING, DWELL or EMPTY at index 0, WAITING or EMPTY above (11.5, R96). -/
def State.DriveShown (s : State) (n : Nat) (b : List Byte) : Prop :=
  let empty := Shows b 11 [(0, 0), (1, 255), (2, 255), (5, 255), (8, 255), (9, 255), (10, 255)] [(3, 65535), (6, 65535)]
  (n = 0 → s.drive.moving = none → s.drive.dwell = none → empty) ∧
    (∀ m, n = 0 → s.drive.moving = some m →
      Shows b 11 [(0, 1), (1, m.loop.val), (2, m.kind.code), (5, m.leg.code), (8, 255), (9, 255), (10, 255)]
        [(3, m.target.getD 65535), (6, m.returnStroke.getD 65535)]) ∧
    (∀ d, n = 0 → s.drive.moving = none → s.drive.dwell = some d →
      Shows b 11
        [(0, 2), (1, d.loop.val), (2, d.kind.code), (5, 255), (8, d.ending.code),
          (9, (d.reason.map EndReason.code).getD 255), (10, d.remaining)] [(3, 65535), (6, 65535)]) ∧
    (∀ e, n ≠ 0 → s.drive.queue[n - 1]? = some e →
      Shows b 11 [(0, 3), (1, e.loop.val), (2, e.kind.code), (5, 255), (8, 255), (9, 255), (10, 255)]
        [(3, e.target.getD 65535), (6, 65535)]) ∧
    (n ≠ 0 → s.drive.queue[n - 1]? = none → empty)

/-- A watch's bytes from an offset on (11.5), 0xFF where there is none. -/
def watchShownAt (w : Option Watch) (n : Nat) : List (Nat × Nat) :=
  match w with
  | some w =>
    [(n, w.table.code), (n + 1, w.base), (n + 2, w.span), (n + 3, if w.mirror = true then 1 else 0),
      (n + 4, if w.condition = .state then 1 else 0)]
  | none => [(n, 255), (n + 1, 255), (n + 2, 255), (n + 3, 255), (n + 4, 255)]

/-- A roster record's image: of an empty slot, the first byte 0 and 0xFF after it (11.5). -/
def State.RosterShown (s : State) (k : SlotIx) (b : List Byte) : Prop :=
  (s.slot k = none → Shows b 16 ((0, 0) :: (List.range 15).map fun n => (n + 1, 255)) []) ∧
    ∀ x, s.slot k = some x →
      Shows b 16
        ([(0, 1), (1, x.address), (2, kindCode (slotKind k)), (3, x.misses), (4, if x.marker = none then 0 else 1),
          (5, x.watches.length)] ++ watchShownAt x.watches[0]? 6 ++ watchShownAt x.watches[1]? 11) []

/-- A room record once LAPSED, where it is CLAIMED by a holder of the kind asked about (R40). -/
def Room.lapsedIf (holder : Option SlotIx → Bool) (y : Room) : Room :=
  if y.state = .claimed ∧ holder y.claimant = true then
    { y with state := .lapsed, claimant := none, demand := 0, leaseRemaining := 0 }
  else y

/-- `n` is the longest length among the occupied loops of a manifold that have one; 0 where none has (R17). -/
def State.IsLongest (s : State) (m : Manifold) (n : Nat) : Prop :=
  (∀ (j : LoopIx) (l : Nat), manifoldOf j = m → (s.loop j).life ≠ .vacant → (s.loop j).length = some l → l ≤ n) ∧
    ((∃ j : LoopIx, manifoldOf j = m ∧ (s.loop j).life ≠ .vacant ∧ (s.loop j).length = some n) ∨
      (n = 0 ∧ ∀ j : LoopIx, manifoldOf j = m → (s.loop j).life ≠ .vacant → (s.loop j).length = none))

/-- The move that an entry makes has a step to drive, or is a HOME, which drives until an end-stop (R62, R63, R65). -/
def State.Drives (s : State) (e : Entry) : Prop :=
  e.kind = .home ∨ stepOf ((s.loop e.loop).capacity.getD 0) e.move.aimedAt ≠ (s.loop e.loop).stepPos.getD 0

/-- The second leg of an EXERCISE has no step to drive, back to the commanded stroke (R85). -/
def State.ReturnsAtOnce (s : State) (e : Entry) : Prop :=
  stepOf ((s.loop e.loop).capacity.getD 0) (s.loop e.loop).commanded = (s.loop e.loop).stepPos.getD 0

/-- The stroke at which a move with no step to drive is DONE: that of its last leg (R63, R85). -/
def State.strokeOfEntry (s : State) (e : Entry) : Nat :=
  if e.kind = .exercise then (s.loop e.loop).commanded else e.move.aimedAt

/-- The move of an entry of `s` runs in `t`, on a leg with a return stroke: the later entries stand in order, the
position is absent and the want NONE but for a HOME (R83, R77). -/
structure State.EntryRuns (s : State) (e : Entry) (rest : List Entry) (leg : Leg) (back : Option Nat) (t : State) :
    Prop where
  moving : t.drive.moving = some ⟨e.loop, e.kind, e.target, leg, back, false⟩
  dwell : t.drive.dwell = none
  queue : ∃ more, t.drive.queue = rest ++ more
  position : (t.loop e.loop).position = none
  want : (t.loop e.loop).want = if e.kind = .home then (s.loop e.loop).want else none

/-- The move of an entry of `s` has started and ended DONE in `t` with no step driven: its dwell begins, the position is
the stroke of the leg, the stall count 0, and the want what R87 gives there (R63, R83, R88). -/
structure State.EntryEnds (s : State) (e : Entry) (rest : List Entry) (t : State) : Prop where
  moving : t.drive.moving = none
  dwell : t.drive.dwell = some ⟨e.loop, e.kind, .done, none, 2⟩
  queue : (∀ x ∈ rest, x.loop ≠ e.loop) → ∃ more, t.drive.queue = rest ++ more
  position : (t.loop e.loop).position = some (s.strokeOfEntry e)
  stallCount : (t.loop e.loop).stallCount = 0
  want : (t.loop e.loop).want = ((s.loop e.loop).setWant none).wantAt (s.strokeOfEntry e)

/-- The entry at the head of the queue of `s` has become the running move (R83), the entries behind it being `rest`: its
first leg is driven; an EXERCISE with its first leg reached at once drives its second (R85); with no step to drive at all
the move is DONE (R63), which makes a RETIRING loop VACANT at its PARK (R19). The loop's open counter is 0 (R133). -/
structure State.EntryStarts (s : State) (e : Entry) (rest : List Entry) (t : State) : Prop where
  counter : (t.loop e.loop).openCounter = 0
  drives : s.Drives e → s.EntryRuns e rest .first none t
  turns : ¬s.Drives e → e.kind = .exercise → ¬s.ReturnsAtOnce e →
    s.EntryRuns e rest .second (some (s.loop e.loop).commanded) t
  ends : ¬s.Drives e → (e.kind = .exercise → s.ReturnsAtOnce e) →
    (e.kind = .park → (s.loop e.loop).life ≠ .retiring) → s.EntryEnds e rest t
  retires : ¬s.Drives e → e.kind = .park → (s.loop e.loop).life = .retiring →
    t.drive.moving = none ∧ t.drive.dwell = some ⟨e.loop, .park, .done, none, 2⟩ ∧ (t.loop e.loop).life = .vacant

/-- The drive has left RUNNING, or was off it, and what it measures stands still: every open counter is 0, the round
timers are FROZEN, and a campaign in OPENING or ROUNDS is SUSPENDED, with the state to resume to (R130, R133, R156). -/
structure State.MeasurementStops (s t : State) : Prop where
  counters : ∀ i, (t.loop i).openCounter = 0
  timers : ∀ m, t.timer m = { s.timer m with remaining := none }
  supplyRefs : t.supplyRefs = s.supplyRefs
  opening : ∀ m, (s.campaign m).state = .opening →
    t.campaign m = { s.campaign m with state := .suspended, resume := some .opening }
  rounds : ∀ m, (s.campaign m).state = .rounds →
    t.campaign m = { s.campaign m with state := .suspended, resume := some .rounds }
  others : ∀ m, (s.campaign m).state = .idle ∨ (s.campaign m).state = .suspended → t.campaign m = s.campaign m

/-- The exercise minute chooses the loop: READY, AUTO, commanded 0, its head at rest for 7 days (R166). -/
def Loop.ExerciseDue (l : Loop) : Prop := l.life = .ready ∧ l.owner = .auto ∧ l.commanded = 0 ∧ 7 ≤ l.idleDays

/-- At its manifold's round expiry a loop is evaluated and a ceiling claimed for it, which is taken (R136, R138, R27). -/
def State.Claims (s : State) (m : Manifold) (i : LoopIx) : Prop :=
  manifoldOf i = m ∧ (s.loop i).life = .ready ∧ (s.loop i).owner = .auto ∧
    (s.channel (loopChannel i)).state = .ok ∧ (s.timer m).settleBase * (s.loop i).covering ≤ (s.loop i).openCounter ∧
    ∃ dt, (s.loop i).deltaT = some dt ∧
      (judge (s.loop i).ceiling (s.loop i).inBand dt (s.timer m).design (s.timer m).deadband).claim ≠ none

/-- An image holds of a state what R53 says: READY and HOMING loops as ENROLLED, RETIRING ones as VACANT with the values
of R14, the Floor List without them, the rooms' lease lengths and fallbacks, and the ten settings. -/
structure Image.Holds (g : Image) (s : State) : Prop where
  vacant : ∀ i : LoopIx, (s.loop i).life = .vacant ∨ (s.loop i).life = .retiring →
    g.loops[i] = ⟨.vacant, none, none, 1, 1000, .unmeasured⟩
  enrolled : ∀ i : LoopIx, (s.loop i).life ≠ .vacant → (s.loop i).life ≠ .retiring →
    g.loops[i] = ⟨.enrolled, (s.loop i).room, (s.loop i).length, (s.loop i).covering, (s.loop i).ceiling,
      (s.loop i).balance⟩
  rooms : ∀ r : RoomIx, g.rooms[r] = ⟨(s.room r).leaseLength, (s.room r).fallback⟩
  floorList : g.floorList = s.floorList.filter fun i => (s.loop i).life ≠ .vacant ∧ (s.loop i).life ≠ .retiring
  season : g.season = s.house.season
  design : g.designA = s.house.designA ∧ g.designB = s.house.designB
  deadband : g.deadband = s.house.deadband
  settleBase : g.settleBase = s.house.settleBase
  trimEnable : g.trimEnable = s.house.trimEnable
  flowFloor : g.flowFloor = s.house.flowFloor
  leaseUnit : g.leaseUnit = s.house.leaseUnit
  exerciseMinute : g.exerciseMinute = s.house.exerciseMinute
  roundLimit : g.roundLimit = s.house.roundLimit

/-- The content of an image breaks no range and no law of the records (R56): the ranges of R2, R3, R30 and R46, and the
laws of R14, R31 and R43. -/
structure Image.Sound (g : Image) : Prop where
  loops : ∀ i : LoopIx, g.loops[i] = ⟨.vacant, none, none, 1, 1000, .unmeasured⟩ ∨
    (g.loops[i]).life = .enrolled ∧ (∀ n, (g.loops[i]).length = some n → 5 ≤ n ∧ n ≤ 200) ∧
      1 ≤ (g.loops[i]).covering ∧ (g.loops[i]).covering ≤ 3 ∧ 80 ≤ (g.loops[i]).ceiling ∧ (g.loops[i]).ceiling ≤ 1000
  rooms : ∀ r : RoomIx, 1 ≤ (g.rooms[r]).leaseLength ∧ (g.rooms[r]).leaseLength ≤ 15 ∧ (g.rooms[r]).fallback ≤ 100 ∧
    (allLoops.filter fun i => (g.loops[i]).room = some r).length ≤ 6
  floor : g.floorList.length ≤ 8 ∧ g.floorList.Nodup ∧ ∀ i ∈ g.floorList, (g.loops[i]).life ≠ .vacant
  settings : ∀ p ∈ [(2, g.designA), (3, g.designB), (4, g.deadband), (5, g.settleBase), (7, g.flowFloor),
    (9, g.leaseUnit), (11, g.exerciseMinute), (12, g.roundLimit)], HouseInRange p.1 p.2

/-- The drive state a move's end leaves: HELD from HOLDING (R86, R90). -/
def DriveState.atEnd : DriveState → DriveState
  | .holding => .held
  | d => d

/-- The link but for markers (R182). -/
structure State.LinkKept (s t : State) : Prop where
  window : t.link.window = s.link.window
  cursor : t.link.cursor = s.link.cursor
  lineBreak : t.link.lineBreak = s.link.lineBreak
  sent : t.link.sent = s.link.sent
  slots : ∀ j, (t.slot j).map Slot.unmarked = (s.slot j).map Slot.unmarked
  reports : t.reports = []

end Sys2Proof.Machine
end

