-- ==== Sys2Proof/Certificates/Slice0/Obligations.lean ====
section
/-! DEFINITION. The statements for the provers, from the numbered rules of spec/. A statement about a request speaks of
a station polled in slot `k`, held by `x` (`State.Polled`); it gives the command's outcome, the fields it sets, and what
stays. -/

open Sys2Proof Sys2Proof.Machine

/-! ### The step, reset and supply -/

/-- The oldest waiting command is taken, with the rest of the queue left; while none waits, a second of the dwell passes
(the model's choice, log 5), and a part without supply stands still (log 11). -/
def Obligations.StepTakesTheOldestCommand : Prop :=
  (∀ (c : Instr) (rest : List Instr) (s : State), step { s with pending := c :: rest } = exec c { s with pending := rest }) ∧
    (∀ s : State, s.pending = [] → s.powered = true →
      step s = .next { s with
        drive := { s.drive with dwell := s.drive.dwell.map fun d => { d with remaining := max 1 (d.remaining - 1) } } }) ∧
    (∀ s : State, s.pending = [] → s.powered = false → step s = .next s)

/-- No command stops the part, and none touches the queue of those that wait behind it. -/
def Obligations.EveryCommandCompletes : Prop :=
  ∀ (c : Instr) (s : State), ∃ t, exec c s = .next t ∧ t.pending = s.pending

/-- What reset leaves (R14, R29, R42, R45, R52, R56, R74, R97, R112, R147, R163, R173). That the memory is blank and no
head is fitted is the model's choice of a part (log 9). -/
def Obligations.ResetLeavesThePowerUpState : Prop :=
  (∀ i : LoopIx, State.reset.loop i = Loop.vacant) ∧
    (∀ r : RoomIx, State.reset.room r = ⟨.free, none, 0, 10, 0, 20⟩) ∧
    State.reset.floorList = [] ∧ State.reset.floorShort = false ∧ State.reset.house = House.default ∧
    State.reset.storage = ⟨.blank, .blank, none, false⟩ ∧ State.reset.drive = ⟨none, [], none, .running⟩ ∧
    (∀ c : ChannelIx, State.reset.channel c = ⟨.unknown, none, 0, 0⟩) ∧
    (∀ m : Manifold, State.reset.supplyRefs.get m = none ∧ (State.reset.timer m).remaining = none ∧
      State.reset.campaign m = ⟨.idle, none, 0, .none, none⟩) ∧
    (∀ k : SlotIx, State.reset.slot k = none) ∧ State.reset.pending = []

/-- Power-up with a memory that yields no image: the defaults, with the heads and the pause line as sensed (R29, R42,
R45, R52, R56, R74); the round settings and the last frame of such a part are the model's choice (log 10, log 19). A
loss of supply keeps the nonvolatile memory alone, unsound where a store was cut short (R53, R56); a part without supply
takes nothing until power-up (the model's choice, log 11). -/
def Obligations.WithoutAnImageTheDefaultsStand : Prop :=
  (∀ (heads : Vector Bool 24) (line : Bool) (s : State) (st : ImageStatus),
      s.storage.afterLoss.examine = (st, none) →
        exec (.powerUp heads line) s = .next { State.reset with
          loops := Vector.ofFn fun i : LoopIx => { Loop.vacant with present := heads[i] }
          house := { House.default with pauseLine := line }
          storage := ⟨s.storage.afterLoss, st, none, false⟩
          pending := s.pending }) ∧
  ((∀ s : State, s.powered = true →
      exec .lossOfSupply s = .next { State.reset with
        powered := false
        storage := ⟨if s.storage.running = none then s.storage.memory else .unsound, .blank, none, false⟩
        pending := s.pending }) ∧
      ∀ (c : Instr) (s : State), s.powered = false → (∀ heads line, c ≠ .powerUp heads line) → exec c s = .next s)

/-- Power-up with a VALID image: its content is loaded, every enrolled loop whose head is present is HOMING with its
HOME wanted, the lowest of them is homed first, and the next 16 wait in ascending index (R29, R42, R45, R52, R74, R97).
Both round timers are FROZEN (R147); the settings of the round before the first are the model's choice (log 10), as is
the last frame (log 19). -/
def Obligations.PowerUpLoadsTheImage : Prop :=
  ∀ (heads : Vector Bool 24) (line : Bool) (s : State) (g : Image),
    s.storage.afterLoss = .sound g → g.lawful = true →
      ∃ t, exec (.powerUp heads line) s = .next t ∧ t.powered = true ∧ t.pending = s.pending ∧
        t.storage = ⟨.sound g, .valid, none, false⟩ ∧
        t.house = { House.default with
          season := g.season, designA := g.designA, designB := g.designB, deadband := g.deadband,
          settleBase := g.settleBase, trimEnable := g.trimEnable, flowFloor := g.flowFloor, leaseUnit := g.leaseUnit,
          exerciseMinute := g.exerciseMinute, roundLimit := g.roundLimit, pauseLine := line } ∧
        (∀ r : RoomIx, t.room r = ⟨.free, none, 0, (g.rooms[r]).leaseLength, 0, (g.rooms[r]).fallback⟩) ∧
        t.floorList = g.floorList ∧ t.floorShort = (decide (g.season = .heating) && decide (0 < g.flowFloor)) ∧
        t.channels = State.reset.channels ∧ t.supplyRefs = State.reset.supplyRefs ∧
        t.campaigns = State.reset.campaigns ∧ t.link = State.reset.link ∧
        (∀ m : Manifold, t.timer m = ⟨none, g.settleBase, t.house.design m, g.deadband⟩) ∧
        (∀ i : LoopIx, t.loop i = { Loop.vacant with
          life := if (g.loops[i]).life = .enrolled ∧ heads[i] = true then .homing else (g.loops[i]).life
          room := (g.loops[i]).room
          length := (g.loops[i]).length
          covering := (g.loops[i]).covering
          ceiling := (g.loops[i]).ceiling
          balance := if (g.loops[i]).balance = .excluded then .unmeasured else (g.loops[i]).balance
          present := heads[i]
          want := if (g.loops[i]).life = .enrolled ∧ heads[i] = true then some .home else none }) ∧
        t.drive.dwell = none ∧ t.drive.state = .running ∧
        (∀ i : LoopIx, (t.loop i).life = .homing → (∀ j : LoopIx, j < i → (t.loop j).life ≠ .homing) →
          t.drive.moving = some ⟨i, .home, none, .first, none, false⟩) ∧
        t.drive.queue = (((allLoops.filter fun i => (t.loop i).life = .homing).drop 1).take 16).map
          (fun i => ⟨i, .home, none⟩) ∧
        ((∀ i : LoopIx, (t.loop i).life ≠ .homing) → t.drive.moving = none)

/-! ### The House Link -/

/-- A POLL goes to the next occupied slot of the pass, in ascending number, and after the last one to the open call; none
is sent while a window is open or the line is in break (R174, R178). -/
def Obligations.PollGoesToTheNextOccupiedSlot : Prop :=
  ∀ s : State, s.powered = true → s.ReportLaw →
    (s.link.window = .shut → s.link.lineBreak = .clear →
      (∀ (k : SlotIx) (x : Slot), s.slot k = some x → s.link.cursor ≤ k.val →
        (∀ j : SlotIx, s.link.cursor ≤ j.val → j < k → s.slot j = none) →
        exec .poll s = .next { s with
          link := { s.link with window := .slot k, cursor := k.val + 1, sent := frame x.address .poll [] } }) ∧
      ((∀ j : SlotIx, s.link.cursor ≤ j.val → s.slot j = none) →
        exec .poll s = .next { s with
          link := { s.link with window := .openCall, cursor := 18, sent := frame 63 .poll [] } })) ∧
    (s.link.window ≠ .shut ∨ s.link.lineBreak ≠ .clear → exec .poll s = .next s)

/-- A NONE sets the miss count to 0 and is answered DONE with the pending marker; a corrupt reply and a JOIN are answered
CORRUPT and change nothing else (R175, R182, R185). The command of a reply that the open call discards, taken while a
slot's window is open, is answered CORRUPT too: the model's choice, not R175's (log 7). -/
def Obligations.RepliesThatAreNoRequest : Prop :=
  ∀ (s : State) (k : SlotIx) (x : Slot), s.Polled k x → s.ReportLaw →
    exec .noneReply s = .next { s with
      link := { s.link with
        window := .shut
        roster := s.link.roster.set k (some ⟨x.address, 0, x.watches, none⟩)
        sent := frame x.address .answer (answerPayload .done x.marker []) } } ∧
    ∀ (kind : StationKind) (address : Nat), ∀ c ∈ [Instr.corruptReply, .openCallReplyDiscarded, .join kind address],
      exec c s = .next { s with
        link := { s.link with
          window := .shut, sent := frame x.address .answer (answerPayload .corrupt none []) } }

/-- At the open call a JOIN takes the lowest empty slot of its kind, if no occupied slot holds its address; otherwise it
is ignored. A discarded reply is not answered (R177). -/
def Obligations.JoinTakesTheLowestEmptySlot : Prop :=
  ∀ (s : State) (kind : StationKind) (address : Nat), s.powered = true → s.link.lineBreak = .clear →
    s.link.window = .openCall →
    ((∀ (j : SlotIx) (y : Slot), s.slot j = some y → y.address ≠ address) →
      ∀ k : SlotIx, slotKind k = kind → s.slot k = none → (∀ j : SlotIx, j < k → slotKind j = kind → s.slot j ≠ none) →
        exec (.join kind address) s = .next { s with
          link := { s.link with
            window := .shut
            cursor := 0
            roster := s.link.roster.set k (some ⟨address, 0, [], none⟩)
            sent := frame address .answer (answerPayload .done none [byte k.val]) } }) ∧
    ((∃ (j : SlotIx) (y : Slot), s.slot j = some y ∧ y.address = address) ∨
        (∀ k : SlotIx, slotKind k = kind → s.slot k ≠ none) →
      exec (.join kind address) s = .next { s with link := { s.link with window := .shut, cursor := 0 } }) ∧
    exec .openCallReplyDiscarded s = .next { s with link := { s.link with window := .shut, cursor := 0 } }

/-- A window expiry is a miss of the polled slot; the third consecutive one frees it: its rooms lapse, which the Demand
Unit and the watches of the other stations hear of (R32), and the loss of the service slot releases the drive. At the open
call it is a miss of no one (R176, R40, R94, R177). -/
def Obligations.WindowExpiryIsAMiss : Prop :=
  ∀ s : State, s.powered = true → s.ReportLaw → s.MarkLaw →
    (s.link.window = .openCall →
      exec .windowExpiry s = .next { s with link := { s.link with window := .shut, cursor := 0 } }) ∧
    ∀ (k : SlotIx) (x : Slot), s.link.window = .slot k → s.slot k = some x →
      (x.misses < 2 →
        exec .windowExpiry s = .next { s with
          link := { s.link with
            window := .shut, roster := s.link.roster.set k (some { x with misses := x.misses + 1 }) } }) ∧
      (2 ≤ x.misses →
        ∃ t, exec .windowExpiry s = .next t ∧ t.slot k = none ∧
          (∃ reports : List Report, (∀ j, j ≠ k → t.slot j = (s.slot j).map fun y => y.told reports) ∧
            ∀ r : RoomIx, (s.room r).state = .claimed → (s.room r).claimant = some k →
              ⟨.room, r.val + 1, true⟩ ∈ reports) ∧
          t.link.window = .shut ∧ t.link.cursor = s.link.cursor ∧ t.link.sent = s.link.sent ∧
          (slotKind k ≠ .service → s.TakesLapses (s.mapRooms (Room.lapsedIf fun c => c = some k)) t) ∧
          (slotKind k = .service →
            State.OnlyDrive [] ((s.mapRooms (Room.lapsedIf fun c => c = some k)).putDriveState .running) t))

/-- A link restart, once in a break: every watch, marker and slot is gone, every CLAIMED room is LAPSED, and the next
poll is an open call; the drive state and every other record are kept. The onset and the end of a break change the
line's condition alone (R178, R40, R94). That a restart is taken though no onset was given is the model's choice
(log 18). -/
def Obligations.LinkRestartEmptiesTheRoster : Prop :=
  ∀ s : State, s.powered = true → s.ReportLaw → s.MarkLaw →
    (s.link.lineBreak ≠ .restarted →
      ∃ t, exec .linkRestart s = .next t ∧ (∀ k, t.slot k = none) ∧ t.link.window = .shut ∧
        t.link.lineBreak = .restarted ∧ t.link.cursor = 18 ∧ t.link.sent = s.link.sent ∧
        s.TakesLapses (s.mapRooms (Room.lapsedIf fun _ => true)) t) ∧
    (s.link.lineBreak = .restarted → exec .linkRestart s = .next s) ∧
    exec .breakOnset s = .next { s with
      link := { s.link with lineBreak := if s.link.lineBreak = .clear then .timing else s.link.lineBreak } } ∧
    exec .breakEnd s = .next { s with link := { s.link with lineBreak := .clear } }

/-- The first two checks of a request: an unknown kind is answered UNKNOWN and one the sender's kind may not make DENIED,
and neither changes a record: the answer carries the marker that was pending (R179, R175, R182). -/
def Obligations.UnknownAndDeniedRequestsChangeNothing : Prop :=
  ∀ (s : State) (k : SlotIx) (x : Slot) (p : List Byte) (step : Nat), s.Polled k x →
    (∀ kind : Byte, ∃ t, exec (.unknownRequest kind p) s = .next t ∧ s.OnlyAnswers k x .unknown [] t) ∧
    (slotKind k ≠ .room → ∀ c ∈ [Instr.claim p, .demand p],
      ∃ t, exec c s = .next t ∧ s.OnlyAnswers k x .denied [] t) ∧
    (slotKind k = .source → ∃ t, exec (.release p) s = .next t ∧ s.OnlyAnswers k x .denied [] t) ∧
    (slotKind k = .room → ∃ t, exec (.amendHouse p) s = .next t ∧ s.OnlyAnswers k x .denied [] t) ∧
    (slotKind k ≠ .service →
      ∀ c ∈ [Instr.amendLoop p, .amendRoom p, .amendFloor p, .enrol p, .retire p, .preset p, .campaignStart p,
          .campaignCancel p, .hold p, .stop p step, .resume p, .store p, .restart p],
        ∃ t, exec c s = .next t ∧ s.OnlyAnswers k x .denied [] t) ∧
    (∀ b ∈ [(5 : Byte), 6],
      ∃ t, exec (.amendOfDriveOrRoster (b :: p)) s = .next t ∧ s.OnlyAnswers k x .denied [] t)

/-- A payload that is not of the length its kind requires is answered RANGE, as is a manifold code other than 1, 2 and 3
(R179, R184), and a request that names a room outside 1 to 16 NOSUCH (R30); none of them changes a record, and the
answer carries the marker that was pending. The form of an AMEND of LOOP, ROOM or HOUSE is an index, a count of 1 to 6
and as many pairs, each a known identifier and a two-byte value (11.2). The form of an AMEND of FLOOR is read from 11.2
(log 14). -/
def Obligations.PayloadsAndRoomsOutOfRangeAreRefused : Prop :=
  (∀ (s : State) (k : SlotIx) (x : Slot) (p : List Byte) (step : Nat), s.Polled k x →
      (p.length ≠ 3 → ∃ t, exec (.look p) s = .next t ∧ s.OnlyAnswers k x .range [] t) ∧
      (p.length ≠ 5 → ∀ c ∈ [Instr.watchSet p, .watchClear p],
        ∃ t, exec c s = .next t ∧ s.OnlyAnswers k x .range [] t) ∧
      (p ≠ [] → ∃ t, exec (.describe p) s = .next t ∧ s.OnlyAnswers k x .range [] t) ∧
      (slotKind k = .room →
        (p.length ≠ 1 → ∀ c ∈ [Instr.claim p, .release p],
          ∃ t, exec c s = .next t ∧ s.OnlyAnswers k x .range [] t) ∧
        (p.length ≠ 2 → ∃ t, exec (.demand p) s = .next t ∧ s.OnlyAnswers k x .range [] t)) ∧
      (slotKind k = .service →
        (p.length ≠ 1 → ∀ c ∈ [Instr.release p, .retire p, .preset p, .campaignStart p, .campaignCancel p],
          ∃ t, exec c s = .next t ∧ s.OnlyAnswers k x .range [] t) ∧
        (p.length ≠ 4 → ∃ t, exec (.enrol p) s = .next t ∧ s.OnlyAnswers k x .range [] t) ∧
        (p ≠ [] → ∀ c ∈ [Instr.hold p, .stop p step, .resume p, .store p, .restart p],
          ∃ t, exec c s = .next t ∧ s.OnlyAnswers k x .range [] t) ∧
        (p.length < 5 ∨ 20 < p.length ∨ p.length % 3 ≠ 2 →
          ∀ c ∈ [Instr.amendLoop p, .amendRoom p, .amendHouse p],
            ∃ t, exec c s = .next t ∧ s.OnlyAnswers k x .range [] t) ∧
        (p.length < 4 → ∃ t, exec (.amendFloor p) s = .next t ∧ s.OnlyAnswers k x .range [] t) ∧
        (∀ b : Byte, b.toNat ≠ 1 → b.toNat ≠ 2 → b.toNat ≠ 3 →
          ∀ c ∈ [Instr.preset [b], .campaignStart [b], .campaignCancel [b]],
            ∃ t, exec c s = .next t ∧ s.OnlyAnswers k x .range [] t) ∧
        (amendForm loopFields p = none → ∃ t, exec (.amendLoop p) s = .next t ∧ s.OnlyAnswers k x .range [] t) ∧
        (amendForm roomFields p = none → ∃ t, exec (.amendRoom p) s = .next t ∧ s.OnlyAnswers k x .range [] t)) ∧
      (slotKind k ≠ .room → amendForm (houseAmendable ++ houseReadOnly) p = none →
        ∃ t, exec (.amendHouse p) s = .next t ∧ s.OnlyAnswers k x .range [] t)) ∧
  (∀ (known : List Nat) (index count : Byte) (bytes : List Byte) (n : Nat) (ps : List Pair),
      amendForm known (index :: count :: bytes) = some (n, ps) ↔
        n = index.toNat ∧ count.toNat = ps.length ∧ 1 ≤ ps.length ∧ ps.length ≤ 6 ∧
          (∀ q ∈ ps, q.field ∈ known ∧ q.field < 256 ∧ q.value < 65536) ∧
          bytes = ps.flatMap fun q => [byte q.field, byte (q.value / 256), byte q.value]) ∧
  (∀ (s : State) (k : SlotIx) (x : Slot) (b d : Byte), s.Polled k x → b.toNat = 0 ∨ 16 < b.toNat →
      (slotKind k = .room → ∀ c ∈ [Instr.claim [b], .demand [b, d], .release [b]],
        ∃ t, exec c s = .next t ∧ s.OnlyAnswers k x .nosuch [] t) ∧
      (slotKind k = .service →
        (∃ t, exec (.release [b]) s = .next t ∧ s.OnlyAnswers k x .nosuch [] t) ∧
        ∀ (p : List Byte) (ps : List Pair), amendForm roomFields p = some (b.toNat, ps) →
          ∃ t, exec (.amendRoom p) s = .next t ∧ s.OnlyAnswers k x .nosuch [] t))

/-- A LOOK is answered with whole records from the index on, in index order, as many as were asked for, exist and fit
the 57 bytes left for them; an index the table lacks is answered NOSUCH, a code of no table and a count outside 1 to 4
RANGE. No record changes, and the answer carries the marker that was pending. The tables, their indices and the images of
their records are those of R180 and 11.5 (R180, R185). That the bits of a loop's image that 11.5 names nothing for are 0,
and that the head fields other than the position are shown as they stand during a move, are the model's choices (logs 35
and 36). -/
def Obligations.LookCarriesWholeRecords : Prop :=
  (∀ (s : State) (k : SlotIx) (x : Slot) (t i n : Byte), s.Polled k x →
    t.toNat = 0 ∨ 6 < t.toNat ∨ n.toNat = 0 ∨ 4 < n.toNat →
      ∃ u, exec (.look [t, i, n]) s = .next u ∧ s.OnlyAnswers k x .range [] u) ∧
  (∀ s : State,
    (∀ n, s.recordAt .loop n ≠ none ↔ n ≤ 23) ∧ (∀ n, s.recordAt .room n ≠ none ↔ 1 ≤ n ∧ n ≤ 16) ∧
      (∀ n, s.recordAt .house n ≠ none ↔ n ≤ 2) ∧ (∀ n, s.recordAt .floor n ≠ none ↔ n = 0) ∧
      (∀ n, s.recordAt .drive n ≠ none ↔ n ≤ 16) ∧ (∀ n, s.recordAt .roster n ≠ none ↔ n ≤ 17) ∧
      (∀ (i : LoopIx) b, s.recordAt .loop i.val = some b → s.LoopShown i b) ∧
      (∀ (r : RoomIx) b, (s.roomLoops r).length ≤ 6 → s.recordAt .room (r.val + 1) = some b → s.RoomShown r b) ∧
      (∀ b, s.recordAt .house 0 = some b → s.HouseShown b) ∧
      (∀ b, s.recordAt .house 1 = some b → s.ManifoldShown .a b) ∧
      (∀ b, s.recordAt .house 2 = some b → s.ManifoldShown .b b) ∧
      (∀ b, s.floorList.length ≤ 8 → s.recordAt .floor 0 = some b → s.FloorShown b) ∧
      (∀ n b, s.recordAt .drive n = some b → s.DriveShown n b) ∧
      ∀ (k : SlotIx) b, (∀ x, s.slot k = some x → x.watches.length ≤ 2) → s.recordAt .roster k.val = some b →
        s.RosterShown k b) ∧
  ∀ (s : State) (k : SlotIx) (x : Slot) (t i n : Byte) (table : Table), s.Polled k x →
    (t.toNat, table) ∈ [(1, Table.loop), (2, .room), (3, .house), (4, .floor), (5, .drive), (6, .roster)] →
    1 ≤ n.toNat → n.toNat ≤ 4 →
    ((s.heard k x).recordAt table i.toNat = none →
      ∃ u, exec (.look [t, i, n]) s = .next u ∧ s.OnlyAnswers k x .nosuch [] u) ∧
    ((s.heard k x).recordAt table i.toNat ≠ none →
      ∃ (u : State) (records : List (List Byte)), exec (.look [t, i, n]) s = .next u ∧
        s.OnlyAnswers k x .done ([t, i, byte records.length] ++ records.flatten) u ∧
        (∀ (m : Nat) (h : m < records.length),
          (s.heard k x).recordAt table (i.toNat + m) = some records[m]) ∧
        records.length ≤ n.toNat ∧ records.flatten.length ≤ 57 ∧
        (records.length = n.toNat ∨ (s.heard k x).recordAt table (i.toNat + records.length) = none ∨
          ∃ more, (s.heard k x).recordAt table (i.toNat + records.length) = some more ∧
            57 < records.flatten.length + more.length))

/-- A watch is added at the end of a slot's list unless it is there already or the list holds 2; a clear removes it, or
is answered NOSUCH. No record of the part changes, and the answer carries the marker that was pending. The form admits
what R181 lists and nothing else; the rest is answered RANGE (R179, R181, 11.4). -/
def Obligations.WatchesAreSetAndCleared : Prop :=
  (∀ (s : State) (k : SlotIx) (x : Slot) (p : List Byte) (w : Watch), s.Polled k x → watchForm p = some w →
    (w ∈ x.watches → ∃ t, exec (.watchSet p) s = .next t ∧ s.OnlyAnswers k x .done [] t) ∧
    (w ∉ x.watches → 2 ≤ x.watches.length →
      ∃ t, exec (.watchSet p) s = .next t ∧ s.OnlyAnswers k x .full [] t) ∧
    (w ∉ x.watches → x.watches.length < 2 →
      ∃ t, exec (.watchSet p) s = .next t ∧ s.OnlyAnswers k { x with watches := x.watches ++ [w] } .done [] t) ∧
    (w ∈ x.watches →
      ∃ t, exec (.watchClear p) s = .next t ∧ s.OnlyAnswers k { x with watches := x.watches.erase w } .done [] t) ∧
    (w ∉ x.watches → ∃ t, exec (.watchClear p) s = .next t ∧ s.OnlyAnswers k x .nosuch [] t)) ∧
    (∀ (t base span mirror condition : Byte) (w : Watch), watchForm [t, base, span, mirror, condition] = some w ↔
      (t.toNat, w.table) ∈ [(1, WatchTable.loop), (2, .room), (3, .house)] ∧ base.toNat = w.base ∧ span.toNat = w.span ∧
        (mirror.toNat, w.mirror) ∈ [(0, false), (1, true)] ∧
        (condition.toNat, w.condition) ∈ [(0, Condition.any), (1, .state)] ∧
        (w.span = 1 ∨ w.span = 2 ∨ w.span = 4 ∨ w.span = 8) ∧ w.span ∣ w.base ∧ (w.mirror = true → w.table = .loop) ∧
        ∃ n, w.base ≤ n ∧ n < w.base + w.span ∧
          (match w.table with
            | .loop => n ≤ 23
            | .room => 1 ≤ n ∧ n ≤ 16
            | .house => n ≤ 2)) ∧
    ∀ (s : State) (k : SlotIx) (x : Slot) (p : List Byte), s.Polled k x → watchForm p = none →
      ∀ c ∈ [Instr.watchSet p, .watchClear p], ∃ t, exec c s = .next t ∧ s.OnlyAnswers k x .range [] t

/-- DESCRIBE is answered with the family code, the revision, 12 outlets a manifold, the numbers of loops that are not
VACANT and that are READY, and the image status; no record changes (R183). -/
def Obligations.DescribeCountsTheLoops : Prop :=
  ∀ (s : State) (k : SlotIx) (x : Slot), s.Polled k x →
    ∃ t, exec (.describe []) s = .next t ∧
      s.OnlyAnswers k x .done [0x55, 0x43, 1, 12,
        byte ((allLoops.filter fun i => manifoldOf i = .a ∧ (s.loop i).life ≠ .vacant).length),
        byte ((allLoops.filter fun i => manifoldOf i = .a ∧ (s.loop i).life = .ready).length),
        byte ((allLoops.filter fun i => manifoldOf i = .b ∧ (s.loop i).life ≠ .vacant).length),
        byte ((allLoops.filter fun i => manifoldOf i = .b ∧ (s.loop i).life = .ready).length),
        byte s.storage.status.code] t

/-! ### Rooms, the Floor List and the House Record -/

/-- CLAIM, by the four rows of the table of R33. A changed effective demand reaches the Demand Unit, and the change of the
room is reported, so that it rides as a marker on the answer where the sender watches it (R32, R182). -/
def Obligations.ClaimFollowsItsTable : Prop :=
  ∀ (s : State) (k : SlotIx) (x : Slot) (b : Byte) (r : RoomIx), s.Polled k x → s.MarkLaw → slotKind k = .room →
    b.toNat = r.val + 1 →
    ((s.room r).state = .claimed → (s.room r).claimant = some k →
      ∃ t, exec (.claim [b]) s = .next t ∧
        s.ServesRoom k x r { s.room r with leaseRemaining := (s.room r).leaseLength * s.house.leaseUnit } t) ∧
    ((s.room r).state = .claimed → (s.room r).claimant ≠ some k →
      ∃ t, exec (.claim [b]) s = .next t ∧ s.OnlyAnswers k x .busy [] t) ∧
    ((s.room r).state ≠ .claimed → s.claims k < 2 →
      ∃ t, exec (.claim [b]) s = .next t ∧
        s.ServesRoom k x r { s.room r with
          state := .claimed, claimant := some k, demand := 0,
          leaseRemaining := (s.room r).leaseLength * s.house.leaseUnit } t) ∧
    ((s.room r).state ≠ .claimed → 2 ≤ s.claims k →
      ∃ t, exec (.claim [b]) s = .next t ∧ s.OnlyAnswers k x .full [] t)

/-- DEMAND, with the checks of R34 in order. A demand that is new is handed to the Demand Unit, which recomputes; one that
repeats the value held restarts the lease and does no more (R34, R32). -/
def Obligations.DemandIsTakenFromTheClaimant : Prop :=
  ∀ (s : State) (k : SlotIx) (x : Slot) (b d : Byte) (r : RoomIx), s.Polled k x → s.MarkLaw → slotKind k = .room →
    b.toNat = r.val + 1 →
    (100 < d.toNat → ∃ t, exec (.demand [b, d]) s = .next t ∧ s.OnlyAnswers k x .range [] t) ∧
    (d.toNat ≤ 100 → (s.room r).state = .claimed → (s.room r).claimant ≠ some k →
      ∃ t, exec (.demand [b, d]) s = .next t ∧ s.OnlyAnswers k x .denied [] t) ∧
    (d.toNat ≤ 100 → (s.room r).state ≠ .claimed →
      ∃ t, exec (.demand [b, d]) s = .next t ∧ s.OnlyAnswers k x .stale [] t) ∧
    (d.toNat ≤ 100 → (s.room r).state = .claimed → (s.room r).claimant = some k →
      ∃ t, exec (.demand [b, d]) s = .next t ∧
        s.ServesRoom k x r { s.room r with
          demand := d.toNat, leaseRemaining := (s.room r).leaseLength * s.house.leaseUnit } t ∧
        ((s.room r).demand = d.toNat → s.StartLaw →
          (s.setRoom r { s.room r with
            leaseRemaining := (s.room r).leaseLength * s.house.leaseUnit }).SameRecords t))

/-- A room unit's RELEASE, by the table of R35: the room is FREE, its effective demand the fallback, and the sender has
one claim fewer; the change is handed on as R32 states. -/
def Obligations.ReleaseByTheClaimant : Prop :=
  ∀ (s : State) (k : SlotIx) (x : Slot) (b : Byte) (r : RoomIx), s.Polled k x → s.MarkLaw → slotKind k = .room →
    b.toNat = r.val + 1 →
    ((s.room r).state = .claimed → (s.room r).claimant = some k →
      ∃ t, exec (.release [b]) s = .next t ∧
        s.ServesRoom k x r { s.room r with state := .free, claimant := none, demand := 0, leaseRemaining := 0 } t ∧
        (t.room r).effective = (s.room r).fallback ∧ t.claims k + 1 = s.claims k) ∧
    ((s.room r).state = .claimed → (s.room r).claimant ≠ some k →
      ∃ t, exec (.release [b]) s = .next t ∧ s.OnlyAnswers k x .denied [] t) ∧
    ((s.room r).state ≠ .claimed →
      ∃ t, exec (.release [b]) s = .next t ∧ s.OnlyAnswers k x .stale [] t)

/-- The service station's RELEASE frees the room whoever holds it (R36), and amends of a room set lease length and
fallback, within 1 to 15 and 0 to 100, and keep a running lease (R41); the change is handed on as R32 states. -/
def Obligations.ServiceFreesAndAmendsRooms : Prop :=
  ∀ (s : State) (k : SlotIx) (x : Slot) (b : Byte) (r : RoomIx), s.Polled k x → s.MarkLaw → slotKind k = .service →
    b.toNat = r.val + 1 →
    (∃ t, exec (.release [b]) s = .next t ∧
      s.ServesRoom k x r { s.room r with state := .free, claimant := none, demand := 0, leaseRemaining := 0 } t) ∧
    ∀ (p : List Byte) (ps : List Pair), amendForm roomFields p = some (r.val + 1, ps) →
      ((ps.map Pair.field).Nodup → (∀ q ∈ ps, q.field = 1 ∧ 1 ≤ q.value ∧ q.value ≤ 15 ∨ q.field = 2 ∧ q.value ≤ 100) →
        ∃ t, exec (.amendRoom p) s = .next t ∧
          s.ServesRoom k x r { s.room r with
            leaseLength := (pairValue ps 1).getD (s.room r).leaseLength
            fallback := (pairValue ps 2).getD (s.room r).fallback } t) ∧
      (¬(ps.map Pair.field).Nodup ∨
          (∃ q ∈ ps, q.field = 1 ∧ (q.value = 0 ∨ 15 < q.value) ∨ q.field = 2 ∧ 100 < q.value) →
        ∃ t, exec (.amendRoom p) s = .next t ∧ s.OnlyAnswers k x .range [] t)

/-- AMEND of FLOOR replaces the Floor List whole, where R44 admits the new one, and the Demand Unit recomputes (R44,
R115). A payload that is not an index, one pair count, identifier 1, the list's length and the list is answered RANGE
(11.2; log 14), as is a member outside 0 to 23, and an index other than 0 NOSUCH before the checks of R44 (R179, R184).
That a list of more than 8 entries with such an index is answered NOSUCH is the model's reading (log 14). -/
def Obligations.AmendFloorReplacesTheList : Prop :=
  (∀ (s : State) (k : SlotIx) (x : Slot) (members : List LoopIx), s.Polled k x → s.MarkLaw → slotKind k = .service →
    (members.length ≤ 8 → members.Nodup → (∀ i ∈ members, (s.loop i).life ≠ .vacant) →
      ∃ t, exec (.amendFloor ([0, 1, 1, byte members.length] ++ members.map fun i => byte i.val)) s = .next t ∧
        s.Replies k x .done [] t ∧ (s.setFloorList members).TakesDemand True t) ∧
    (members.length ≤ 60 → (8 < members.length ∨ ¬members.Nodup ∨ ∃ i ∈ members, (s.loop i).life = .vacant) →
      ∃ t, exec (.amendFloor ([0, 1, 1, byte members.length] ++ members.map fun i => byte i.val)) s = .next t ∧
        s.OnlyAnswers k x .range [] t)) ∧
  ∀ (s : State) (k : SlotIx) (x : Slot) (index count field length : Byte) (list : List Byte), s.Polled k x →
    slotKind k = .service → list.length ≤ 60 →
    (count.toNat ≠ 1 ∨ field.toNat ≠ 1 ∨ length.toNat ≠ list.length →
      ∃ t, exec (.amendFloor ([index, count, field, length] ++ list)) s = .next t ∧ s.OnlyAnswers k x .range [] t) ∧
    (index.toNat ≠ 0 → ∃ t, exec (.amendFloor ([index, 1, 1, byte list.length] ++ list)) s = .next t ∧
      s.OnlyAnswers k x .nosuch [] t) ∧
    (index.toNat = 0 → (∃ b ∈ list, 24 ≤ b.toNat) →
      ∃ t, exec (.amendFloor ([index, 1, 1, byte list.length] ++ list)) s = .next t ∧ s.OnlyAnswers k x .range [] t)

/-- AMEND of HOUSE: the checks of R47 in order, with the fields each station kind may amend and their ranges (R46), then
all pairs together. With no consequence for another block, nothing but the House Record changes (R47, R48). A change of
the season or of the flow floor is recomputed (R48, R126), said while the driver is busy; a pause onset or end by the
flag makes a fresh round on both manifolds, which runs where R130's conditions hold, and suspends or resumes the
campaigns (R49, R135, R156, R157); another change of the season or of the trimming enable has the conditions of both
timers checked (R130); an entry into STANDBY abandons the open campaigns (R161). -/
def Obligations.AmendHouseAppliesItsPairsTogether : Prop :=
  ∀ (s : State) (k : SlotIx) (x : Slot) (p : List Byte) (n : Nat) (ps : List Pair), s.Polled k x → s.MarkLaw →
    slotKind k ≠ .room → amendForm (houseAmendable ++ houseReadOnly) p = some (n, ps) →
    (n = 1 ∨ n = 2 → ∃ t, exec (.amendHouse p) s = .next t ∧ s.OnlyAnswers k x .denied [] t) ∧
    (2 < n → ∃ t, exec (.amendHouse p) s = .next t ∧ s.OnlyAnswers k x .nosuch [] t) ∧
    (n = 0 → ¬(ps.map Pair.field).Nodup →
      ∃ t, exec (.amendHouse p) s = .next t ∧ s.OnlyAnswers k x .range [] t) ∧
    (n = 0 → (ps.map Pair.field).Nodup → (∃ q ∈ ps, ¬HouseAmendable (slotKind k) q.field) →
      ∃ t, exec (.amendHouse p) s = .next t ∧ s.OnlyAnswers k x .denied [] t) ∧
    (n = 0 → (ps.map Pair.field).Nodup → (∀ q ∈ ps, HouseAmendable (slotKind k) q.field) →
      ((∃ q ∈ ps, ¬HouseInRange q.field q.value) →
        ∃ t, exec (.amendHouse p) s = .next t ∧ s.OnlyAnswers k x .range [] t) ∧
      ((∀ q ∈ ps, HouseInRange q.field q.value) → ∀ h, h = s.house.amendedBy ps →
        ∃ t, exec (.amendHouse p) s = .next t ∧ s.Replies k x .done [] t ∧ State.OnlyDrive [] (s.setHouse h) t ∧
          (h.season = s.house.season → h.flowFloor = s.house.flowFloor → h.pause = s.house.pause →
            h.trimEnable = s.house.trimEnable → s.StartLaw → (s.setHouse h).SameRecords t) ∧
          (h.season ≠ s.house.season ∨ h.flowFloor ≠ s.house.flowFloor → s.DriverBusy → (s.setHouse h).Commanded t) ∧
          (h.pause ≠ s.house.pause → ∀ m, t.FreshRound m (t.RoundConditions m) ∧
            (s.house.season = .standby ∨ h.season = .heating → s.Examined m t)) ∧
          (h.pause = s.house.pause → h.season ≠ s.house.season ∨ h.trimEnable ≠ s.house.trimEnable →
            ∀ m, s.Timed m t) ∧
          (h.pause = s.house.pause → s.house.season = .standby ∨ h.season = .heating → ∀ m,
            (s.campaign m).state ≠ .opening → t.campaign m = s.campaign m) ∧
          (s.house.season = .heating → h.season = .standby → ∀ m, (s.campaign m).state ≠ .idle →
            t.campaign m = ⟨.idle, none, (s.campaign m).roundsDone, .abandoned, some .season⟩)))

/-- A pause onset and a pause end set every open counter to 0 and make a round start on both manifolds; at an onset both
timers are FROZEN and every campaign in OPENING or ROUNDS is SUSPENDED. A change of the line that leaves pause as it was
changes the line's field alone (R49, R135, R156). At an end a suspended campaign for which no other cause holds resumes:
to ROUNDS, or to OPENING, which passes on to ROUNDS at once where opening has ended (R157, R152). -/
def Obligations.PauseLineStopsMeasurement : Prop :=
  ∀ s : State, s.powered = true → s.ReportLaw → s.StartLaw →
    (s.house.pauseFlag = true ∨ s.house.pauseLine = true →
      ∃ t, exec .pauseLineAssertion s = .next t ∧ (s.setHouse { s.house with pauseLine := true }).SameRecords t ∧
        s.LinkKept t) ∧
    (s.house.pauseFlag = true ∨ s.house.pauseLine = false →
      ∃ t, exec .pauseLineRelease s = .next t ∧ (s.setHouse { s.house with pauseLine := false }).SameRecords t ∧
        s.LinkKept t) ∧
    (s.house.pauseFlag = false → s.house.pauseLine = false →
      ∃ t, exec .pauseLineAssertion s = .next t ∧ s.LinkKept t ∧ t.house = { s.house with pauseLine := true } ∧
        t.drive = s.drive ∧ t.rooms = s.rooms ∧ t.floorList = s.floorList ∧ t.storage = s.storage ∧
        t.channels = s.channels ∧ t.floorShort = s.floorShort ∧ (∀ i, t.loop i = { s.loop i with openCounter := 0 }) ∧
        ∀ m, t.FreshRound m False ∧ s.Examined m t) ∧
    (s.house.pauseFlag = false → s.house.pauseLine = true →
      ∃ t, exec .pauseLineRelease s = .next t ∧ s.LinkKept t ∧ t.house = { s.house with pauseLine := false } ∧
        t.drive = s.drive ∧ t.rooms = s.rooms ∧ t.floorList = s.floorList ∧ t.storage = s.storage ∧
        t.channels = s.channels ∧ t.floorShort = s.floorShort ∧ (∀ i, t.loop i = { s.loop i with openCounter := 0 }) ∧
        ∀ m, t.FreshRound m (t.RoundConditions m) ∧ s.Examined m t)

/-! ### The Loop Table -/

/-- An accepted ENROL sets the loop's fields (R16) with the ceiling of R17, wants the head homed where it is fitted, and
couples the manifold, which starts a fresh round there (R3, R134); the checks before it are those of R15. A loop whose
channel is in FAULT is EXCLUDED where R16 gives UNMEASURED (R142). While the driver is busy, strokes, marks and
floor-short are those of one recompute. -/
def Obligations.EnrolSetsTheLoop : Prop :=
  ∀ (s : State) (k : SlotIx) (x : Slot) (l r n c : Byte), s.Polled k x → s.MarkLaw → slotKind k = .service →
    (24 ≤ l.toNat → ∃ t, exec (.enrol [l, r, n, c]) s = .next t ∧ s.OnlyAnswers k x .nosuch [] t) ∧
    ∀ i : LoopIx, l.toNat = i.val →
      ((s.loop i).life ≠ .vacant →
        ∃ t, exec (.enrol [l, r, n, c]) s = .next t ∧ s.OnlyAnswers k x .busy [] t) ∧
      ((s.loop i).life = .vacant →
        (r.toNat = 0 ∨ (16 < r.toNat ∧ r.toNat ≠ 255) ∨ n.toNat < 5 ∨ (200 < n.toNat ∧ n.toNat ≠ 255) ∨ c.toNat = 0 ∨
            (3 < c.toNat ∧ c.toNat ≠ 255) →
          ∃ t, exec (.enrol [l, r, n, c]) s = .next t ∧ s.OnlyAnswers k x .range [] t) ∧
        (r.toNat ≠ 0 → r.toNat ≤ 16 ∨ r.toNat = 255 → 5 ≤ n.toNat → n.toNat ≤ 200 ∨ n.toNat = 255 → c.toNat ≠ 0 →
            c.toNat ≤ 3 ∨ c.toNat = 255 →
          ((∃ q : RoomIx, r.toNat = q.val + 1 ∧ 6 ≤ (s.roomLoops q).length) →
            ∃ t, exec (.enrol [l, r, n, c]) s = .next t ∧ s.OnlyAnswers k x .full [] t) ∧
          ((∀ q : RoomIx, r.toNat = q.val + 1 → (s.roomLoops q).length < 6) →
            ∃ t, exec (.enrol [l, r, n, c]) s = .next t ∧ s.Replies k x .done [] t ∧ State.OnlyDrive [i] s t ∧
              (r.toNat = 255 → (t.loop i).room = none) ∧
              (∀ q : RoomIx, r.toNat = q.val + 1 → (t.loop i).room = some q) ∧
              (t.loop i).length = (if n.toNat = 255 then none else some n.toNat) ∧
              (t.loop i).covering = (if c.toNat = 255 then 1 else c.toNat) ∧
              (t.loop i).owner = .auto ∧ (t.loop i).override = 0 ∧ (t.loop i).faults = .empty ∧
              (t.loop i).inBand = 0 ∧
              (t.loop i).balance = (if (s.channel (loopChannel i)).state = .fault then .excluded else .unmeasured) ∧
              (t.loop i).present = (s.loop i).present ∧
              (t.loop i).life = (if (s.loop i).present = true then .homing else .enrolled) ∧
              (n.toNat = 255 → (t.loop i).ceiling = 1000) ∧
              (∀ longest, s.IsLongest (manifoldOf i) longest → n.toNat ≠ 255 →
                (t.loop i).ceiling = max 80 (1000 * n.toNat / max longest n.toNat)) ∧
              (∀ j, manifoldOf j = manifoldOf i → (t.loop j).openCounter = 0) ∧
              ((s.campaign (manifoldOf i)).state ≠ .opening ∨ s.DriverBusy →
                t.FreshRound (manifoldOf i) ((s.timer (manifoldOf i)).remaining ≠ none)) ∧
              (s.DriverBusy → t.Commanded t) ∧
              ((s.loop i).present = true → (t.loop i).homed = false ∧ (t.loop i).capacity = none ∧
                (t.loop i).stepPos = none ∧
                (s.DriverBusy → (t.loop i).position = none ∧ (t.loop i).want = some .home)))))

/-- RETIRE, by the table of R18. While the driver is busy the loop's work is left as the table says; otherwise a PARK with
no step to drive may make the loop VACANT at once (R63, R19; log 16). The exit of a READY loop is a coupling event (R9,
R134). -/
def Obligations.RetireFollowsItsTable : Prop :=
  ∀ (s : State) (k : SlotIx) (x : Slot) (b : Byte), s.Polled k x → s.MarkLaw → slotKind k = .service →
    (24 ≤ b.toNat → ∃ t, exec (.retire [b]) s = .next t ∧ s.OnlyAnswers k x .nosuch [] t) ∧
    ∀ i : LoopIx, b.toNat = i.val →
      ((s.loop i).life = .vacant → ∃ t, exec (.retire [b]) s = .next t ∧ s.OnlyAnswers k x .nosuch [] t) ∧
      ((s.loop i).life = .retiring → ∃ t, exec (.retire [b]) s = .next t ∧ s.OnlyAnswers k x .busy [] t) ∧
      ((s.loop i).life ≠ .vacant → (s.loop i).life ≠ .retiring →
          (s.loop i).present = false ∨ (s.loop i).life = .enrolled →
        ∃ t, exec (.retire [b]) s = .next t ∧ s.Replies k x .done [] t ∧ State.OnlyDrive [i] s t ∧
          (t.loop i).life = .vacant ∧ i ∉ t.floorList ∧
          (s.DriverBusy → (∀ e ∈ t.drive.queue, e.loop ≠ i) ∧
            t.loop i = { Loop.vacant with
              present := (s.loop i).present, homed := (s.loop i).homed, capacity := (s.loop i).capacity,
              stepPos := (s.loop i).stepPos, position := (s.loop i).position, idleDays := (s.loop i).idleDays,
              deltaT := (s.loop i).deltaT })) ∧
      ((s.loop i).life = .ready → (s.loop i).present = true →
        ∃ t, exec (.retire [b]) s = .next t ∧ s.Replies k x .deferred [] t ∧ State.OnlyDrive [i] s t ∧
          (((s.loop i).setLife .retiring).Kept (t.loop i) ∨ (t.loop i).life = .vacant) ∧
          (∀ j, manifoldOf j = manifoldOf i → (t.loop j).openCounter = 0) ∧
          ((s.campaign (manifoldOf i)).state ≠ .opening →
            t.FreshRound (manifoldOf i) ((s.timer (manifoldOf i)).remaining ≠ none)) ∧
          (s.DriverBusy → ((s.loop i).setLife .retiring).Kept (t.loop i) ∧ (t.loop i).commanded = 0 ∧
            (t.loop i).floorHeld = false ∧ ((s.loop i).want ≠ some .home → (t.loop i).want = some .park))) ∧
      ((s.loop i).life = .homing → (s.loop i).present = true →
        ∃ t, exec (.retire [b]) s = .next t ∧ s.Replies k x .deferred [] t ∧ State.OnlyDrive [i] s t ∧
          (((s.loop i).setLife .retiring).Kept (t.loop i) ∨ (t.loop i).life = .vacant) ∧
          (s.DriverBusy → (t.loop i).life = .retiring ∧ (t.loop i).want = (s.loop i).want))

/-- AMEND of LOOP: the checks of R21 in order, with the ranges of its fields, then all pairs together with their side
effects (R22 to R25). That a ceiling pair or a change of owner gives EXCLUDED exactly where a cause of R142 holds at
that moment, the owner SERVICE or the channel in FAULT (7.5), is the model's reading of "unless it is EXCLUDED" (log
26). A ceiling pair couples the manifold, which starts a fresh round there (R23, R134); no other pair touches the round.
While the driver is busy, a ceiling pair, a change of owner, override or room and a retry leave the strokes, marks and
floor-short of one recompute (R22 to R25), and other pairs leave them as they were. -/
def Obligations.AmendLoopAppliesItsPairsTogether : Prop :=
  ∀ (s : State) (k : SlotIx) (x : Slot) (p : List Byte) (n : Nat) (ps : List Pair), s.Polled k x → s.MarkLaw →
    slotKind k = .service → amendForm loopFields p = some (n, ps) →
    (24 ≤ n → ∃ t, exec (.amendLoop p) s = .next t ∧ s.OnlyAnswers k x .nosuch [] t) ∧
    ∀ i : LoopIx, n = i.val →
      ((s.loop i).life = .vacant → ∃ t, exec (.amendLoop p) s = .next t ∧ s.OnlyAnswers k x .nosuch [] t) ∧
      ((s.loop i).life = .retiring → ∃ t, exec (.amendLoop p) s = .next t ∧ s.OnlyAnswers k x .busy [] t) ∧
      ((s.loop i).life ≠ .vacant → (s.loop i).life ≠ .retiring →
        (¬(ps.map Pair.field).Nodup ∨ (∃ q ∈ ps, ¬LoopInRange q.field q.value) →
          ∃ t, exec (.amendLoop p) s = .next t ∧ s.OnlyAnswers k x .range [] t) ∧
        ((ps.map Pair.field).Nodup → (∀ q ∈ ps, LoopInRange q.field q.value) → ∀ a, a = loopAsked ps →
          ((∃ q : RoomIx, a.room = some (some q) ∧ (s.loop i).room ≠ some q ∧ 6 ≤ (s.roomLoops q).length) →
            ∃ t, exec (.amendLoop p) s = .next t ∧ s.OnlyAnswers k x .full [] t) ∧
          ((∀ q : RoomIx, a.room = some (some q) → (s.loop i).room ≠ some q → (s.roomLoops q).length < 6) →
            ∃ t, exec (.amendLoop p) s = .next t ∧ s.Replies k x .done [] t ∧ State.OnlyDrive [i] s t ∧
              (t.loop i).room = a.room.getD (s.loop i).room ∧ (t.loop i).length = a.length.getD (s.loop i).length ∧
              (t.loop i).covering = a.covering.getD (s.loop i).covering ∧
              (t.loop i).ceiling = a.ceiling.getD (s.loop i).ceiling ∧
              (t.loop i).owner = a.owner.getD (s.loop i).owner ∧
              (t.loop i).override = a.override.getD (s.loop i).override ∧
              (∀ c, c = a.clear.getD .empty → (t.loop i).faults =
                ⟨(s.loop i).faults.sensor && !c.sensor, (s.loop i).faults.headStall && !c.headStall,
                  (s.loop i).faults.headFail && !c.headFail, (s.loop i).faults.headChanged && !c.headChanged⟩ ∧
                (a.namesHead = true ↔ c.headStall = true ∨ c.headFail = true)) ∧
              (t.loop i).present = (s.loop i).present ∧
              (a.namesHead = true → (s.loop i).life = .enrolled → (s.loop i).present = true →
                (t.loop i).life = .homing ∧ (t.loop i).homed = false ∧ (t.loop i).capacity = none ∧
                  (t.loop i).stepPos = none ∧
                  (s.DriverBusy → (t.loop i).position = none ∧ (t.loop i).want = some .home)) ∧
              (a.namesHead = false ∨ (s.loop i).life ≠ .enrolled ∨ (s.loop i).present = false →
                (t.loop i).life = (s.loop i).life ∧ (t.loop i).homed = (s.loop i).homed ∧
                  (t.loop i).capacity = (s.loop i).capacity ∧ (t.loop i).stepPos = (s.loop i).stepPos) ∧
              (s.DriverBusy → (t.loop i).stallCount = if a.namesHead = true then 0 else (s.loop i).stallCount) ∧
              (a.ceiling ≠ none ∨ a.owner.getD (s.loop i).owner ≠ (s.loop i).owner →
                (t.loop i).inBand = 0 ∧
                  (t.loop i).balance = if a.owner.getD (s.loop i).owner = .service ∨
                    (s.channel (loopChannel i)).state = .fault then .excluded else .unmeasured) ∧
              (a.ceiling = none → a.owner.getD (s.loop i).owner = (s.loop i).owner →
                (t.loop i).inBand = (s.loop i).inBand ∧ (t.loop i).balance = (s.loop i).balance) ∧
              (a.ceiling ≠ none → ∀ j, manifoldOf j = manifoldOf i → (t.loop j).openCounter = 0) ∧
              ((s.campaign (manifoldOf i)).state ≠ .opening ∨ s.DriverBusy →
                (a.ceiling ≠ none → t.FreshRound (manifoldOf i) ((s.timer (manifoldOf i)).remaining ≠ none)) ∧
                (a.ceiling = none → s.SameRound (manifoldOf i) t)) ∧
              (s.DriverBusy → ∀ heard, heard = decide (a.ceiling ≠ none ∨ a.owner.getD (s.loop i).owner ≠ (s.loop i).owner ∨
                  a.override.getD (s.loop i).override ≠ (s.loop i).override ∨
                  a.room.getD (s.loop i).room ≠ (s.loop i).room ∨
                  a.namesHead = true ∧ (s.loop i).life = .enrolled ∧ (s.loop i).present = true) →
                (heard = true → t.Commanded t) ∧
                (heard = false → t.floorShort = s.floorShort ∧ ∀ j,
                  (t.loop j).commanded = (s.loop j).commanded ∧ (t.loop j).floorHeld = (s.loop j).floorHeld)))))

/-- PRESET lays the ceilings of one manifold's occupied loops out by length, voids their judgements and couples the
manifold, which starts a fresh round there (R134); it is refused while a campaign is open or no loop is occupied (R26; log
26 on EXCLUDED). While the driver is busy, strokes, marks and floor-short are those of one recompute. -/
def Obligations.PresetLaysOutTheCeilings : Prop :=
  ∀ (s : State) (k : SlotIx) (x : Slot) (b : Byte), s.Polled k x → s.MarkLaw → slotKind k = .service →
    (b.toNat ≠ 1 → b.toNat ≠ 2 →
      ∃ t, exec (.preset [b]) s = .next t ∧ s.OnlyAnswers k x .range [] t) ∧
    ∀ m : Manifold, b.toNat = (match m with
        | .a => 1
        | .b => 2) →
      ((s.campaign m).state ≠ .idle →
        ∃ t, exec (.preset [b]) s = .next t ∧ s.OnlyAnswers k x .busy [] t) ∧
      ((s.campaign m).state = .idle → (∀ i, manifoldOf i = m → (s.loop i).life = .vacant) →
        ∃ t, exec (.preset [b]) s = .next t ∧ s.OnlyAnswers k x .nosuch [] t) ∧
      ((s.campaign m).state = .idle → (∃ i, manifoldOf i = m ∧ (s.loop i).life ≠ .vacant) →
        ∀ longest, s.IsLongest m longest →
          ∃ t, exec (.preset [b]) s = .next t ∧ s.Replies k x .done [] t ∧
            State.OnlyDrive [] (s.mapLoops fun i l =>
              if manifoldOf i = m ∧ l.life ≠ .vacant then
                { l with
                  ceiling := match l.length with
                    | some n => max 80 (1000 * n / longest)
                    | none => 1000
                  inBand := 0
                  balance := if l.owner = .service ∨ (s.channel (loopChannel i)).state = .fault then .excluded
                    else .unmeasured }
              else l) t ∧
            t.FreshRound m ((s.timer m).remaining ≠ none) ∧ (s.DriverBusy → t.Commanded t))

/-! ### Campaigns -/

/-- CAMPAIGN START: the checks of R150 in order; a started campaign is SUSPENDED where a cause of R156 holds, and
otherwise OPENING or ROUNDS: ROUNDS exactly where no want and no entry names a loop of the manifold (R152). While the
driver is busy, its READY AUTO loops are commanded their ceilings, by one recompute of the whole house (R151, R113), and
the other manifold's record stays. An entry into ROUNDS starts a fresh round, which runs where R130's other conditions
hold (R145, R149, R152); a start that stays in OPENING or is SUSPENDED leaves the manifold's round as it was. -/
def Obligations.CampaignStartOpensTheManifolds : Prop :=
  (∀ (s : State) (k : SlotIx) (x : Slot) (p : List Byte), s.Polled k x → slotKind k = .service →
    (∀ b ∈ [(1 : Byte), 2, 3], p ≠ [b]) →
      ∃ t, exec (.campaignStart p) s = .next t ∧ s.OnlyAnswers k x .range [] t) ∧
  ∀ (s : State) (k : SlotIx) (x : Slot) (b : Byte) (ms : List Manifold), s.Polled k x → s.MarkLaw →
    slotKind k = .service → (b, ms) ∈ [((1 : Byte), [Manifold.a]), (2, [.b]), (3, [.a, .b])] →
    (s.house.season = .standby ∨ (∃ m ∈ ms, (s.campaign m).state ≠ .idle) →
      ∃ t, exec (.campaignStart [b]) s = .next t ∧ s.OnlyAnswers k x .busy [] t) ∧
    (s.house.season = .heating → (∀ m ∈ ms, (s.campaign m).state = .idle) →
      ((∃ m ∈ ms, ∀ i, manifoldOf i = m → (s.loop i).life ≠ .ready) →
        ∃ t, exec (.campaignStart [b]) s = .next t ∧ s.OnlyAnswers k x .nosuch [] t) ∧
      ((∀ m ∈ ms, ∃ i, manifoldOf i = m ∧ (s.loop i).life = .ready) →
        ∃ t, exec (.campaignStart [b]) s = .next t ∧ s.Replies k x .deferred [] t ∧ State.OnlyDrive [] s t ∧
          (∀ m ∈ ms,
            (s.house.pause = true ∨ s.drive.state ≠ .running ∨ (s.channel (supplyChannel m)).state ≠ .ok →
              t.campaign m = ⟨.suspended, some .opening, 0, .none, none⟩) ∧
            (s.house.pause = false → s.drive.state = .running → (s.channel (supplyChannel m)).state = .ok →
              (t.campaign m = ⟨.opening, none, 0, .none, none⟩ ∨ t.campaign m = ⟨.rounds, none, 0, .none, none⟩) ∧
              (t.Still m ↔ t.campaign m = ⟨.rounds, none, 0, .none, none⟩)) ∧
            ((t.campaign m).state = .rounds → t.FreshRound m (t.RoundConditions m)) ∧
            ((t.campaign m).state ≠ .rounds → s.SameRound m t)) ∧
          (s.DriverBusy → t.Commanded t) ∧
          (s.DriverBusy → ∀ i, manifoldOf i ∈ ms → (s.loop i).life = .ready → (s.loop i).owner = .auto →
            (t.loop i).commanded = (s.loop i).ceiling) ∧
          (s.DriverBusy → ∀ m, m ∉ ms → t.campaign m = s.campaign m)))

/-- CAMPAIGN CANCEL, by the table of R160: other stations are refused, each named open campaign is abandoned with reason
CANCELLED and rounds done kept (R161), a named IDLE one keeps its record, and where none is open the answer is NOSUCH. A
departure from ROUNDS has the round timer's conditions checked, so it runs on only if trimming is enabled and the other
conditions hold (R149, R130); an abandonment from OPENING or SUSPENDED leaves the round as it was. The return to IDLE
recomputes (R149, R161), said while the driver is busy. -/
def Obligations.CampaignCancelFollowsItsTable : Prop :=
  ∀ (s : State) (k : SlotIx) (x : Slot) (p : List Byte), s.Polled k x → s.MarkLaw →
    (slotKind k ≠ .service →
      ∃ t, exec (.campaignCancel p) s = .next t ∧ s.OnlyAnswers k x .denied [] t) ∧
    (slotKind k = .service →
      ((∀ b ∈ [(1 : Byte), 2, 3], p ≠ [b]) →
        ∃ t, exec (.campaignCancel p) s = .next t ∧ s.OnlyAnswers k x .range [] t) ∧
      ∀ named ∈ [((1 : Byte), [Manifold.a]), (2, [.b]), (3, [.a, .b])], p = [named.1] →
        ((∀ m ∈ named.2, (s.campaign m).state = .idle) →
          ∃ t, exec (.campaignCancel p) s = .next t ∧ s.OnlyAnswers k x .nosuch [] t) ∧
        ((∃ m ∈ named.2, (s.campaign m).state ≠ .idle) →
          ∃ t, exec (.campaignCancel p) s = .next t ∧ s.Replies k x .done [] t ∧ State.OnlyDrive [] s t ∧
            (s.DriverBusy → t.Commanded t) ∧
            (∀ m ∈ named.2,
              ((s.campaign m).state ≠ .idle →
                t.campaign m = ⟨.idle, none, (s.campaign m).roundsDone, .abandoned, some .cancelled⟩) ∧
              ((s.campaign m).state = .idle → t.campaign m = s.campaign m) ∧
              ((s.campaign m).state = .rounds → s.Checked m t) ∧
              ((s.campaign m).state ≠ .rounds → s.SameRound m t)) ∧
            (s.DriverBusy → ∀ m, m ∉ named.2 → t.campaign m = s.campaign m ∧ s.SameRound m t)))

/-! ### The Drive Queue -/

/-- HOLD, by the table of R90: HOLDING, answered DEFERRED, where a move runs; HELD, answered DONE, where none does. A
drive that leaves RUNNING stops the measurement: the open counters are 0, the round timers FROZEN, and a campaign in
OPENING or ROUNDS SUSPENDED (R130, R133, R156). -/
def Obligations.HoldFollowsItsTable : Prop :=
  ∀ (s : State) (k : SlotIx) (x : Slot), s.Polled k x → slotKind k = .service →
    (s.drive.state = .holding →
      ∃ t, exec (.hold []) s = .next t ∧ s.OnlyAnswers k x .deferred [] t) ∧
    (s.drive.state = .held →
      ∃ t, exec (.hold []) s = .next t ∧ s.OnlyAnswers k x .done [] t) ∧
    (s.drive.state = .running →
      ∃ t, exec (.hold []) s = .next t ∧
        s.Replies k x (if s.drive.moving = none then .done else .deferred) [] t ∧
        t.drive = { s.drive with state := if s.drive.moving = none then .held else .holding } ∧
        t.powered = s.powered ∧ t.rooms = s.rooms ∧ t.floorList = s.floorList ∧ t.floorShort = s.floorShort ∧
        t.house = s.house ∧ t.storage = s.storage ∧ t.channels = s.channels ∧ t.supplyRefs = s.supplyRefs ∧
        t.pending = s.pending ∧ (∀ i, t.loop i = { s.loop i with openCounter := 0 }) ∧
        ∀ m, t.timer m = { s.timer m with remaining := none } ∧
          ((s.campaign m).state = .opening →
            t.campaign m = { s.campaign m with state := .suspended, resume := some .opening }) ∧
          ((s.campaign m).state = .rounds →
            t.campaign m = { s.campaign m with state := .suspended, resume := some .rounds }) ∧
          ((s.campaign m).state = .idle ∨ (s.campaign m).state = .suspended → t.campaign m = s.campaign m))

/-- STOP: LOCKED against a running HOME; with another move it ends that move ABORTED at the step the motor stands at,
an operand of the command (the model's choice, log 6); the drive is HELD and the answer DONE (R91, R71, R86, R88). A
READY homed loop that stands away from its commanded stroke then wants POSITION, one that stands there gets no want (R87),
and a RETIRING loop wants its PARK again (R19). A STOP that makes the drive HELD stops the measurement: the open counters
are 0, the round timers FROZEN, and a campaign in OPENING or ROUNDS is SUSPENDED (R130, R133, R156). -/
def Obligations.StopEndsTheMove : Prop :=
  ∀ (s : State) (k : SlotIx) (x : Slot) (step : Nat), s.Polled k x → slotKind k = .service →
    (∀ m, s.drive.moving = some m → m.kind = .home →
      ∃ t, exec (.stop [] step) s = .next t ∧ s.OnlyAnswers k x .locked [] t) ∧
    (s.drive.moving = none →
      ∃ t, exec (.stop [] step) s = .next t ∧ s.Replies k x .done [] t ∧
        t.drive = { s.drive with state := .held } ∧ State.OnlyDrive [] (s.putDriveState .held) t ∧
        (s.drive.state ≠ .held → s.MeasurementStops t)) ∧
    (∀ m, s.drive.moving = some m → m.kind ≠ .home → (s.loop m.loop).restartMark = false →
      ∀ cap, (s.loop m.loop).capacity = some cap → ∀ start, (s.loop m.loop).stepPos = some start →
      min start (stepOf cap m.aimedAt) ≤ step → step ≤ max start (stepOf cap m.aimedAt) →
      ∃ t, exec (.stop [] step) s = .next t ∧ s.Replies k x .done [] t ∧
        State.OnlyDrive [m.loop] (s.putDriveState .held) t ∧ t.drive.moving = none ∧
        t.drive.dwell = some ⟨m.loop, m.kind, .aborted, some .stop, 2⟩ ∧
        (t.loop m.loop).stepPos = some step ∧ (t.loop m.loop).position = some (step * 1000 / cap) ∧
        (t.loop m.loop).stallCount = min 3 (s.loop m.loop).stallCount ∧ (t.loop m.loop).homed = (s.loop m.loop).homed ∧
        (t.loop m.loop).life = (s.loop m.loop).life ∧ (t.loop m.loop).pendingTarget = none ∧
        (t.loop m.loop).commanded = (s.loop m.loop).commanded ∧
        (t.loop m.loop).want = m.wantAgain (s.loop m.loop) (step * 1000 / cap) ∧
        (t.loop m.loop).idleDays = (if m.driven = true ∨ step ≠ start then 0 else (s.loop m.loop).idleDays) ∧
        (s.drive.state ≠ .held → s.MeasurementStops t))

/-- RESUME: a HELD or HOLDING drive is RUNNING, and the entry at the head starts at once where nothing runs and no dwell
counts; on a RUNNING drive nothing changes (R92, R83). What the entry's start does is said as at MOVE_START: its first
leg is driven, or with no step to drive the move is DONE (R63; in the same command, the model's reading, log 4). The
return to RUNNING releases the round timers that meet every condition again (R130), and a campaign that was SUSPENDED
resumes where no other cause holds (R156, R157). -/
def Obligations.ResumeReleasesTheDrive : Prop :=
  ∀ (s : State) (k : SlotIx) (x : Slot), s.Polled k x → s.MarkLaw → slotKind k = .service →
    (s.drive.state = .running → s.StartLaw →
      ∃ t, exec (.resume []) s = .next t ∧ s.OnlyAnswers k x .done [] t) ∧
    (s.drive.state ≠ .running →
      ∃ t, exec (.resume []) s = .next t ∧ s.Replies k x .done [] t ∧
        State.OnlyDrive [] (s.putDriveState .running) t ∧ (∀ m, s.Timed m t ∧ s.Examined m t) ∧
        (s.drive.moving ≠ none ∨ s.drive.dwell ≠ none ∨ s.drive.queue = [] →
          t.drive = { s.drive with state := .running }) ∧
        (s.drive.moving = none → s.drive.dwell = none → ∀ (e : Entry) (rest : List Entry), s.drive.queue = e :: rest →
          s.EntryStarts e rest t))

/-- MOVE_START: the entry at the head becomes the running move (R83): the want is NONE but for a HOME, the position is
absent, the loop's open counter 0 (R133), and the later entries stand in order. A POSITION or a PARK with no step to
drive is DONE at once, with the want that R87 gives there, and makes a RETIRING loop VACANT at its PARK (R19); an
EXERCISE turns to its second leg at once where its first has no step to drive (R85), and is DONE where neither has (R63;
in the same command, the model's reading, log 4). DWELL_EXPIRY clears the last-end record, and where no move runs and
the drive is RUNNING the entry at the head starts in the same way (R88). That MOVE_START changes nothing where R83 lets
no move start is the model's reading (log 1, log 3); by log 3 every command starts the move it makes possible itself, so
the clause of a move that MOVE_START starts speaks of states that no run reaches. -/
def Obligations.MovesStartWhenTheDriverIsFree : Prop :=
  (∀ (s : State), s.powered = true → s.ReportLaw → s.MarkLaw →
      (s.canStart = false → exec .moveStart s = .next s) ∧
      ∀ (e : Entry) (rest : List Entry), s.canStart = true → s.drive.queue = e :: rest →
        ∃ t, exec .moveStart s = .next t ∧ s.LinkKept t ∧ State.OnlyDrive [] s t ∧ s.EntryStarts e rest t) ∧
  (∀ s : State, s.powered = true → s.MarkLaw →
      ∃ t, exec .dwellExpiry s = .next t ∧ s.LinkKept t ∧ State.OnlyDrive [] s t ∧
        (s.drive.moving ≠ none ∨ s.drive.state ≠ .running ∨ s.drive.queue = [] →
          t.drive = { s.drive with dwell := none } ∧ t.loops = s.loops ∧ t.campaigns = s.campaigns ∧ t.timers = s.timers) ∧
        (s.drive.moving = none → s.drive.state = .running → ∀ (e : Entry) (rest : List Entry),
          s.drive.queue = e :: rest → s.EntryStarts e rest t))

/-- RESTART, in the order of R169: open campaigns are abandoned, the drive RUNNING, every present head of an occupied
loop to be homed, faults and stalls cleared, leases restarted, open counters 0 and a round started on both manifolds;
the loop whose move runs holds the restart mark instead (R28, R74, R147, R170). The order of its parts is the model's
reading (log 15). The mark is taken where that move ends DONE, FAILED or ABORTED by STOP with the head present: the
faults and the stall count are cleared and the head is homed afresh, unless the end makes the loop VACANT, which drops
the mark (R170). -/
def Obligations.RestartRehomesTheHouse : Prop :=
  (∀ (s : State) (m : Move) (n : Nat), s.powered = true → s.drive.moving = some m →
    (s.loop m.loop).restartMark = true → (s.loop m.loop).present = true → (s.loop m.loop).life ≠ .vacant →
    (m.kind ≠ .home → (s.loop m.loop).life ≠ .retiring ∨ m.kind ≠ .park →
      ∀ c ∈ Instr.stall n :: (if m.kind ≠ .exercise ∨ m.leg = .second then [.legReached] else []),
        ∃ t, exec c s = .next t ∧ t.RestartTaken m.loop (s.loop m.loop).life) ∧
    (m.kind = .park → (s.loop m.loop).life = .retiring →
      (∃ t, exec (.stall n) s = .next t ∧ t.RestartTaken m.loop .retiring) ∧
      ∃ t, exec .legReached s = .next t ∧ (t.loop m.loop).life = .vacant ∧ (t.loop m.loop).restartMark = false ∧
        (t.loop m.loop).want = none) ∧
    (m.kind ≠ .home → ∀ (k : SlotIx) (x : Slot), s.Polled k x → slotKind k = .service →
      ∃ t, exec (.stop [] n) s = .next t ∧ t.RestartTaken m.loop (s.loop m.loop).life) ∧
    (m.kind = .home → m.leg = .second → 200 ≤ n → n ≤ 1200 →
      ∃ t, exec (.endStopReached .openEnd n) s = .next t ∧ t.RestartTaken m.loop (s.loop m.loop).life) ∧
    (m.kind = .home →
      ∀ c ∈ Instr.homingTravelLimit :: .stall n :: (if m.leg = .second ∧ n < 200 then [.endStopReached .openEnd n] else []),
        ((s.loop m.loop).life ≠ .retiring →
          ∃ t, exec c s = .next t ∧ t.RestartTaken m.loop (s.loop m.loop).life) ∧
        ((s.loop m.loop).life = .retiring →
          ∃ t, exec c s = .next t ∧ (t.loop m.loop).life = .vacant ∧ (t.loop m.loop).restartMark = false ∧
            (t.loop m.loop).want = none))) ∧
  ∀ (s : State) (k : SlotIx) (x : Slot), s.Polled k x → slotKind k = .service →
    ∃ t, exec (.restart []) s = .next t ∧ s.Replies k x .done [] t ∧ t.powered = s.powered ∧ t.house = s.house ∧
      t.storage = s.storage ∧ t.channels = s.channels ∧ t.pending = s.pending ∧ t.floorList = s.floorList ∧
      t.drive.state = .running ∧
      (∀ m : Manifold,
        t.campaign m = (if (s.campaign m).state = .idle then s.campaign m
          else ⟨.idle, none, (s.campaign m).roundsDone, .abandoned, some .restart⟩) ∧
        t.supplyRefs.get m = (s.channel (supplyChannel m)).reading ∧
        t.timer m = ⟨if s.house.season = .heating ∧ s.house.trimEnable = true ∧ s.house.pause = false ∧
            (s.channel (supplyChannel m)).state = .ok then some s.house.settleBase else none,
          s.house.settleBase, s.house.design m, s.house.deadband⟩) ∧
      (∀ r : RoomIx, t.room r = if (s.room r).state = .claimed then
          { s.room r with leaseRemaining := (s.room r).leaseLength * s.house.leaseUnit } else s.room r) ∧
      ∀ i : LoopIx, (s.loop i).SameConfig (t.loop i) ∧ (t.loop i).openCounter = 0 ∧
        (t.loop i).present = (s.loop i).present ∧ (t.loop i).idleDays = (s.loop i).idleDays ∧
        (t.loop i).balance = (s.loop i).balance ∧ (t.loop i).inBand = (s.loop i).inBand ∧
        ((s.loop i).life ≠ .vacant → s.movingLoop i = true →
          (t.loop i).restartMark = true ∧ (t.loop i).life = (s.loop i).life ∧ (t.loop i).faults = (s.loop i).faults ∧
            (t.loop i).homed = (s.loop i).homed ∧ (t.loop i).stallCount = (s.loop i).stallCount) ∧
        ((s.loop i).life ≠ .vacant → s.movingLoop i = false → (t.loop i).faults = .empty ∧
          (t.loop i).restartMark = false ∧
          ((s.loop i).present = true →
            (t.loop i).stallCount = 0 ∧ (t.loop i).homed = false ∧ (t.loop i).capacity = none ∧
              (t.loop i).stepPos = none ∧ (t.loop i).position = none ∧ (t.loop i).want = some .home ∧
              (t.loop i).life = if (s.loop i).life = .retiring then .retiring else .homing) ∧
          ((s.loop i).present = false → (t.loop i).life = (s.loop i).life)) ∧
        ((s.loop i).life = .vacant → (t.loop i).life = .vacant ∧ (t.loop i).faults = (s.loop i).faults ∧
          (t.loop i).restartMark = (s.loop i).restartMark)

/-- STORE takes a snapshot and is answered DEFERRED, or BUSY while a store runs (R54); its completion sets the image
status by the comparison, and a set store-again mark starts the next store (R55). That a failed comparison leaves the
memory unsound is the model's reading of "the image is left as it stands" (log 12), and so is that a completion with no
store running changes nothing (log 1). What a snapshot holds is R53's; at power-up an image never written is BLANK, one
whose check does not match or that breaks a range or a law BAD, and another one VALID (R56). -/
def Obligations.StoreWritesTheSnapshot : Prop :=
  (∀ s : State, s.snapshot.Holds s) ∧ (∀ g : Image, g.lawful = true ↔ g.Sound) ∧
  (NvMemory.blank.examine = (.blank, none) ∧ NvMemory.unsound.examine = (.bad, none) ∧
    ∀ g : Image, (g.Sound → (NvMemory.sound g).examine = (.valid, some g)) ∧
      (¬g.Sound → (NvMemory.sound g).examine = (.bad, none))) ∧
  (∀ (s : State) (k : SlotIx) (x : Slot), s.Polled k x → slotKind k = .service →
    (s.storage.running ≠ none → ∃ t, exec (.store []) s = .next t ∧ s.OnlyAnswers k x .busy [] t) ∧
    (s.storage.running = none →
      ∃ t, exec (.store []) s = .next t ∧ s.Replies k x .deferred [] t ∧
        (s.setStorage { s.storage with running := some s.snapshot }).SameRecords t)) ∧
    ∀ (s : State) (agrees : Bool), s.powered = true → s.ReportLaw →
      (s.storage.running = none → exec (.storeCompletion agrees) s = .next s) ∧
      ∀ g, s.storage.running = some g →
        ∃ t, exec (.storeCompletion agrees) s = .next t ∧ s.LinkKept t ∧
          (s.setStorage ⟨if agrees = true then .sound g else .unsound, if agrees = true then .valid else .bad,
            if s.storage.again = true then some s.snapshot else none, false⟩).SameRecords t

/-! ### Head Ports -/

/-- An insertion sets the head fields; at an ENROLLED loop it sets HEAD_CHANGED, voids the balance, makes the loop
HOMING and (said while the driver is busy) its want HOME; at a VACANT one it does no more (R59, R10, R8). The voided
status is EXCLUDED where the owner is SERVICE or the channel in FAULT (R142). One that finds the head present does not
arise and changes nothing (log 1). -/
def Obligations.InsertionHomesAnEnrolledLoop : Prop :=
  ∀ (s : State) (i : LoopIx), s.powered = true → s.ReportLaw → s.MarkLaw →
    ((s.loop i).present = true → exec (.insertion i) s = .next s) ∧
    ((s.loop i).present = false → (s.loop i).life = .vacant →
      ∃ t, exec (.insertion i) s = .next t ∧ s.LinkKept t ∧
        (s.setLoop i { s.loop i with
          present := true, homed := false, capacity := none, stepPos := none, position := none, stallCount := 0,
          idleDays := 0 }).SameRecords t) ∧
    ((s.loop i).present = false → (s.loop i).life = .enrolled →
      ∃ t, exec (.insertion i) s = .next t ∧ s.LinkKept t ∧ State.OnlyDrive [i] s t ∧
        (s.loop i).SameConfig (t.loop i) ∧ (t.loop i).life = .homing ∧ (t.loop i).present = true ∧
        (t.loop i).homed = false ∧ (t.loop i).capacity = none ∧ (t.loop i).stepPos = none ∧ (t.loop i).idleDays = 0 ∧
        (t.loop i).faults = { (s.loop i).faults with headChanged := true } ∧ (t.loop i).inBand = 0 ∧
        (t.loop i).balance = (if (s.loop i).owner = .service ∨ (s.channel (loopChannel i)).state = .fault then .excluded
          else .unmeasured) ∧
        (s.DriverBusy → (t.loop i).want = some .home ∧ (t.loop i).position = none ∧ (t.loop i).stallCount = 0))

/-- A removal in the order of R60: a running move of the head ends ABORTED, HEAD_LOST, its dwell begins and a HOLDING
drive is HELD (R86, R88); the head fields are absent; HOMING and READY loops are ENROLLED and a RETIRING one VACANT; a
held restart mark is taken, the fault set emptied (R170); the removal is a coupling event, so the open counters of the
manifold are 0 and a round starts there (R134), on a timer that runs unless the drive became HELD; and, said while the
driver is busy, the loop's entry, want and pending target are gone. One that finds no head does not arise and changes
nothing (log 1). -/
def Obligations.RemovalTakesTheHeadOff : Prop :=
  ∀ (s : State) (i : LoopIx), s.powered = true → s.ReportLaw → s.MarkLaw →
    ((s.loop i).present = false → exec (.removal i) s = .next s) ∧
    ((s.loop i).present = true →
      ∃ t, exec (.removal i) s = .next t ∧ s.LinkKept t ∧ (t.loop i).present = false ∧ (t.loop i).homed = false ∧
        (t.loop i).capacity = none ∧ (t.loop i).stepPos = none ∧ (t.loop i).idleDays = 0 ∧
        (t.loop i).restartMark = false ∧ (∀ j, manifoldOf j = manifoldOf i → (t.loop j).openCounter = 0) ∧
        ((s.campaign (manifoldOf i)).state ≠ .opening →
          t.FreshRound (manifoldOf i)
            ((s.timer (manifoldOf i)).remaining ≠ none ∧ t.drive.state = s.drive.state)) ∧
        ((s.loop i).life = .retiring → (t.loop i).life = .vacant ∧ i ∉ t.floorList) ∧
        ((s.loop i).life = .homing ∨ (s.loop i).life = .ready → (t.loop i).life = .enrolled) ∧
        ((s.loop i).life = .enrolled ∨ (s.loop i).life = .vacant → (t.loop i).life = (s.loop i).life) ∧
        ((s.loop i).life ≠ .retiring → (s.loop i).SameConfig (t.loop i) ∧
          (t.loop i).faults = if (s.loop i).restartMark = true then .empty else (s.loop i).faults) ∧
        (s.DriverBusy → (t.loop i).want = none ∧ (t.loop i).pendingTarget = none ∧ (t.loop i).position = none ∧
          (∀ e ∈ t.drive.queue, e.loop ≠ i)) ∧
        (s.movingLoop i = false → State.OnlyDrive [i] s t) ∧
        ∀ m, s.drive.moving = some m → m.loop = i →
          t.drive.moving = none ∧ State.OnlyDrive [i] (s.putDriveState s.drive.state.atEnd) t ∧
            t.drive.dwell = some ⟨i, m.kind, .aborted, some .headLost, if m.kind = .home then 10 else 2⟩)

/-- The last leg of a POSITION, PARK or EXERCISE reached: the move ends DONE at the stroke the leg aimed at, the stall
count is 0, the dwell of 2 s begins, a HOLDING drive is HELD, and a RETIRING loop's PARK makes it VACANT (R63, R72, R86,
R88, R19). A READY homed loop whose commanded stroke is another then wants POSITION, and one that stands there gets no
want (R87). The first leg of an EXERCISE reached: the second is driven back to the commanded stroke of that moment
(R85). -/
def Obligations.ReachedLegsEndOrTurnTheMove : Prop :=
  (∀ (s : State) (m : Move), s.powered = true → s.drive.moving = some m → m.kind ≠ .home →
      m.kind ≠ .exercise ∨ m.leg = .second → (s.loop m.loop).restartMark = false →
      (m.kind ≠ .park ∨ (s.loop m.loop).life ≠ .retiring →
        ∃ t, exec .legReached s = .next t ∧ s.LinkKept t ∧
          State.OnlyDrive [m.loop] (s.putDriveState s.drive.state.atEnd) t ∧ t.drive.moving = none ∧
          t.drive.dwell = some ⟨m.loop, m.kind, .done, none, 2⟩ ∧
          (t.loop m.loop).stepPos = some (stepOf ((s.loop m.loop).capacity.getD 0) m.aimedAt) ∧
          (t.loop m.loop).position = some m.aimedAt ∧ (t.loop m.loop).stallCount = 0 ∧
          (t.loop m.loop).pendingTarget = none ∧ (s.loop m.loop).SameConfig (t.loop m.loop) ∧
          (t.loop m.loop).life = (s.loop m.loop).life ∧ (t.loop m.loop).homed = (s.loop m.loop).homed ∧
          (t.loop m.loop).faults = (s.loop m.loop).faults ∧
          (t.loop m.loop).commanded = (s.loop m.loop).commanded ∧
          (t.loop m.loop).want = (s.loop m.loop).wantAt m.aimedAt ∧
          (t.loop m.loop).idleDays =
            if m.driven = true ∨ stepOf ((s.loop m.loop).capacity.getD 0) m.aimedAt ≠ (s.loop m.loop).stepPos.getD 0
            then 0 else (s.loop m.loop).idleDays) ∧
      (m.kind = .park → (s.loop m.loop).life = .retiring →
        ∃ t, exec .legReached s = .next t ∧ s.LinkKept t ∧
          State.OnlyDrive [m.loop] (s.putDriveState s.drive.state.atEnd) t ∧ t.drive.moving = none ∧
          t.drive.dwell = some ⟨m.loop, .park, .done, none, 2⟩ ∧ (t.loop m.loop).life = .vacant ∧
          (t.loop m.loop).position = some 0 ∧ (t.loop m.loop).room = none ∧ (t.loop m.loop).ceiling = 1000 ∧
          m.loop ∉ t.floorList)) ∧
  (∀ (s : State) (m : Move) (cap : Nat), s.powered = true → s.drive.moving = some m → m.kind = .exercise →
      m.leg = .first → (s.loop m.loop).capacity = some cap → stepOf cap (s.loop m.loop).commanded ≠ stepOf cap 1000 →
      ∃ t, exec .legReached s = .next t ∧ s.LinkKept t ∧ State.OnlyDrive [m.loop] s t ∧
        (∃ driven, t.drive = { s.drive with
          moving := some { m with
            leg := .second, returnStroke := some (s.loop m.loop).commanded, driven := driven } }) ∧
        t.loop m.loop = { s.loop m.loop with stepPos := some (stepOf cap 1000) })

/-- End-stops: the closed one ends a HOME's closing leg; the open one at a count of 200 to 1200 completes the homing,
with capacity and step position the count and position 1000; a HOMING loop is READY, a RETIRING one wants PARK (R65,
R66, R11, R88). In a leg of a POSITION, PARK or EXERCISE an end-stop on the way ends the leg there, at stroke 0 or 1000
(R63): the last leg ends the move DONE, the first of an EXERCISE is followed by the second (R85), and a RETIRING loop's
PARK makes it VACANT (R19). The entry into READY recomputes and is a coupling event (R9, R13, R134), on a timer that
runs unless the drive became HELD. After each end a READY homed loop whose commanded stroke is not the stroke it stands
at wants POSITION (R87), as does one whose stroke the entry into READY has changed (R66, R84; log 13); another one gets
no want. While the drive is not HOLDING: a campaign in OPENING enters ROUNDS at the end of a HOMING loop's HOME where no
other want and no entry names a loop of its manifold, whatever that loop wants next (R77, R82, R152), and it stays in
OPENING at that of a RETIRING loop, whose PARK is to come (R152; log 17). -/
def Obligations.EndStopsEndTheLeg : Prop :=
  ∀ (s : State) (m : Move) (n : Nat), s.powered = true → s.drive.moving = some m →
    (m.kind = .home → m.leg = .first → n ≤ 1300 →
      ∃ t, exec (.endStopReached .closedEnd n) s = .next t ∧ s.LinkKept t ∧
        (s.setMoving (some { m with leg := .second, driven := m.driven || decide (0 < n) })).SameRecords t) ∧
    (m.kind = .home → m.leg = .second → 200 ≤ n → n ≤ 1200 → (s.loop m.loop).life = .homing →
      (s.loop m.loop).restartMark = false →
      ∃ t, exec (.endStopReached .openEnd n) s = .next t ∧ s.LinkKept t ∧
        State.OnlyDrive [m.loop] (s.putDriveState s.drive.state.atEnd) t ∧ t.drive.moving = none ∧
        t.drive.dwell = some ⟨m.loop, .home, .done, none, 10⟩ ∧ (t.loop m.loop).life = .ready ∧
        (t.loop m.loop).homed = true ∧ (t.loop m.loop).capacity = some n ∧ (t.loop m.loop).stepPos = some n ∧
        (t.loop m.loop).position = some 1000 ∧ (t.loop m.loop).stallCount = 0 ∧ (t.loop m.loop).idleDays = 0 ∧
        (t.loop m.loop).faults = (s.loop m.loop).faults ∧ (s.loop m.loop).SameConfig (t.loop m.loop) ∧
        (t.loop m.loop).want = (if (t.loop m.loop).commanded = 1000 ∧ (s.loop m.loop).commanded = 1000 then none
          else some .position) ∧
        t.Commanded t ∧
        ((s.campaign (manifoldOf m.loop)).state ≠ .opening →
          t.FreshRound (manifoldOf m.loop)
            ((s.timer (manifoldOf m.loop)).remaining ≠ none ∧ t.drive.state = s.drive.state)) ∧
        (s.drive.state ≠ .holding → (s.campaign (manifoldOf m.loop)).state = .opening →
          (∀ j, manifoldOf j = manifoldOf m.loop → j ≠ m.loop → (s.loop j).want = none) →
          (∀ e ∈ s.drive.queue, manifoldOf e.loop ≠ manifoldOf m.loop) →
            t.campaign (manifoldOf m.loop) =
              { s.campaign (manifoldOf m.loop) with state := .rounds, resume := none }) ∧
        ∀ j, manifoldOf j = manifoldOf m.loop → (t.loop j).openCounter = 0) ∧
    (m.kind = .home → m.leg = .second → 200 ≤ n → n ≤ 1200 → (s.loop m.loop).life = .retiring →
      (s.loop m.loop).restartMark = false →
      ∃ t, exec (.endStopReached .openEnd n) s = .next t ∧ s.LinkKept t ∧ t.drive.moving = none ∧
        t.drive.dwell = some ⟨m.loop, .home, .done, none, 10⟩ ∧ (t.loop m.loop).life = .retiring ∧
        (t.loop m.loop).homed = true ∧ (t.loop m.loop).position = some 1000 ∧ (t.loop m.loop).want = some .park ∧
        (s.drive.state ≠ .holding → (s.campaign (manifoldOf m.loop)).state = .opening →
          t.campaign (manifoldOf m.loop) = s.campaign (manifoldOf m.loop))) ∧
    (m.kind ≠ .home → m.kind ≠ .exercise ∨ m.leg = .second → m.kind ≠ .park ∨ (s.loop m.loop).life ≠ .retiring →
      (s.loop m.loop).restartMark = false →
      ∀ stop : EndStop × Nat × Nat, stop ∈ [(.closedEnd, 0, 0), (.openEnd, (s.loop m.loop).capacity.getD 0, 1000)] →
      (stop.1 = .closedEnd →
        stepOf ((s.loop m.loop).capacity.getD 0) m.aimedAt < (s.loop m.loop).stepPos.getD 0) →
      (stop.1 = .openEnd →
        (s.loop m.loop).stepPos.getD 0 < stepOf ((s.loop m.loop).capacity.getD 0) m.aimedAt) →
        ∃ t, exec (.endStopReached stop.1 n) s = .next t ∧ s.LinkKept t ∧ t.drive.moving = none ∧
          State.OnlyDrive [m.loop] (s.putDriveState s.drive.state.atEnd) t ∧
          t.drive.dwell = some ⟨m.loop, m.kind, .done, none, 2⟩ ∧ (t.loop m.loop).stepPos = some stop.2.1 ∧
          (t.loop m.loop).position = some stop.2.2 ∧ (t.loop m.loop).stallCount = 0 ∧
          (t.loop m.loop).pendingTarget = none ∧ (s.loop m.loop).SameConfig (t.loop m.loop) ∧
          (t.loop m.loop).life = (s.loop m.loop).life ∧ (t.loop m.loop).homed = (s.loop m.loop).homed ∧
          (t.loop m.loop).faults = (s.loop m.loop).faults ∧
          (t.loop m.loop).commanded = (s.loop m.loop).commanded ∧
          (t.loop m.loop).want = (s.loop m.loop).wantAt stop.2.2 ∧
          (t.loop m.loop).idleDays = if m.driven = true ∨ 0 < n then 0 else (s.loop m.loop).idleDays) ∧
    (m.kind = .park → (s.loop m.loop).life = .retiring → (s.loop m.loop).restartMark = false →
      0 < (s.loop m.loop).stepPos.getD 0 →
        ∃ t, exec (.endStopReached .closedEnd n) s = .next t ∧ s.LinkKept t ∧ t.drive.moving = none ∧
          State.OnlyDrive [m.loop] (s.putDriveState s.drive.state.atEnd) t ∧
          t.drive.dwell = some ⟨m.loop, .park, .done, none, 2⟩ ∧ (t.loop m.loop).life = .vacant ∧
          (t.loop m.loop).stepPos = some 0 ∧ (t.loop m.loop).position = some 0 ∧ (t.loop m.loop).room = none ∧
          m.loop ∉ t.floorList) ∧
    (m.kind = .exercise → m.leg = .first → ∀ cap, (s.loop m.loop).capacity = some cap →
      (s.loop m.loop).stepPos.getD 0 < cap → stepOf cap (s.loop m.loop).commanded ≠ cap →
        ∃ t, exec (.endStopReached .openEnd n) s = .next t ∧ s.LinkKept t ∧
          t.drive = { s.drive with
            moving := some { m with
              leg := .second, returnStroke := some (s.loop m.loop).commanded, driven := m.driven || decide (0 < n) } } ∧
          State.OnlyDrive [m.loop] s t ∧ t.loop m.loop = { s.loop m.loop with stepPos := some cap })

/-- A homing that fails, on the travel limit, on a stall or at the open end-stop with a count below 200: the head stays
not homed, a HOMING loop is ENROLLED with HEAD_FAIL set, a RETIRING one VACANT, and the dwell of 10 s begins (R65, R66,
R67, R11, R86). -/
def Obligations.FailedHomingLeavesTheLoopEnrolled : Prop :=
  ∀ (s : State) (m : Move) (n : Nat), s.powered = true → s.drive.moving = some m → m.kind = .home →
    (s.loop m.loop).restartMark = false →
    ∀ c ∈ [(Instr.homingTravelLimit, EndReason.travel), (.stall n, .stall)] ++
        (if m.leg = .second ∧ n < 200 then [(.endStopReached .openEnd n, .travel)] else []),
      ((s.loop m.loop).life = .homing →
        ∃ t, exec c.1 s = .next t ∧ s.LinkKept t ∧
          State.OnlyDrive [m.loop] (s.putDriveState s.drive.state.atEnd) t ∧ t.drive.moving = none ∧
          t.drive.dwell = some ⟨m.loop, .home, .failed, some c.2, 10⟩ ∧ (t.loop m.loop).life = .enrolled ∧
          (t.loop m.loop).faults = { (s.loop m.loop).faults with headFail := true } ∧ (t.loop m.loop).homed = false ∧
          (t.loop m.loop).capacity = none ∧ (t.loop m.loop).stepPos = none ∧ (t.loop m.loop).position = none ∧
          (t.loop m.loop).stallCount = (s.loop m.loop).stallCount ∧ (t.loop m.loop).want = none ∧
          (s.loop m.loop).SameConfig (t.loop m.loop)) ∧
      ((s.loop m.loop).life = .retiring →
        ∃ t, exec c.1 s = .next t ∧ s.LinkKept t ∧ t.drive.moving = none ∧
          State.OnlyDrive [m.loop] (s.putDriveState s.drive.state.atEnd) t ∧
          t.drive.dwell = some ⟨m.loop, .home, .failed, some c.2, 10⟩ ∧ (t.loop m.loop).life = .vacant ∧
          (t.loop m.loop).homed = false ∧ m.loop ∉ t.floorList)

/-- A stall in a POSITION, PARK or EXERCISE ends the move FAILED at the step reported (R69); the third one un-homes the
head, sets HEAD_STALL and the want HOME, and takes a READY loop to HOMING, which recomputes and is a coupling event
(R70, R12, R13, R134), on a timer that runs unless the drive became HELD; a RETIRING loop stays RETIRING (R12). Below
the limit a READY homed loop that stands away from its commanded stroke wants POSITION, one that stands there gets no
want (R87), and a RETIRING loop wants its PARK again (R19). The step is an operand of the command (the model's choice,
log 6). -/
def Obligations.StallsAreCountedToTheLimit : Prop :=
  ∀ (s : State) (m : Move) (step cap start : Nat), s.powered = true → s.drive.moving = some m → m.kind ≠ .home →
    (s.loop m.loop).restartMark = false → (s.loop m.loop).capacity = some cap →
    (s.loop m.loop).stepPos = some start → min start (stepOf cap m.aimedAt) ≤ step →
    step ≤ max start (stepOf cap m.aimedAt) →
    ((s.loop m.loop).stallCount < 2 →
      ∃ t, exec (.stall step) s = .next t ∧ s.LinkKept t ∧
        State.OnlyDrive [m.loop] (s.putDriveState s.drive.state.atEnd) t ∧ t.drive.moving = none ∧
        t.drive.dwell = some ⟨m.loop, m.kind, .failed, some .stall, 2⟩ ∧ (t.loop m.loop).stepPos = some step ∧
        (t.loop m.loop).position = some (step * 1000 / cap) ∧
        (t.loop m.loop).stallCount = (s.loop m.loop).stallCount + 1 ∧
        (t.loop m.loop).homed = (s.loop m.loop).homed ∧ (t.loop m.loop).life = (s.loop m.loop).life ∧
        (t.loop m.loop).faults = (s.loop m.loop).faults ∧ (s.loop m.loop).SameConfig (t.loop m.loop) ∧
        (t.loop m.loop).pendingTarget = none ∧ (t.loop m.loop).commanded = (s.loop m.loop).commanded ∧
        (t.loop m.loop).want = m.wantAgain (s.loop m.loop) (step * 1000 / cap) ∧
        (t.loop m.loop).idleDays = if m.driven = true ∨ step ≠ start then 0 else (s.loop m.loop).idleDays) ∧
    (2 ≤ (s.loop m.loop).stallCount → (s.loop m.loop).life = .ready →
      ∃ t, exec (.stall step) s = .next t ∧ s.LinkKept t ∧
        State.OnlyDrive [m.loop] (s.putDriveState s.drive.state.atEnd) t ∧ t.drive.moving = none ∧
        t.drive.dwell = some ⟨m.loop, m.kind, .failed, some .stall, 2⟩ ∧ (t.loop m.loop).life = .homing ∧
        (t.loop m.loop).faults = { (s.loop m.loop).faults with headStall := true } ∧
        (t.loop m.loop).homed = false ∧ (t.loop m.loop).capacity = none ∧ (t.loop m.loop).stepPos = none ∧
        (t.loop m.loop).position = none ∧ (t.loop m.loop).stallCount = 3 ∧ (t.loop m.loop).want = some .home ∧
        (s.loop m.loop).SameConfig (t.loop m.loop) ∧ t.Commanded t ∧
        ((s.campaign (manifoldOf m.loop)).state ≠ .opening →
          t.FreshRound (manifoldOf m.loop)
            ((s.timer (manifoldOf m.loop)).remaining ≠ none ∧ t.drive.state = s.drive.state)) ∧
        ∀ j, manifoldOf j = manifoldOf m.loop → (t.loop j).openCounter = 0) ∧
    (2 ≤ (s.loop m.loop).stallCount → (s.loop m.loop).life = .retiring →
      ∃ t, exec (.stall step) s = .next t ∧ s.LinkKept t ∧
        State.OnlyDrive [m.loop] (s.putDriveState s.drive.state.atEnd) t ∧ t.drive.moving = none ∧
        t.drive.dwell = some ⟨m.loop, m.kind, .failed, some .stall, 2⟩ ∧ (t.loop m.loop).life = .retiring ∧
        (t.loop m.loop).faults = { (s.loop m.loop).faults with headStall := true } ∧
        (t.loop m.loop).homed = false ∧ (t.loop m.loop).capacity = none ∧ (t.loop m.loop).stepPos = none ∧
        (t.loop m.loop).position = none ∧ (t.loop m.loop).stallCount = 3 ∧ (t.loop m.loop).want = some .home ∧
        (s.loop m.loop).SameConfig (t.loop m.loop))

/-! ### Clocks and sensors -/

/-- A channel's filtered value and sensor state after one sample: the filter of R102 and every row of R103. -/
def Obligations.SamplesDriveTheChannel : Prop :=
  (∀ old n : Int, filter (some old) n = (3 * old + n + 2).fdiv 4 ∧ filter none n = n) ∧
    (∀ n : Int, -100 ≤ n → n ≤ 950 → validSample (some n) = some n) ∧
    (∀ n : Int, n < -100 ∨ 950 < n → validSample (some n) = none) ∧ validSample none = none ∧
    ∀ (c : Channel) (x : Option Int),
      (∀ n, validSample x = some n →
        (c.state = .unknown → c.sample x = { c with state := .ok, filtered := some n, invalidRun := 0 }) ∧
        (c.state = .ok → c.sample x = { c with filtered := some (filter c.filtered n), invalidRun := 0 }) ∧
        (c.state = .fault → c.validRun = 0 → c.sample x = { c with filtered := some n, validRun := 1 }) ∧
        (c.state = .fault → c.validRun = 1 →
          c.sample x = { c with filtered := some (filter c.filtered n), validRun := 2 }) ∧
        (c.state = .fault → c.validRun = 2 →
          c.sample x = { c with state := .ok, filtered := some (filter c.filtered n), validRun := 0 })) ∧
      (validSample x = none →
        (c.state = .unknown → c.invalidRun < 2 → c.sample x = { c with invalidRun := c.invalidRun + 1 }) ∧
        (c.state = .unknown → c.invalidRun = 2 → c.sample x = { c with state := .fault, invalidRun := 0 }) ∧
        (c.state = .ok → c.invalidRun < 2 → c.sample x = { c with invalidRun := c.invalidRun + 1 }) ∧
        (c.state = .ok → c.invalidRun = 2 →
          c.sample x = { c with state := .fault, filtered := none, invalidRun := 0 }) ∧
        (c.state = .fault → c.sample x = { c with validRun := 0 }))

/-- A scan completion samples every channel and sets every ΔT (R100, R104); a loop channel entering FAULT sets SENSOR
and gives EXCLUDED on an occupied loop, and its recovery gives UNMEASURED (R6, R109, R141, R142); the supply reference
follows the supply's state changes and drifts (R105, R106), and a drift couples its manifold, which starts a fresh round
there (R134). At a supply channel's change of state the manifold's round timer is checked, so an entry into FAULT
freezes it and a first reading or a recovery releases it where the other conditions hold (R107, R130), and the
manifold's campaign is suspended or resumed (R156, R157). -/
def Obligations.ScanCompletionReadsEveryChannel : Prop :=
  ∀ (s : State) (samples : Vector (Option Int) 28), s.powered = true → s.StartLaw →
    ∃ t, exec (.scanCompletion samples) s = .next t ∧ s.LinkKept t ∧ t.powered = s.powered ∧ t.rooms = s.rooms ∧
      t.floorList = s.floorList ∧ t.floorShort = s.floorShort ∧ t.house = s.house ∧ t.storage = s.storage ∧
      t.drive = s.drive ∧ t.pending = s.pending ∧
      (∀ c : ChannelIx, t.channel c = (s.channel c).sample samples[c]) ∧
      (∀ i : LoopIx,
        { t.loop i with
          deltaT := (s.loop i).deltaT, faults := (s.loop i).faults, inBand := (s.loop i).inBand,
          balance := (s.loop i).balance, openCounter := (s.loop i).openCounter } = s.loop i ∧
        (∀ supply, (t.channel (supplyChannel (manifoldOf i))).reading = some supply →
          ∀ back, (t.channel (loopChannel i)).reading = some back → (t.loop i).deltaT = some (supply - back)) ∧
        ((t.channel (supplyChannel (manifoldOf i))).reading = none ∨ (t.channel (loopChannel i)).reading = none →
          (t.loop i).deltaT = none) ∧
        ((s.loop i).life ≠ .vacant → (s.channel (loopChannel i)).state ≠ .fault →
          (t.channel (loopChannel i)).state = .fault →
            (t.loop i).faults = { (s.loop i).faults with sensor := true } ∧ (t.loop i).balance = .excluded ∧
              (t.loop i).inBand = 0) ∧
        ((s.loop i).life ≠ .vacant → (s.channel (loopChannel i)).state = .fault →
          (t.channel (loopChannel i)).state = .ok →
            (t.loop i).faults = (s.loop i).faults ∧ (t.loop i).inBand = 0 ∧
              (t.loop i).balance = if (s.loop i).owner = .service then .excluded else .unmeasured) ∧
        ((s.loop i).life = .vacant ∨
            ((s.channel (loopChannel i)).state ≠ .fault ∧ (t.channel (loopChannel i)).state ≠ .fault) ∨
            ((s.channel (loopChannel i)).state = .fault ∧ (t.channel (loopChannel i)).state = .fault) →
          (t.loop i).faults = (s.loop i).faults ∧ (t.loop i).balance = (s.loop i).balance ∧
            (t.loop i).inBand = (s.loop i).inBand)) ∧
      ∀ m : Manifold,
        ((s.channel (supplyChannel m)).state ≠ (t.channel (supplyChannel m)).state →
          t.supplyRefs.get m = (t.channel (supplyChannel m)).reading ∧ s.Examined m t ∧
            s.Timed m t ∧
            ((s.campaign m).state = .rounds ∨ (t.campaign m).state ≠ .rounds → ¬t.RoundConditions m →
              ∀ i, manifoldOf i = m → (t.loop i).openCounter = (s.loop i).openCounter)) ∧
        ((s.channel (supplyChannel m)).state = (t.channel (supplyChannel m)).state →
          (∀ r, s.supplyRefs.get m = some r → ∀ n, (t.channel (supplyChannel m)).reading = some n →
            15 < (n - r).natAbs →
              t.supplyRefs.get m = some n ∧ t.campaign m = s.campaign m ∧
                t.FreshRound m ((s.timer m).remaining ≠ none)) ∧
          ((∀ r, s.supplyRefs.get m = some r → ∀ n, (t.channel (supplyChannel m)).reading = some n →
              (n - r).natAbs ≤ 15) →
            t.supplyRefs.get m = s.supplyRefs.get m ∧ t.timer m = s.timer m ∧ t.campaign m = s.campaign m ∧
              ∀ i, manifoldOf i = m → (t.loop i).openCounter = (s.loop i).openCounter))

/-- A minute tick: in HEATING the leases of CLAIMED rooms count down; the open counters whose conditions hold count up to
255, but for the loop of an EXERCISE whose dwell counts (R167; log 29 on other dwells); the running round timers count
down; a set house time advances, and hands on midnight and the exercise minute (R37, R51, R132, R133). Nothing else
changes. What a tick hands on stands in State until its own command takes it (log 2). -/
def Obligations.MinuteTickCounts : Prop :=
  ∀ s : State, s.powered = true →
    ∃ t, exec .minuteTick s = .next t ∧ s.LinkKept t ∧ t.powered = s.powered ∧ t.floorList = s.floorList ∧
      t.floorShort = s.floorShort ∧ t.storage = s.storage ∧ t.drive = s.drive ∧ t.channels = s.channels ∧
      t.supplyRefs = s.supplyRefs ∧ t.campaigns = s.campaigns ∧ t.pending = s.pending ∧
      (∀ r, t.room r = if s.house.season = .heating ∧ (s.room r).state = .claimed then
          { s.room r with leaseRemaining := (s.room r).leaseRemaining - 1 } else s.room r) ∧
      (∀ i, t.loop i = if (s.loop i).life = .ready ∧ (s.loop i).owner = .auto ∧
            (s.loop i).position = some (s.loop i).ceiling ∧ (s.loop i).want = none ∧
            (∀ e ∈ s.drive.queue, e.loop ≠ i) ∧ (∀ m, s.drive.moving = some m → m.loop ≠ i) ∧
            (∀ d, s.drive.dwell = some d → d.kind = .exercise → d.loop ≠ i) ∧ s.house.pause = false ∧
            s.drive.state = .running then
          { s.loop i with openCounter := min 255 ((s.loop i).openCounter + 1) } else s.loop i) ∧
      (∀ m, t.timer m = { s.timer m with remaining := (s.timer m).remaining.map fun n => n - 1 }) ∧
      (s.house.timeSet = false → t.house = s.house) ∧
      (s.house.timeSet = true →
        t.house = { s.house with
          houseTime := (s.house.houseTime + 1) % 10080
          midnightDue := s.house.midnightDue || decide ((s.house.houseTime + 1) % 10080 % 1440 = 0)
          exerciseDue := s.house.exerciseDue ||
            decide ((s.house.houseTime + 1) % 10080 = s.house.exerciseMinute) })

/-- A lease expiry makes the room LAPSED (R38); the Demand Unit hears of a changed effective demand, and the change of the
room is told to the watches (R32, R182). A room whose lease still counts is left alone (log 2). -/
def Obligations.LeaseExpiryLapsesTheRoom : Prop :=
  ∀ (s : State) (r : RoomIx), s.powered = true → s.ReportLaw → s.MarkLaw →
    ((s.room r).state = .claimed → (s.room r).leaseRemaining = 0 →
      ∃ t reports, exec (.leaseExpiry r) s = .next t ∧ s.LinkKept t ∧ s.Told t reports ∧
        s.RoomReports r { s.room r with state := .lapsed, claimant := none, demand := 0, leaseRemaining := 0 } reports ∧
        s.TakesRoom r { s.room r with state := .lapsed, claimant := none, demand := 0, leaseRemaining := 0 } t) ∧
    ((s.room r).state ≠ .claimed ∨ (s.room r).leaseRemaining ≠ 0 → exec (.leaseExpiry r) s = .next s)

/-- A midnight that a tick has handed on counts the idle days of every present head, up to 255 (R72). The exercise
minute, after a midnight of the same tick: every READY AUTO loop commanded 0 whose head has stood 7 days gets an
EXERCISE want, combined by R80, and no other loop's want changes (R166); but a want whose move starts at once is NONE by
then (R83, R77; said where the driver is busy or no move was waiting to start). With the driver free and no want left
over, that is the lowest of them, while the next 16 wait in ascending index (R78, R79). That an event not due changes
nothing, and that the exercise minute waits for a due midnight, is the model's reading (log 2, log 20). -/
def Obligations.MidnightAndTheExerciseMinute : Prop :=
  (∀ s : State, s.powered = true → s.ReportLaw →
      (s.house.midnightDue = false → exec .midnight s = .next s) ∧
      (s.house.midnightDue = true →
        ∃ t, exec .midnight s = .next t ∧ s.LinkKept t ∧
          ((s.setHouse { s.house with midnightDue := false }).mapLoops fun _ l =>
            { l with idleDays := if l.present = true then min 255 (l.idleDays + 1) else l.idleDays }).SameRecords t)) ∧
  (∀ s : State, s.powered = true → s.ReportLaw → s.MarkLaw →
      (s.house.exerciseDue = false ∨ s.house.midnightDue = true → exec .exerciseMinute s = .next s) ∧
      (s.house.exerciseDue = true → s.house.midnightDue = false →
        ∃ t, exec .exerciseMinute s = .next t ∧ s.LinkKept t ∧
          (s.setHouse { s.house with exerciseDue := false }).FollowsDemand t ∧
          (∀ i : LoopIx,
            s.DriverBusy ∨ s.StartLaw ∧ (∀ m, t.drive.moving = some m → m.loop ≠ i) ∧
              (∀ d, t.drive.dwell = some d → d.loop ≠ i) →
            ((s.loop i).ExerciseDue → (t.loop i).want = some (supersede (s.loop i).want .exercise)) ∧
            (¬(s.loop i).ExerciseDue → (t.loop i).want = (s.loop i).want)) ∧
          (s.drive.moving = none → s.drive.dwell = none → s.drive.state = .running → s.drive.queue = [] →
            (∀ j, (s.loop j).want = none) → ∀ (i : LoopIx) (others : List LoopIx),
            (allLoops.filter fun j => (s.loop j).life = .ready ∧ (s.loop j).owner = .auto ∧ (s.loop j).commanded = 0 ∧
              7 ≤ (s.loop j).idleDays) = i :: others →
            stepOf ((s.loop i).capacity.getD 0) 1000 ≠ (s.loop i).stepPos.getD 0 →
              t.drive = ⟨some ⟨i, .exercise, none, .first, none, false⟩,
                (others.take 16).map (fun j => ⟨j, .exercise, none⟩), none, .running⟩ ∧
              (t.loop i).want = none)))

/-- The evaluation of a loop: in band within the deadband, with TRIMMING until the third judgement in a row; adjusted by
the step of R138, within 80 to 1000, where it is not; LIMITED_HIGH or LIMITED_LOW at the limit (R137, R138). That in band the
count alone gives the status, TRIMMING or BALANCED, also to a loop loaded BALANCED with count 0, is the model's choice beside
R139 (log 37). -/
def Obligations.EvaluationJudgesTheError : Prop :=
  ∀ (ceiling inBand design deadband : Nat) (dt : Int),
    ((dt - design).natAbs ≤ deadband →
      judge ceiling inBand dt design deadband =
        ⟨min 3 (inBand + 1), if 2 ≤ inBand then .balanced else .trimming, none⟩) ∧
    ((deadband : Int) < dt - design →
      judge ceiling inBand dt design deadband = if ceiling < 1000 then
        ⟨0, .trimming, some (min 1000 (ceiling + trimStep (dt - design).natAbs deadband))⟩ else ⟨0, .limitedHigh, none⟩) ∧
    (dt - design < -(deadband : Int) →
      judge ceiling inBand dt design deadband = if 80 < ceiling then
        ⟨0, .trimming, some (max 80 (ceiling - trimStep (dt - design).natAbs deadband))⟩ else ⟨0, .limitedLow, none⟩) ∧
    ∀ excess : Nat, 0 < excess →
      trimStep (deadband + excess) deadband =
        if excess ≤ 5 then 10 else if excess ≤ 10 then 20 else if excess ≤ 15 then 30 else if excess ≤ 20 then 40 else 50

/-- A round expiry judges the loops that R136 admits, sets their in-band counts and statuses, takes their claims, clears
HEAD_CHANGED where the loop is settled (R8), and leaves the other loops' judgements; with no campaign open on the
manifold it starts the next round with the settings of the House Record (R140, R136, R27, R131). Claims that are taken
are one coupling event: every open counter of the manifold is 0 (R134), and the Demand Unit has recomputed the strokes
(said while the driver is busy). Where none is taken the open counters run on (R140), unless the expiry ends a campaign,
said where no move was waiting to start. An expiry is taken where a timer's remaining minutes are 0, and else changes
nothing (the model's reading, log 2). -/
def Obligations.RoundExpiryJudgesTheManifold : Prop :=
  ∀ (s : State) (m : Manifold), s.powered = true → s.ReportLaw → s.MarkLaw →
    ((s.timer m).remaining ≠ some 0 → exec (.roundExpiry m) s = .next s) ∧
    ((s.timer m).remaining = some 0 →
      ∃ t, exec (.roundExpiry m) s = .next t ∧ s.LinkKept t ∧ t.rooms = s.rooms ∧ t.house = s.house ∧
        t.channels = s.channels ∧ t.drive.state = s.drive.state ∧ t.pending = s.pending ∧
        (∀ i, manifoldOf i = m → (s.loop i).life = .ready → (s.loop i).owner = .auto →
          (s.channel (loopChannel i)).state = .ok → ∀ dt, (s.loop i).deltaT = some dt →
          (s.timer m).settleBase * (s.loop i).covering ≤ (s.loop i).openCounter →
            (t.loop i).inBand = (judge (s.loop i).ceiling (s.loop i).inBand dt (s.timer m).design (s.timer m).deadband).inBand ∧
            (t.loop i).balance =
              (judge (s.loop i).ceiling (s.loop i).inBand dt (s.timer m).design (s.timer m).deadband).balance ∧
            (t.loop i).ceiling = (judge (s.loop i).ceiling (s.loop i).inBand dt (s.timer m).design
              (s.timer m).deadband).claim.getD (s.loop i).ceiling ∧
            (t.loop i).faults = (if (t.loop i).balance.settled = true then
              { (s.loop i).faults with headChanged := false } else (s.loop i).faults)) ∧
        (∀ i, manifoldOf i = m → (s.loop i).life ≠ .retiring →
          ((s.loop i).life ≠ .ready ∨ (s.loop i).deltaT = none ∨
            (s.loop i).openCounter < (s.timer m).settleBase * (s.loop i).covering) →
          (s.loop i).owner = .auto → (s.channel (loopChannel i)).state ≠ .fault →
            (s.loop i).Kept (t.loop i)) ∧
        (∀ i, manifoldOf i ≠ m → (s.loop i).Kept (t.loop i) ∨
          ((s.loop i).life = .retiring ∧ (t.loop i).life = .vacant)) ∧
        ((∃ i, s.Claims m i) → (∀ i, manifoldOf i = m → (t.loop i).openCounter = 0) ∧ (s.DriverBusy → t.Commanded t)) ∧
        ((∀ i, ¬s.Claims m i) → s.StartLaw → (t.campaign m).state = (s.campaign m).state →
          ∀ i, (t.loop i).openCounter = (s.loop i).openCounter) ∧
        ((s.campaign m).state = .idle → t.campaign m = s.campaign m ∧ t.storage = s.storage ∧
          t.RoundStarted m True))

/-- A round expiry of a campaign in ROUNDS is counted, and then ends the campaign ABANDONED with no participant,
COMPLETE with every participant settled, or PARTIAL at the round limit; a campaign that ends COMPLETE or PARTIAL
requests a store (R155, R154, R158, R161). A campaign that goes on has started its next round with the full settle base
(R140); the departure from ROUNDS leaves the timer running only if trimming is enabled and the other conditions hold,
and the return to IDLE recomputes, said while the driver is busy (R149, R158, R161). -/
def Obligations.RoundExpiryDecidesTheCampaign : Prop :=
  ∀ (s : State) (m : Manifold), s.powered = true → s.MarkLaw → (s.timer m).remaining = some 0 →
    (s.campaign m).state = .rounds →
    ∃ t, exec (.roundExpiry m) s = .next t ∧
      ((t.campaign m).state = .rounds → t.RoundStarted m True) ∧
      ((t.campaign m).state = .idle → t.RoundStarted m (t.RoundConditions m) ∧ (s.DriverBusy → t.Commanded t)) ∧
      ((∀ i, manifoldOf i = m → ¬((s.loop i).life = .ready ∧ (s.loop i).owner = .auto ∧
          (s.channel (loopChannel i)).state = .ok)) →
        t.campaign m = ⟨.idle, none, (s.campaign m).roundsDone + 1, .abandoned, some .noLoops⟩ ∧
          t.storage = s.storage) ∧
      ((∃ i, manifoldOf i = m ∧ (s.loop i).life = .ready ∧ (s.loop i).owner = .auto ∧
          (s.channel (loopChannel i)).state = .ok) →
        ((∀ i, manifoldOf i = m → (s.loop i).life = .ready → (s.loop i).owner = .auto →
            (s.channel (loopChannel i)).state = .ok → (t.loop i).balance.settled = true) →
          t.campaign m = ⟨.idle, none, (s.campaign m).roundsDone + 1, .complete, none⟩ ∧
            t.storage.running ≠ none ∧ (s.storage.running ≠ none → t.storage.again = true)) ∧
        ((∃ i, manifoldOf i = m ∧ (s.loop i).life = .ready ∧ (s.loop i).owner = .auto ∧
            (s.channel (loopChannel i)).state = .ok ∧ (t.loop i).balance.settled = false) →
          (s.house.roundLimit ≤ (s.campaign m).roundsDone + 1 →
            t.campaign m = ⟨.idle, none, (s.campaign m).roundsDone + 1, .partly, none⟩ ∧
              t.storage.running ≠ none ∧ (s.storage.running ≠ none → t.storage.again = true)) ∧
          ((s.campaign m).roundsDone + 1 < s.house.roundLimit →
            t.campaign m = { s.campaign m with roundsDone := (s.campaign m).roundsDone + 1 } ∧
              t.storage = s.storage)))

/-! ### Rules of the blocks -/

/-- The step of a stroke, the position a step is shown as, and the stroke each kind of move drives a leg towards (R62). -/
def Obligations.StepsAndStrokesRoundDown : Prop :=
  (∀ c s : Nat, stepOf c s * 1000 ≤ c * s ∧ c * s < (stepOf c s + 1) * 1000) ∧
    (∀ c : Nat, stepOf c 0 = 0 ∧ stepOf c 1000 = c) ∧
    (∀ c p : Nat, 0 < c → strokeOf c p * c ≤ p * 1000 ∧ p * 1000 < (strokeOf c p + 1) * c) ∧
    ∀ m : Move, (m.kind = .position → ∀ n, m.target = some n → m.aimedAt = n) ∧ (m.kind = .park → m.aimedAt = 0) ∧
      (m.kind = .exercise → m.leg = .first → m.aimedAt = 1000) ∧
      (m.kind = .exercise → m.leg = .second → ∀ n, m.returnStroke = some n → m.aimedAt = n)

/-- A new want combined with the one a loop has, by the table of R80: the want and the loop's waiting entry after it, in
the place it had; a want that is set breaks a condition of the loop's open counter, which returns to 0 (R133); a want
that is superseded leaves the whole state as it was. Every other one is reported as a change of the loop's want, also where
a POSITION's target is replaced (R80) or the want is kept (log 8). A want that is outstanding then is appended at the tail
where a place is free, with the commanded stroke of the moment as a POSITION's target (R78); where the queue of an idle
drive gets its entry so, the change of drive idle is reported after the want. That drive idle becomes no at the entry is
the model's reading of the first sentence of R95, which says too that it becomes no at the start of a move (log 24). Free
places are filled in ascending loop index (R79); one that stands free while wants of other loops are outstanding is freed
by a removal not yet taken in full, and a new want leaves it to them (R81). -/
def Obligations.WantsCombineByTheirTable : Prop :=
  (supersede (some .home) .park = .home ∧ supersede (some .home) .position = .home ∧
      supersede (some .home) .exercise = .home ∧ supersede (some .park) .home = .home ∧
      supersede (some .park) .position = .park ∧ supersede (some .park) .exercise = .park ∧
      supersede (some .position) .home = .home ∧ supersede (some .position) .park = .park ∧
      supersede (some .position) .exercise = .position ∧ supersede (some .exercise) .home = .home ∧
      supersede (some .exercise) .park = .park ∧ supersede (some .exercise) .position = .position ∧
      ∀ k, supersede (some k) k = k ∧ supersede none k = k) ∧
    (∀ (s : State) (i : LoopIx) (k : MoveKind),
      (supersede (s.loop i).want k ≠ k → s.want i k = s) ∧
      (supersede (s.loop i).want k = k → ((s.want i k).loop i).want = some k ∧ ((s.want i k).loop i).openCounter = 0 ∧
        (∀ j, j ≠ i → (s.want i k).loop j = s.loop j) ∧
        (s.want i k).reports = s.reports ++ ⟨.loop, i.val, false⟩ ::
          (if s.drive.idle = (s.want i k).drive.idle then [] else [⟨.house, 0, false⟩]) ∧
        (s.want i k).drive.queue = (s.drive.queue.map fun e =>
          if e.loop = i then ⟨i, k, if k = .position then some (s.loop i).commanded else none⟩ else e) ++
            if (∃ e ∈ s.drive.queue, e.loop = i) ∨ (k = .home ∧ s.homing i = true) ∨ 16 ≤ s.drive.queue.length ∨
                (∃ j, j ≠ i ∧ s.outstanding j = true) then []
            else [⟨i, k, if k = .position then some (s.loop i).commanded else none⟩])) ∧
  (∀ (s : State) (i : LoopIx), s.outstanding i = true ↔ s.Outstanding i) ∧
  ∀ s : State, (∀ j, s.fill.loop j = s.loop j) ∧
    s.fill.drive.queue = s.drive.queue ++
      ((allLoops.filter fun i => s.outstanding i).take (16 - s.drive.queue.length)).filterMap fun i =>
        (s.loop i).want.map fun k => ⟨i, k, if k = .position then some (s.loop i).commanded else none⟩

/-- A recompute commands every loop by the table of R113 and the walk over the Floor List: a member that can help is held
exactly where the sum of the base strokes, with what the earlier members that can help have added, is below the flow floor
(R116, R121); in HEATING either the commanded strokes of the READY loops meet the flow floor or floor-short is set; in
STANDBY nothing is held and floor-short is clear (R122, R125). A READY loop whose stroke has changed gets a POSITION want,
combined with the one it has, or a pending target while its move runs; no other loop's want changes (R117, R84). Where a
POSITION is wanted so, the loop's open counter returns to 0, and no other loop's does (R133). -/
def Obligations.RecomputeCommandsTheStrokes : Prop :=
  ∀ s : State,
    (∀ i : LoopIx,
      (s.recompute.loop i).commanded =
        (if (s.recompute.loop i).floorHeld = true then (s.loop i).ceiling else s.baseStroke i) ∧
      ((s.loop i).life ≠ .ready → s.baseStroke i = 0) ∧
      ((s.loop i).life = .ready → (s.loop i).owner = .service → s.baseStroke i = (s.loop i).override) ∧
      ((s.loop i).life = .ready → (s.loop i).owner = .auto → s.house.season = .standby → s.baseStroke i = 0) ∧
      ((s.loop i).life = .ready → (s.loop i).owner = .auto → s.house.season = .heating →
        (s.campaign (manifoldOf i)).state ≠ .idle → s.baseStroke i = (s.loop i).ceiling) ∧
      ((s.loop i).life = .ready → (s.loop i).owner = .auto → s.house.season = .heating →
        (s.campaign (manifoldOf i)).state = .idle →
          (∀ r, (s.loop i).room = some r → s.baseStroke i = (s.loop i).ceiling * (s.room r).effective / 100) ∧
          ((s.loop i).room = none → s.baseStroke i = 0)) ∧
      ((s.recompute.loop i).floorHeld = true →
        i ∈ s.floorList ∧ (s.loop i).life = .ready ∧ (s.loop i).owner = .auto ∧ s.house.season = .heating ∧
          (s.campaign (manifoldOf i)).state = .idle ∧ s.baseStroke i < (s.loop i).ceiling)) ∧
    (s.house.season = .heating → ∀ (before : List LoopIx) (i : LoopIx) (after : List LoopIx),
      s.floorList = before ++ i :: after → s.floorList.Nodup → (s.loop i).life = .ready → (s.loop i).owner = .auto →
      (s.campaign (manifoldOf i)).state = .idle → s.baseStroke i < (s.loop i).ceiling →
        ((s.recompute.loop i).floorHeld = true ↔
          ((allLoops.filter fun j => (s.loop j).life = .ready).map s.baseStroke).sum +
            ((before.filter fun j => (s.loop j).life = .ready ∧ (s.loop j).owner = .auto ∧
                (s.campaign (manifoldOf j)).state = .idle ∧ s.baseStroke j < (s.loop j).ceiling).map fun j =>
              (s.loop j).ceiling - s.baseStroke j).sum < s.house.flowFloor)) ∧
    (∀ i : LoopIx,
      ((s.loop i).life = .ready → (s.recompute.loop i).commanded ≠ (s.loop i).commanded →
        ((s.loop i).want = none → s.movingLoop i = true →
          (s.recompute.loop i).want = none ∧ (s.recompute.loop i).openCounter = (s.loop i).openCounter ∧
            (s.recompute.loop i).pendingTarget = some (s.recompute.loop i).commanded) ∧
        ((s.loop i).want ≠ none ∨ s.movingLoop i = false →
          (s.recompute.loop i).want = some (supersede (s.loop i).want .position) ∧
            (s.recompute.loop i).openCounter =
              (if supersede (s.loop i).want .position = .position then 0 else (s.loop i).openCounter) ∧
            (s.recompute.loop i).pendingTarget = (s.loop i).pendingTarget)) ∧
      ((s.loop i).life ≠ .ready ∨ (s.recompute.loop i).commanded = (s.loop i).commanded →
        (s.recompute.loop i).want = (s.loop i).want ∧ (s.recompute.loop i).openCounter = (s.loop i).openCounter ∧
          (s.recompute.loop i).pendingTarget = (s.loop i).pendingTarget)) ∧
    (s.house.season = .heating → s.floorList.Nodup →
      (s.recompute.floorShort = false ↔
        s.house.flowFloor ≤ ((allLoops.filter fun i => (s.loop i).life = .ready).map fun i =>
          (s.recompute.loop i).commanded).sum)) ∧
    (s.house.season = .standby → s.recompute.floorShort = false ∧ ∀ i, (s.recompute.loop i).floorHeld = false)

/-- A change of a record triggers a watch of its table that covers its index, on condition ANY or where the change is one
of state; it sets a slot's marker, or the more-flag of one that is pending, and each further reported change does so in
its turn (R181, R182). -/
def Obligations.ChangesSetTheMarker : Prop :=
  (∀ (w : Watch) (n : Nat), w.covers n = true ↔
    (w.base ≤ n ∧ n < w.base + w.span) ∨
      (w.mirror = true ∧ ((12 ≤ n ∧ n ≤ 23 ∧ w.base ≤ n - 12 ∧ n - 12 < w.base + w.span) ∨
        (n ≤ 11 ∧ w.base ≤ n + 12 ∧ n + 12 < w.base + w.span)))) ∧
    ∀ (x : Slot) (r : Report),
      ((∃ w ∈ x.watches, w.table = r.table ∧ w.covers r.index = true ∧ (w.condition = .any ∨ r.state = true)) →
        x.told [r] = { x with marker := match x.marker with
          | none => some ⟨r.table, r.index, false⟩
          | some m => some { m with more := true } }) ∧
      ((∀ w ∈ x.watches, w.table = r.table → w.covers r.index = true → w.condition = .state ∧ r.state = false) →
        x.told [r] = x) ∧
      x.told [] = x ∧ ∀ more : List Report, x.told (r :: more) = (x.told [r]).told more

/-! ### Invariants: what every step keeps -/

/-- At most 16 waiting entries, no two of one loop (R76). -/
def Obligations.QueueLawIsKept : Prop := ∀ s t : State, s.QueueLaw → step s = .next t → t.QueueLaw

/-- Every ceiling lies between 80 and 1000 (R3). -/
def Obligations.CeilingLawIsKept : Prop := ∀ s t : State, s.CeilingLaw → step s = .next t → t.CeilingLaw

/-- Room records keep the law of R30: a claimant exactly while CLAIMED, no demand or lease otherwise, demand at most
100. -/
def Obligations.RoomLawIsKept : Prop := ∀ s t : State, s.RoomLaw → step s = .next t → t.RoomLaw

/-- The Floor List holds at most 8 loops, none twice and none VACANT (R43). -/
def Obligations.FloorLawIsKept : Prop := ∀ s t : State, s.FloorLaw → step s = .next t → t.FloorLaw

/-- Campaign records keep the law of R148, and none is open but in HEATING. -/
def Obligations.CampaignLawIsKept : Prop := ∀ s t : State, s.CampaignLaw → step s = .next t → t.CampaignLaw

/-- No two occupied slots hold one address, and the changes of a command are matched when it ends (R173, R182). -/
def Obligations.LinkLawsAreKept : Prop :=
  ∀ s t : State, s.RosterLaw → s.ReportLaw → step s = .next t → t.RosterLaw ∧ t.ReportLaw

/-- No move runs while a dwell counts, a HOLDING drive has a move running and a HELD one none, a restart mark is held
only for the loop whose move runs (R75, R90, R170), and no move that R83 lets start is left waiting between commands.
The last is the model's reading, a move starting inside the command that makes it possible though MOVE_START is a
command of its own (log 3). -/
def Obligations.DriveLawsAreKept : Prop :=
  ∀ s t : State, s.drive.Lawful → s.MarkLaw → s.StartLaw → step s = .next t →
    t.drive.Lawful ∧ t.MarkLaw ∧ t.StartLaw

/-- Reset meets every invariant. -/
def Obligations.ResetMeetsTheInvariants : Prop :=
  State.reset.QueueLaw ∧ State.reset.CeilingLaw ∧ State.reset.RoomLaw ∧ State.reset.FloorLaw ∧
    State.reset.CampaignLaw ∧ State.reset.RosterLaw ∧ State.reset.ReportLaw ∧ State.reset.drive.Lawful ∧
    State.reset.MarkLaw ∧ State.reset.StartLaw
end

