-- ==== Sys2Proof/Laws/State.lean ====
section
/-! SUPPORT. One lemma per field per update of State, so that no proof unfolds a record update; and the reads of the
written element. -/

namespace Sys2Proof.Machine

/-! `State.setLoop` writes `loops` alone. -/

@[simp] theorem State.setLoop_powered (s : State) (i : LoopIx) (l : Loop) : (s.setLoop i l).powered = s.powered := rfl
@[simp] theorem State.setLoop_rooms (s : State) (i : LoopIx) (l : Loop) : (s.setLoop i l).rooms = s.rooms := rfl
@[simp] theorem State.setLoop_floorList (s : State) (i : LoopIx) (l : Loop) : (s.setLoop i l).floorList = s.floorList := rfl
@[simp] theorem State.setLoop_floorShort (s : State) (i : LoopIx) (l : Loop) : (s.setLoop i l).floorShort = s.floorShort := rfl
@[simp] theorem State.setLoop_house (s : State) (i : LoopIx) (l : Loop) : (s.setLoop i l).house = s.house := rfl
@[simp] theorem State.setLoop_storage (s : State) (i : LoopIx) (l : Loop) : (s.setLoop i l).storage = s.storage := rfl
@[simp] theorem State.setLoop_drive (s : State) (i : LoopIx) (l : Loop) : (s.setLoop i l).drive = s.drive := rfl
@[simp] theorem State.setLoop_channels (s : State) (i : LoopIx) (l : Loop) : (s.setLoop i l).channels = s.channels := rfl
@[simp] theorem State.setLoop_supplyRefs (s : State) (i : LoopIx) (l : Loop) : (s.setLoop i l).supplyRefs = s.supplyRefs := rfl
@[simp] theorem State.setLoop_timers (s : State) (i : LoopIx) (l : Loop) : (s.setLoop i l).timers = s.timers := rfl
@[simp] theorem State.setLoop_campaigns (s : State) (i : LoopIx) (l : Loop) : (s.setLoop i l).campaigns = s.campaigns := rfl
@[simp] theorem State.setLoop_link (s : State) (i : LoopIx) (l : Loop) : (s.setLoop i l).link = s.link := rfl
@[simp] theorem State.setLoop_reports (s : State) (i : LoopIx) (l : Loop) : (s.setLoop i l).reports = s.reports := rfl
@[simp] theorem State.setLoop_pending (s : State) (i : LoopIx) (l : Loop) : (s.setLoop i l).pending = s.pending := rfl

/-! `State.modLoop` writes `loops` alone. -/

@[simp] theorem State.modLoop_powered (s : State) (i : LoopIx) (f : Loop → Loop) : (s.modLoop i f).powered = s.powered := rfl
@[simp] theorem State.modLoop_rooms (s : State) (i : LoopIx) (f : Loop → Loop) : (s.modLoop i f).rooms = s.rooms := rfl
@[simp] theorem State.modLoop_floorList (s : State) (i : LoopIx) (f : Loop → Loop) : (s.modLoop i f).floorList = s.floorList := rfl
@[simp] theorem State.modLoop_floorShort (s : State) (i : LoopIx) (f : Loop → Loop) : (s.modLoop i f).floorShort = s.floorShort := rfl
@[simp] theorem State.modLoop_house (s : State) (i : LoopIx) (f : Loop → Loop) : (s.modLoop i f).house = s.house := rfl
@[simp] theorem State.modLoop_storage (s : State) (i : LoopIx) (f : Loop → Loop) : (s.modLoop i f).storage = s.storage := rfl
@[simp] theorem State.modLoop_drive (s : State) (i : LoopIx) (f : Loop → Loop) : (s.modLoop i f).drive = s.drive := rfl
@[simp] theorem State.modLoop_channels (s : State) (i : LoopIx) (f : Loop → Loop) : (s.modLoop i f).channels = s.channels := rfl
@[simp] theorem State.modLoop_supplyRefs (s : State) (i : LoopIx) (f : Loop → Loop) : (s.modLoop i f).supplyRefs = s.supplyRefs := rfl
@[simp] theorem State.modLoop_timers (s : State) (i : LoopIx) (f : Loop → Loop) : (s.modLoop i f).timers = s.timers := rfl
@[simp] theorem State.modLoop_campaigns (s : State) (i : LoopIx) (f : Loop → Loop) : (s.modLoop i f).campaigns = s.campaigns := rfl
@[simp] theorem State.modLoop_link (s : State) (i : LoopIx) (f : Loop → Loop) : (s.modLoop i f).link = s.link := rfl
@[simp] theorem State.modLoop_reports (s : State) (i : LoopIx) (f : Loop → Loop) : (s.modLoop i f).reports = s.reports := rfl
@[simp] theorem State.modLoop_pending (s : State) (i : LoopIx) (f : Loop → Loop) : (s.modLoop i f).pending = s.pending := rfl

/-! `State.mapLoops` writes `loops` alone. -/

@[simp] theorem State.mapLoops_powered (s : State) (f : LoopIx → Loop → Loop) : (s.mapLoops f).powered = s.powered := by simp only [State.mapLoops]
@[simp] theorem State.mapLoops_rooms (s : State) (f : LoopIx → Loop → Loop) : (s.mapLoops f).rooms = s.rooms := by simp only [State.mapLoops]
@[simp] theorem State.mapLoops_floorList (s : State) (f : LoopIx → Loop → Loop) : (s.mapLoops f).floorList = s.floorList := by simp only [State.mapLoops]
@[simp] theorem State.mapLoops_floorShort (s : State) (f : LoopIx → Loop → Loop) : (s.mapLoops f).floorShort = s.floorShort := by simp only [State.mapLoops]
@[simp] theorem State.mapLoops_house (s : State) (f : LoopIx → Loop → Loop) : (s.mapLoops f).house = s.house := by simp only [State.mapLoops]
@[simp] theorem State.mapLoops_storage (s : State) (f : LoopIx → Loop → Loop) : (s.mapLoops f).storage = s.storage := by simp only [State.mapLoops]
@[simp] theorem State.mapLoops_drive (s : State) (f : LoopIx → Loop → Loop) : (s.mapLoops f).drive = s.drive := by simp only [State.mapLoops]
@[simp] theorem State.mapLoops_channels (s : State) (f : LoopIx → Loop → Loop) : (s.mapLoops f).channels = s.channels := by simp only [State.mapLoops]
@[simp] theorem State.mapLoops_supplyRefs (s : State) (f : LoopIx → Loop → Loop) : (s.mapLoops f).supplyRefs = s.supplyRefs := by simp only [State.mapLoops]
@[simp] theorem State.mapLoops_timers (s : State) (f : LoopIx → Loop → Loop) : (s.mapLoops f).timers = s.timers := by simp only [State.mapLoops]
@[simp] theorem State.mapLoops_campaigns (s : State) (f : LoopIx → Loop → Loop) : (s.mapLoops f).campaigns = s.campaigns := by simp only [State.mapLoops]
@[simp] theorem State.mapLoops_link (s : State) (f : LoopIx → Loop → Loop) : (s.mapLoops f).link = s.link := by simp only [State.mapLoops]
@[simp] theorem State.mapLoops_reports (s : State) (f : LoopIx → Loop → Loop) : (s.mapLoops f).reports = s.reports := by simp only [State.mapLoops]
@[simp] theorem State.mapLoops_pending (s : State) (f : LoopIx → Loop → Loop) : (s.mapLoops f).pending = s.pending := by simp only [State.mapLoops]

/-! `State.setRoom` writes `rooms` alone. -/

@[simp] theorem State.setRoom_powered (s : State) (r : RoomIx) (x : Room) : (s.setRoom r x).powered = s.powered := rfl
@[simp] theorem State.setRoom_loops (s : State) (r : RoomIx) (x : Room) : (s.setRoom r x).loops = s.loops := rfl
@[simp] theorem State.setRoom_floorList (s : State) (r : RoomIx) (x : Room) : (s.setRoom r x).floorList = s.floorList := rfl
@[simp] theorem State.setRoom_floorShort (s : State) (r : RoomIx) (x : Room) : (s.setRoom r x).floorShort = s.floorShort := rfl
@[simp] theorem State.setRoom_house (s : State) (r : RoomIx) (x : Room) : (s.setRoom r x).house = s.house := rfl
@[simp] theorem State.setRoom_storage (s : State) (r : RoomIx) (x : Room) : (s.setRoom r x).storage = s.storage := rfl
@[simp] theorem State.setRoom_drive (s : State) (r : RoomIx) (x : Room) : (s.setRoom r x).drive = s.drive := rfl
@[simp] theorem State.setRoom_channels (s : State) (r : RoomIx) (x : Room) : (s.setRoom r x).channels = s.channels := rfl
@[simp] theorem State.setRoom_supplyRefs (s : State) (r : RoomIx) (x : Room) : (s.setRoom r x).supplyRefs = s.supplyRefs := rfl
@[simp] theorem State.setRoom_timers (s : State) (r : RoomIx) (x : Room) : (s.setRoom r x).timers = s.timers := rfl
@[simp] theorem State.setRoom_campaigns (s : State) (r : RoomIx) (x : Room) : (s.setRoom r x).campaigns = s.campaigns := rfl
@[simp] theorem State.setRoom_link (s : State) (r : RoomIx) (x : Room) : (s.setRoom r x).link = s.link := rfl
@[simp] theorem State.setRoom_reports (s : State) (r : RoomIx) (x : Room) : (s.setRoom r x).reports = s.reports := rfl
@[simp] theorem State.setRoom_pending (s : State) (r : RoomIx) (x : Room) : (s.setRoom r x).pending = s.pending := rfl

/-! `State.mapRooms` writes `rooms` alone. -/

@[simp] theorem State.mapRooms_powered (s : State) (f : Room → Room) : (s.mapRooms f).powered = s.powered := by simp only [State.mapRooms]
@[simp] theorem State.mapRooms_loops (s : State) (f : Room → Room) : (s.mapRooms f).loops = s.loops := by simp only [State.mapRooms]
@[simp] theorem State.mapRooms_floorList (s : State) (f : Room → Room) : (s.mapRooms f).floorList = s.floorList := by simp only [State.mapRooms]
@[simp] theorem State.mapRooms_floorShort (s : State) (f : Room → Room) : (s.mapRooms f).floorShort = s.floorShort := by simp only [State.mapRooms]
@[simp] theorem State.mapRooms_house (s : State) (f : Room → Room) : (s.mapRooms f).house = s.house := by simp only [State.mapRooms]
@[simp] theorem State.mapRooms_storage (s : State) (f : Room → Room) : (s.mapRooms f).storage = s.storage := by simp only [State.mapRooms]
@[simp] theorem State.mapRooms_drive (s : State) (f : Room → Room) : (s.mapRooms f).drive = s.drive := by simp only [State.mapRooms]
@[simp] theorem State.mapRooms_channels (s : State) (f : Room → Room) : (s.mapRooms f).channels = s.channels := by simp only [State.mapRooms]
@[simp] theorem State.mapRooms_supplyRefs (s : State) (f : Room → Room) : (s.mapRooms f).supplyRefs = s.supplyRefs := by simp only [State.mapRooms]
@[simp] theorem State.mapRooms_timers (s : State) (f : Room → Room) : (s.mapRooms f).timers = s.timers := by simp only [State.mapRooms]
@[simp] theorem State.mapRooms_campaigns (s : State) (f : Room → Room) : (s.mapRooms f).campaigns = s.campaigns := by simp only [State.mapRooms]
@[simp] theorem State.mapRooms_link (s : State) (f : Room → Room) : (s.mapRooms f).link = s.link := by simp only [State.mapRooms]
@[simp] theorem State.mapRooms_reports (s : State) (f : Room → Room) : (s.mapRooms f).reports = s.reports := by simp only [State.mapRooms]
@[simp] theorem State.mapRooms_pending (s : State) (f : Room → Room) : (s.mapRooms f).pending = s.pending := by simp only [State.mapRooms]

/-! `State.setSlot` writes `link` alone. -/

@[simp] theorem State.setSlot_powered (s : State) (k : SlotIx) (x : Option Slot) : (s.setSlot k x).powered = s.powered := rfl
@[simp] theorem State.setSlot_loops (s : State) (k : SlotIx) (x : Option Slot) : (s.setSlot k x).loops = s.loops := rfl
@[simp] theorem State.setSlot_rooms (s : State) (k : SlotIx) (x : Option Slot) : (s.setSlot k x).rooms = s.rooms := rfl
@[simp] theorem State.setSlot_floorList (s : State) (k : SlotIx) (x : Option Slot) : (s.setSlot k x).floorList = s.floorList := rfl
@[simp] theorem State.setSlot_floorShort (s : State) (k : SlotIx) (x : Option Slot) : (s.setSlot k x).floorShort = s.floorShort := rfl
@[simp] theorem State.setSlot_house (s : State) (k : SlotIx) (x : Option Slot) : (s.setSlot k x).house = s.house := rfl
@[simp] theorem State.setSlot_storage (s : State) (k : SlotIx) (x : Option Slot) : (s.setSlot k x).storage = s.storage := rfl
@[simp] theorem State.setSlot_drive (s : State) (k : SlotIx) (x : Option Slot) : (s.setSlot k x).drive = s.drive := rfl
@[simp] theorem State.setSlot_channels (s : State) (k : SlotIx) (x : Option Slot) : (s.setSlot k x).channels = s.channels := rfl
@[simp] theorem State.setSlot_supplyRefs (s : State) (k : SlotIx) (x : Option Slot) : (s.setSlot k x).supplyRefs = s.supplyRefs := rfl
@[simp] theorem State.setSlot_timers (s : State) (k : SlotIx) (x : Option Slot) : (s.setSlot k x).timers = s.timers := rfl
@[simp] theorem State.setSlot_campaigns (s : State) (k : SlotIx) (x : Option Slot) : (s.setSlot k x).campaigns = s.campaigns := rfl
@[simp] theorem State.setSlot_reports (s : State) (k : SlotIx) (x : Option Slot) : (s.setSlot k x).reports = s.reports := rfl
@[simp] theorem State.setSlot_pending (s : State) (k : SlotIx) (x : Option Slot) : (s.setSlot k x).pending = s.pending := rfl

/-! `State.mapSlots` writes `link` alone. -/

@[simp] theorem State.mapSlots_powered (s : State) (f : Slot → Slot) : (s.mapSlots f).powered = s.powered := by simp only [State.mapSlots]
@[simp] theorem State.mapSlots_loops (s : State) (f : Slot → Slot) : (s.mapSlots f).loops = s.loops := by simp only [State.mapSlots]
@[simp] theorem State.mapSlots_rooms (s : State) (f : Slot → Slot) : (s.mapSlots f).rooms = s.rooms := by simp only [State.mapSlots]
@[simp] theorem State.mapSlots_floorList (s : State) (f : Slot → Slot) : (s.mapSlots f).floorList = s.floorList := by simp only [State.mapSlots]
@[simp] theorem State.mapSlots_floorShort (s : State) (f : Slot → Slot) : (s.mapSlots f).floorShort = s.floorShort := by simp only [State.mapSlots]
@[simp] theorem State.mapSlots_house (s : State) (f : Slot → Slot) : (s.mapSlots f).house = s.house := by simp only [State.mapSlots]
@[simp] theorem State.mapSlots_storage (s : State) (f : Slot → Slot) : (s.mapSlots f).storage = s.storage := by simp only [State.mapSlots]
@[simp] theorem State.mapSlots_drive (s : State) (f : Slot → Slot) : (s.mapSlots f).drive = s.drive := by simp only [State.mapSlots]
@[simp] theorem State.mapSlots_channels (s : State) (f : Slot → Slot) : (s.mapSlots f).channels = s.channels := by simp only [State.mapSlots]
@[simp] theorem State.mapSlots_supplyRefs (s : State) (f : Slot → Slot) : (s.mapSlots f).supplyRefs = s.supplyRefs := by simp only [State.mapSlots]
@[simp] theorem State.mapSlots_timers (s : State) (f : Slot → Slot) : (s.mapSlots f).timers = s.timers := by simp only [State.mapSlots]
@[simp] theorem State.mapSlots_campaigns (s : State) (f : Slot → Slot) : (s.mapSlots f).campaigns = s.campaigns := by simp only [State.mapSlots]
@[simp] theorem State.mapSlots_reports (s : State) (f : Slot → Slot) : (s.mapSlots f).reports = s.reports := by simp only [State.mapSlots]
@[simp] theorem State.mapSlots_pending (s : State) (f : Slot → Slot) : (s.mapSlots f).pending = s.pending := by simp only [State.mapSlots]

/-! `State.setWindow` writes `link` alone. -/

@[simp] theorem State.setWindow_powered (s : State) (w : Window) : (s.setWindow w).powered = s.powered := rfl
@[simp] theorem State.setWindow_loops (s : State) (w : Window) : (s.setWindow w).loops = s.loops := rfl
@[simp] theorem State.setWindow_rooms (s : State) (w : Window) : (s.setWindow w).rooms = s.rooms := rfl
@[simp] theorem State.setWindow_floorList (s : State) (w : Window) : (s.setWindow w).floorList = s.floorList := rfl
@[simp] theorem State.setWindow_floorShort (s : State) (w : Window) : (s.setWindow w).floorShort = s.floorShort := rfl
@[simp] theorem State.setWindow_house (s : State) (w : Window) : (s.setWindow w).house = s.house := rfl
@[simp] theorem State.setWindow_storage (s : State) (w : Window) : (s.setWindow w).storage = s.storage := rfl
@[simp] theorem State.setWindow_drive (s : State) (w : Window) : (s.setWindow w).drive = s.drive := rfl
@[simp] theorem State.setWindow_channels (s : State) (w : Window) : (s.setWindow w).channels = s.channels := rfl
@[simp] theorem State.setWindow_supplyRefs (s : State) (w : Window) : (s.setWindow w).supplyRefs = s.supplyRefs := rfl
@[simp] theorem State.setWindow_timers (s : State) (w : Window) : (s.setWindow w).timers = s.timers := rfl
@[simp] theorem State.setWindow_campaigns (s : State) (w : Window) : (s.setWindow w).campaigns = s.campaigns := rfl
@[simp] theorem State.setWindow_reports (s : State) (w : Window) : (s.setWindow w).reports = s.reports := rfl
@[simp] theorem State.setWindow_pending (s : State) (w : Window) : (s.setWindow w).pending = s.pending := rfl

/-! `State.setCursor` writes `link` alone. -/

@[simp] theorem State.setCursor_powered (s : State) (n : Nat) : (s.setCursor n).powered = s.powered := rfl
@[simp] theorem State.setCursor_loops (s : State) (n : Nat) : (s.setCursor n).loops = s.loops := rfl
@[simp] theorem State.setCursor_rooms (s : State) (n : Nat) : (s.setCursor n).rooms = s.rooms := rfl
@[simp] theorem State.setCursor_floorList (s : State) (n : Nat) : (s.setCursor n).floorList = s.floorList := rfl
@[simp] theorem State.setCursor_floorShort (s : State) (n : Nat) : (s.setCursor n).floorShort = s.floorShort := rfl
@[simp] theorem State.setCursor_house (s : State) (n : Nat) : (s.setCursor n).house = s.house := rfl
@[simp] theorem State.setCursor_storage (s : State) (n : Nat) : (s.setCursor n).storage = s.storage := rfl
@[simp] theorem State.setCursor_drive (s : State) (n : Nat) : (s.setCursor n).drive = s.drive := rfl
@[simp] theorem State.setCursor_channels (s : State) (n : Nat) : (s.setCursor n).channels = s.channels := rfl
@[simp] theorem State.setCursor_supplyRefs (s : State) (n : Nat) : (s.setCursor n).supplyRefs = s.supplyRefs := rfl
@[simp] theorem State.setCursor_timers (s : State) (n : Nat) : (s.setCursor n).timers = s.timers := rfl
@[simp] theorem State.setCursor_campaigns (s : State) (n : Nat) : (s.setCursor n).campaigns = s.campaigns := rfl
@[simp] theorem State.setCursor_reports (s : State) (n : Nat) : (s.setCursor n).reports = s.reports := rfl
@[simp] theorem State.setCursor_pending (s : State) (n : Nat) : (s.setCursor n).pending = s.pending := rfl

/-! `State.setBreak` writes `link` alone. -/

@[simp] theorem State.setBreak_powered (s : State) (b : LineBreak) : (s.setBreak b).powered = s.powered := rfl
@[simp] theorem State.setBreak_loops (s : State) (b : LineBreak) : (s.setBreak b).loops = s.loops := rfl
@[simp] theorem State.setBreak_rooms (s : State) (b : LineBreak) : (s.setBreak b).rooms = s.rooms := rfl
@[simp] theorem State.setBreak_floorList (s : State) (b : LineBreak) : (s.setBreak b).floorList = s.floorList := rfl
@[simp] theorem State.setBreak_floorShort (s : State) (b : LineBreak) : (s.setBreak b).floorShort = s.floorShort := rfl
@[simp] theorem State.setBreak_house (s : State) (b : LineBreak) : (s.setBreak b).house = s.house := rfl
@[simp] theorem State.setBreak_storage (s : State) (b : LineBreak) : (s.setBreak b).storage = s.storage := rfl
@[simp] theorem State.setBreak_drive (s : State) (b : LineBreak) : (s.setBreak b).drive = s.drive := rfl
@[simp] theorem State.setBreak_channels (s : State) (b : LineBreak) : (s.setBreak b).channels = s.channels := rfl
@[simp] theorem State.setBreak_supplyRefs (s : State) (b : LineBreak) : (s.setBreak b).supplyRefs = s.supplyRefs := rfl
@[simp] theorem State.setBreak_timers (s : State) (b : LineBreak) : (s.setBreak b).timers = s.timers := rfl
@[simp] theorem State.setBreak_campaigns (s : State) (b : LineBreak) : (s.setBreak b).campaigns = s.campaigns := rfl
@[simp] theorem State.setBreak_reports (s : State) (b : LineBreak) : (s.setBreak b).reports = s.reports := rfl
@[simp] theorem State.setBreak_pending (s : State) (b : LineBreak) : (s.setBreak b).pending = s.pending := rfl

/-! `State.setRoster` writes `link` alone. -/

@[simp] theorem State.setRoster_powered (s : State) (r : Vector (Option Slot) 18) : (s.setRoster r).powered = s.powered := rfl
@[simp] theorem State.setRoster_loops (s : State) (r : Vector (Option Slot) 18) : (s.setRoster r).loops = s.loops := rfl
@[simp] theorem State.setRoster_rooms (s : State) (r : Vector (Option Slot) 18) : (s.setRoster r).rooms = s.rooms := rfl
@[simp] theorem State.setRoster_floorList (s : State) (r : Vector (Option Slot) 18) : (s.setRoster r).floorList = s.floorList := rfl
@[simp] theorem State.setRoster_floorShort (s : State) (r : Vector (Option Slot) 18) : (s.setRoster r).floorShort = s.floorShort := rfl
@[simp] theorem State.setRoster_house (s : State) (r : Vector (Option Slot) 18) : (s.setRoster r).house = s.house := rfl
@[simp] theorem State.setRoster_storage (s : State) (r : Vector (Option Slot) 18) : (s.setRoster r).storage = s.storage := rfl
@[simp] theorem State.setRoster_drive (s : State) (r : Vector (Option Slot) 18) : (s.setRoster r).drive = s.drive := rfl
@[simp] theorem State.setRoster_channels (s : State) (r : Vector (Option Slot) 18) : (s.setRoster r).channels = s.channels := rfl
@[simp] theorem State.setRoster_supplyRefs (s : State) (r : Vector (Option Slot) 18) : (s.setRoster r).supplyRefs = s.supplyRefs := rfl
@[simp] theorem State.setRoster_timers (s : State) (r : Vector (Option Slot) 18) : (s.setRoster r).timers = s.timers := rfl
@[simp] theorem State.setRoster_campaigns (s : State) (r : Vector (Option Slot) 18) : (s.setRoster r).campaigns = s.campaigns := rfl
@[simp] theorem State.setRoster_reports (s : State) (r : Vector (Option Slot) 18) : (s.setRoster r).reports = s.reports := rfl
@[simp] theorem State.setRoster_pending (s : State) (r : Vector (Option Slot) 18) : (s.setRoster r).pending = s.pending := rfl

/-! `State.setSent` writes `link` alone. -/

@[simp] theorem State.setSent_powered (s : State) (b : List Byte) : (s.setSent b).powered = s.powered := rfl
@[simp] theorem State.setSent_loops (s : State) (b : List Byte) : (s.setSent b).loops = s.loops := rfl
@[simp] theorem State.setSent_rooms (s : State) (b : List Byte) : (s.setSent b).rooms = s.rooms := rfl
@[simp] theorem State.setSent_floorList (s : State) (b : List Byte) : (s.setSent b).floorList = s.floorList := rfl
@[simp] theorem State.setSent_floorShort (s : State) (b : List Byte) : (s.setSent b).floorShort = s.floorShort := rfl
@[simp] theorem State.setSent_house (s : State) (b : List Byte) : (s.setSent b).house = s.house := rfl
@[simp] theorem State.setSent_storage (s : State) (b : List Byte) : (s.setSent b).storage = s.storage := rfl
@[simp] theorem State.setSent_drive (s : State) (b : List Byte) : (s.setSent b).drive = s.drive := rfl
@[simp] theorem State.setSent_channels (s : State) (b : List Byte) : (s.setSent b).channels = s.channels := rfl
@[simp] theorem State.setSent_supplyRefs (s : State) (b : List Byte) : (s.setSent b).supplyRefs = s.supplyRefs := rfl
@[simp] theorem State.setSent_timers (s : State) (b : List Byte) : (s.setSent b).timers = s.timers := rfl
@[simp] theorem State.setSent_campaigns (s : State) (b : List Byte) : (s.setSent b).campaigns = s.campaigns := rfl
@[simp] theorem State.setSent_reports (s : State) (b : List Byte) : (s.setSent b).reports = s.reports := rfl
@[simp] theorem State.setSent_pending (s : State) (b : List Byte) : (s.setSent b).pending = s.pending := rfl

/-! `State.setTimer` writes `timers` alone. -/

@[simp] theorem State.setTimer_powered (s : State) (m : Manifold) (x : RoundTimer) : (s.setTimer m x).powered = s.powered := rfl
@[simp] theorem State.setTimer_loops (s : State) (m : Manifold) (x : RoundTimer) : (s.setTimer m x).loops = s.loops := rfl
@[simp] theorem State.setTimer_rooms (s : State) (m : Manifold) (x : RoundTimer) : (s.setTimer m x).rooms = s.rooms := rfl
@[simp] theorem State.setTimer_floorList (s : State) (m : Manifold) (x : RoundTimer) : (s.setTimer m x).floorList = s.floorList := rfl
@[simp] theorem State.setTimer_floorShort (s : State) (m : Manifold) (x : RoundTimer) : (s.setTimer m x).floorShort = s.floorShort := rfl
@[simp] theorem State.setTimer_house (s : State) (m : Manifold) (x : RoundTimer) : (s.setTimer m x).house = s.house := rfl
@[simp] theorem State.setTimer_storage (s : State) (m : Manifold) (x : RoundTimer) : (s.setTimer m x).storage = s.storage := rfl
@[simp] theorem State.setTimer_drive (s : State) (m : Manifold) (x : RoundTimer) : (s.setTimer m x).drive = s.drive := rfl
@[simp] theorem State.setTimer_channels (s : State) (m : Manifold) (x : RoundTimer) : (s.setTimer m x).channels = s.channels := rfl
@[simp] theorem State.setTimer_supplyRefs (s : State) (m : Manifold) (x : RoundTimer) : (s.setTimer m x).supplyRefs = s.supplyRefs := rfl
@[simp] theorem State.setTimer_campaigns (s : State) (m : Manifold) (x : RoundTimer) : (s.setTimer m x).campaigns = s.campaigns := rfl
@[simp] theorem State.setTimer_link (s : State) (m : Manifold) (x : RoundTimer) : (s.setTimer m x).link = s.link := rfl
@[simp] theorem State.setTimer_reports (s : State) (m : Manifold) (x : RoundTimer) : (s.setTimer m x).reports = s.reports := rfl
@[simp] theorem State.setTimer_pending (s : State) (m : Manifold) (x : RoundTimer) : (s.setTimer m x).pending = s.pending := rfl

/-! `State.setCampaign` writes `campaigns` alone. -/

@[simp] theorem State.setCampaign_powered (s : State) (m : Manifold) (c : Campaign) : (s.setCampaign m c).powered = s.powered := rfl
@[simp] theorem State.setCampaign_loops (s : State) (m : Manifold) (c : Campaign) : (s.setCampaign m c).loops = s.loops := rfl
@[simp] theorem State.setCampaign_rooms (s : State) (m : Manifold) (c : Campaign) : (s.setCampaign m c).rooms = s.rooms := rfl
@[simp] theorem State.setCampaign_floorList (s : State) (m : Manifold) (c : Campaign) : (s.setCampaign m c).floorList = s.floorList := rfl
@[simp] theorem State.setCampaign_floorShort (s : State) (m : Manifold) (c : Campaign) : (s.setCampaign m c).floorShort = s.floorShort := rfl
@[simp] theorem State.setCampaign_house (s : State) (m : Manifold) (c : Campaign) : (s.setCampaign m c).house = s.house := rfl
@[simp] theorem State.setCampaign_storage (s : State) (m : Manifold) (c : Campaign) : (s.setCampaign m c).storage = s.storage := rfl
@[simp] theorem State.setCampaign_drive (s : State) (m : Manifold) (c : Campaign) : (s.setCampaign m c).drive = s.drive := rfl
@[simp] theorem State.setCampaign_channels (s : State) (m : Manifold) (c : Campaign) : (s.setCampaign m c).channels = s.channels := rfl
@[simp] theorem State.setCampaign_supplyRefs (s : State) (m : Manifold) (c : Campaign) : (s.setCampaign m c).supplyRefs = s.supplyRefs := rfl
@[simp] theorem State.setCampaign_timers (s : State) (m : Manifold) (c : Campaign) : (s.setCampaign m c).timers = s.timers := rfl
@[simp] theorem State.setCampaign_link (s : State) (m : Manifold) (c : Campaign) : (s.setCampaign m c).link = s.link := rfl
@[simp] theorem State.setCampaign_reports (s : State) (m : Manifold) (c : Campaign) : (s.setCampaign m c).reports = s.reports := rfl
@[simp] theorem State.setCampaign_pending (s : State) (m : Manifold) (c : Campaign) : (s.setCampaign m c).pending = s.pending := rfl

/-! `State.setSupplyRef` writes `supplyRefs` alone. -/

@[simp] theorem State.setSupplyRef_powered (s : State) (m : Manifold) (r : Option Int) : (s.setSupplyRef m r).powered = s.powered := rfl
@[simp] theorem State.setSupplyRef_loops (s : State) (m : Manifold) (r : Option Int) : (s.setSupplyRef m r).loops = s.loops := rfl
@[simp] theorem State.setSupplyRef_rooms (s : State) (m : Manifold) (r : Option Int) : (s.setSupplyRef m r).rooms = s.rooms := rfl
@[simp] theorem State.setSupplyRef_floorList (s : State) (m : Manifold) (r : Option Int) : (s.setSupplyRef m r).floorList = s.floorList := rfl
@[simp] theorem State.setSupplyRef_floorShort (s : State) (m : Manifold) (r : Option Int) : (s.setSupplyRef m r).floorShort = s.floorShort := rfl
@[simp] theorem State.setSupplyRef_house (s : State) (m : Manifold) (r : Option Int) : (s.setSupplyRef m r).house = s.house := rfl
@[simp] theorem State.setSupplyRef_storage (s : State) (m : Manifold) (r : Option Int) : (s.setSupplyRef m r).storage = s.storage := rfl
@[simp] theorem State.setSupplyRef_drive (s : State) (m : Manifold) (r : Option Int) : (s.setSupplyRef m r).drive = s.drive := rfl
@[simp] theorem State.setSupplyRef_channels (s : State) (m : Manifold) (r : Option Int) : (s.setSupplyRef m r).channels = s.channels := rfl
@[simp] theorem State.setSupplyRef_timers (s : State) (m : Manifold) (r : Option Int) : (s.setSupplyRef m r).timers = s.timers := rfl
@[simp] theorem State.setSupplyRef_campaigns (s : State) (m : Manifold) (r : Option Int) : (s.setSupplyRef m r).campaigns = s.campaigns := rfl
@[simp] theorem State.setSupplyRef_link (s : State) (m : Manifold) (r : Option Int) : (s.setSupplyRef m r).link = s.link := rfl
@[simp] theorem State.setSupplyRef_reports (s : State) (m : Manifold) (r : Option Int) : (s.setSupplyRef m r).reports = s.reports := rfl
@[simp] theorem State.setSupplyRef_pending (s : State) (m : Manifold) (r : Option Int) : (s.setSupplyRef m r).pending = s.pending := rfl

/-! `State.setDrive` writes `drive` alone. -/

@[simp] theorem State.setDrive_powered (s : State) (d : Drive) : (s.setDrive d).powered = s.powered := rfl
@[simp] theorem State.setDrive_loops (s : State) (d : Drive) : (s.setDrive d).loops = s.loops := rfl
@[simp] theorem State.setDrive_rooms (s : State) (d : Drive) : (s.setDrive d).rooms = s.rooms := rfl
@[simp] theorem State.setDrive_floorList (s : State) (d : Drive) : (s.setDrive d).floorList = s.floorList := rfl
@[simp] theorem State.setDrive_floorShort (s : State) (d : Drive) : (s.setDrive d).floorShort = s.floorShort := rfl
@[simp] theorem State.setDrive_house (s : State) (d : Drive) : (s.setDrive d).house = s.house := rfl
@[simp] theorem State.setDrive_storage (s : State) (d : Drive) : (s.setDrive d).storage = s.storage := rfl
@[simp] theorem State.setDrive_channels (s : State) (d : Drive) : (s.setDrive d).channels = s.channels := rfl
@[simp] theorem State.setDrive_supplyRefs (s : State) (d : Drive) : (s.setDrive d).supplyRefs = s.supplyRefs := rfl
@[simp] theorem State.setDrive_timers (s : State) (d : Drive) : (s.setDrive d).timers = s.timers := rfl
@[simp] theorem State.setDrive_campaigns (s : State) (d : Drive) : (s.setDrive d).campaigns = s.campaigns := rfl
@[simp] theorem State.setDrive_link (s : State) (d : Drive) : (s.setDrive d).link = s.link := rfl
@[simp] theorem State.setDrive_reports (s : State) (d : Drive) : (s.setDrive d).reports = s.reports := rfl
@[simp] theorem State.setDrive_pending (s : State) (d : Drive) : (s.setDrive d).pending = s.pending := rfl

/-! `State.setQueue` writes `drive` alone. -/

@[simp] theorem State.setQueue_powered (s : State) (q : List Entry) : (s.setQueue q).powered = s.powered := rfl
@[simp] theorem State.setQueue_loops (s : State) (q : List Entry) : (s.setQueue q).loops = s.loops := rfl
@[simp] theorem State.setQueue_rooms (s : State) (q : List Entry) : (s.setQueue q).rooms = s.rooms := rfl
@[simp] theorem State.setQueue_floorList (s : State) (q : List Entry) : (s.setQueue q).floorList = s.floorList := rfl
@[simp] theorem State.setQueue_floorShort (s : State) (q : List Entry) : (s.setQueue q).floorShort = s.floorShort := rfl
@[simp] theorem State.setQueue_house (s : State) (q : List Entry) : (s.setQueue q).house = s.house := rfl
@[simp] theorem State.setQueue_storage (s : State) (q : List Entry) : (s.setQueue q).storage = s.storage := rfl
@[simp] theorem State.setQueue_channels (s : State) (q : List Entry) : (s.setQueue q).channels = s.channels := rfl
@[simp] theorem State.setQueue_supplyRefs (s : State) (q : List Entry) : (s.setQueue q).supplyRefs = s.supplyRefs := rfl
@[simp] theorem State.setQueue_timers (s : State) (q : List Entry) : (s.setQueue q).timers = s.timers := rfl
@[simp] theorem State.setQueue_campaigns (s : State) (q : List Entry) : (s.setQueue q).campaigns = s.campaigns := rfl
@[simp] theorem State.setQueue_link (s : State) (q : List Entry) : (s.setQueue q).link = s.link := rfl
@[simp] theorem State.setQueue_reports (s : State) (q : List Entry) : (s.setQueue q).reports = s.reports := rfl
@[simp] theorem State.setQueue_pending (s : State) (q : List Entry) : (s.setQueue q).pending = s.pending := rfl

/-! `State.setMoving` writes `drive` alone. -/

@[simp] theorem State.setMoving_powered (s : State) (m : Option Move) : (s.setMoving m).powered = s.powered := rfl
@[simp] theorem State.setMoving_loops (s : State) (m : Option Move) : (s.setMoving m).loops = s.loops := rfl
@[simp] theorem State.setMoving_rooms (s : State) (m : Option Move) : (s.setMoving m).rooms = s.rooms := rfl
@[simp] theorem State.setMoving_floorList (s : State) (m : Option Move) : (s.setMoving m).floorList = s.floorList := rfl
@[simp] theorem State.setMoving_floorShort (s : State) (m : Option Move) : (s.setMoving m).floorShort = s.floorShort := rfl
@[simp] theorem State.setMoving_house (s : State) (m : Option Move) : (s.setMoving m).house = s.house := rfl
@[simp] theorem State.setMoving_storage (s : State) (m : Option Move) : (s.setMoving m).storage = s.storage := rfl
@[simp] theorem State.setMoving_channels (s : State) (m : Option Move) : (s.setMoving m).channels = s.channels := rfl
@[simp] theorem State.setMoving_supplyRefs (s : State) (m : Option Move) : (s.setMoving m).supplyRefs = s.supplyRefs := rfl
@[simp] theorem State.setMoving_timers (s : State) (m : Option Move) : (s.setMoving m).timers = s.timers := rfl
@[simp] theorem State.setMoving_campaigns (s : State) (m : Option Move) : (s.setMoving m).campaigns = s.campaigns := rfl
@[simp] theorem State.setMoving_link (s : State) (m : Option Move) : (s.setMoving m).link = s.link := rfl
@[simp] theorem State.setMoving_reports (s : State) (m : Option Move) : (s.setMoving m).reports = s.reports := rfl
@[simp] theorem State.setMoving_pending (s : State) (m : Option Move) : (s.setMoving m).pending = s.pending := rfl

/-! `State.setDwell` writes `drive` alone. -/

@[simp] theorem State.setDwell_powered (s : State) (d : Option Dwell) : (s.setDwell d).powered = s.powered := rfl
@[simp] theorem State.setDwell_loops (s : State) (d : Option Dwell) : (s.setDwell d).loops = s.loops := rfl
@[simp] theorem State.setDwell_rooms (s : State) (d : Option Dwell) : (s.setDwell d).rooms = s.rooms := rfl
@[simp] theorem State.setDwell_floorList (s : State) (d : Option Dwell) : (s.setDwell d).floorList = s.floorList := rfl
@[simp] theorem State.setDwell_floorShort (s : State) (d : Option Dwell) : (s.setDwell d).floorShort = s.floorShort := rfl
@[simp] theorem State.setDwell_house (s : State) (d : Option Dwell) : (s.setDwell d).house = s.house := rfl
@[simp] theorem State.setDwell_storage (s : State) (d : Option Dwell) : (s.setDwell d).storage = s.storage := rfl
@[simp] theorem State.setDwell_channels (s : State) (d : Option Dwell) : (s.setDwell d).channels = s.channels := rfl
@[simp] theorem State.setDwell_supplyRefs (s : State) (d : Option Dwell) : (s.setDwell d).supplyRefs = s.supplyRefs := rfl
@[simp] theorem State.setDwell_timers (s : State) (d : Option Dwell) : (s.setDwell d).timers = s.timers := rfl
@[simp] theorem State.setDwell_campaigns (s : State) (d : Option Dwell) : (s.setDwell d).campaigns = s.campaigns := rfl
@[simp] theorem State.setDwell_link (s : State) (d : Option Dwell) : (s.setDwell d).link = s.link := rfl
@[simp] theorem State.setDwell_reports (s : State) (d : Option Dwell) : (s.setDwell d).reports = s.reports := rfl
@[simp] theorem State.setDwell_pending (s : State) (d : Option Dwell) : (s.setDwell d).pending = s.pending := rfl

/-! `State.putDriveState` writes `drive` alone. -/

@[simp] theorem State.putDriveState_powered (s : State) (d : DriveState) : (s.putDriveState d).powered = s.powered := rfl
@[simp] theorem State.putDriveState_loops (s : State) (d : DriveState) : (s.putDriveState d).loops = s.loops := rfl
@[simp] theorem State.putDriveState_rooms (s : State) (d : DriveState) : (s.putDriveState d).rooms = s.rooms := rfl
@[simp] theorem State.putDriveState_floorList (s : State) (d : DriveState) : (s.putDriveState d).floorList = s.floorList := rfl
@[simp] theorem State.putDriveState_floorShort (s : State) (d : DriveState) : (s.putDriveState d).floorShort = s.floorShort := rfl
@[simp] theorem State.putDriveState_house (s : State) (d : DriveState) : (s.putDriveState d).house = s.house := rfl
@[simp] theorem State.putDriveState_storage (s : State) (d : DriveState) : (s.putDriveState d).storage = s.storage := rfl
@[simp] theorem State.putDriveState_channels (s : State) (d : DriveState) : (s.putDriveState d).channels = s.channels := rfl
@[simp] theorem State.putDriveState_supplyRefs (s : State) (d : DriveState) : (s.putDriveState d).supplyRefs = s.supplyRefs := rfl
@[simp] theorem State.putDriveState_timers (s : State) (d : DriveState) : (s.putDriveState d).timers = s.timers := rfl
@[simp] theorem State.putDriveState_campaigns (s : State) (d : DriveState) : (s.putDriveState d).campaigns = s.campaigns := rfl
@[simp] theorem State.putDriveState_link (s : State) (d : DriveState) : (s.putDriveState d).link = s.link := rfl
@[simp] theorem State.putDriveState_reports (s : State) (d : DriveState) : (s.putDriveState d).reports = s.reports := rfl
@[simp] theorem State.putDriveState_pending (s : State) (d : DriveState) : (s.putDriveState d).pending = s.pending := rfl

/-! `State.setChannels` writes `channels` alone. -/

@[simp] theorem State.setChannels_powered (s : State) (c : Vector Channel 28) : (s.setChannels c).powered = s.powered := rfl
@[simp] theorem State.setChannels_loops (s : State) (c : Vector Channel 28) : (s.setChannels c).loops = s.loops := rfl
@[simp] theorem State.setChannels_rooms (s : State) (c : Vector Channel 28) : (s.setChannels c).rooms = s.rooms := rfl
@[simp] theorem State.setChannels_floorList (s : State) (c : Vector Channel 28) : (s.setChannels c).floorList = s.floorList := rfl
@[simp] theorem State.setChannels_floorShort (s : State) (c : Vector Channel 28) : (s.setChannels c).floorShort = s.floorShort := rfl
@[simp] theorem State.setChannels_house (s : State) (c : Vector Channel 28) : (s.setChannels c).house = s.house := rfl
@[simp] theorem State.setChannels_storage (s : State) (c : Vector Channel 28) : (s.setChannels c).storage = s.storage := rfl
@[simp] theorem State.setChannels_drive (s : State) (c : Vector Channel 28) : (s.setChannels c).drive = s.drive := rfl
@[simp] theorem State.setChannels_supplyRefs (s : State) (c : Vector Channel 28) : (s.setChannels c).supplyRefs = s.supplyRefs := rfl
@[simp] theorem State.setChannels_timers (s : State) (c : Vector Channel 28) : (s.setChannels c).timers = s.timers := rfl
@[simp] theorem State.setChannels_campaigns (s : State) (c : Vector Channel 28) : (s.setChannels c).campaigns = s.campaigns := rfl
@[simp] theorem State.setChannels_link (s : State) (c : Vector Channel 28) : (s.setChannels c).link = s.link := rfl
@[simp] theorem State.setChannels_reports (s : State) (c : Vector Channel 28) : (s.setChannels c).reports = s.reports := rfl
@[simp] theorem State.setChannels_pending (s : State) (c : Vector Channel 28) : (s.setChannels c).pending = s.pending := rfl

/-! `State.setHouse` writes `house` alone. -/

@[simp] theorem State.setHouse_powered (s : State) (h : House) : (s.setHouse h).powered = s.powered := rfl
@[simp] theorem State.setHouse_loops (s : State) (h : House) : (s.setHouse h).loops = s.loops := rfl
@[simp] theorem State.setHouse_rooms (s : State) (h : House) : (s.setHouse h).rooms = s.rooms := rfl
@[simp] theorem State.setHouse_floorList (s : State) (h : House) : (s.setHouse h).floorList = s.floorList := rfl
@[simp] theorem State.setHouse_floorShort (s : State) (h : House) : (s.setHouse h).floorShort = s.floorShort := rfl
@[simp] theorem State.setHouse_storage (s : State) (h : House) : (s.setHouse h).storage = s.storage := rfl
@[simp] theorem State.setHouse_drive (s : State) (h : House) : (s.setHouse h).drive = s.drive := rfl
@[simp] theorem State.setHouse_channels (s : State) (h : House) : (s.setHouse h).channels = s.channels := rfl
@[simp] theorem State.setHouse_supplyRefs (s : State) (h : House) : (s.setHouse h).supplyRefs = s.supplyRefs := rfl
@[simp] theorem State.setHouse_timers (s : State) (h : House) : (s.setHouse h).timers = s.timers := rfl
@[simp] theorem State.setHouse_campaigns (s : State) (h : House) : (s.setHouse h).campaigns = s.campaigns := rfl
@[simp] theorem State.setHouse_link (s : State) (h : House) : (s.setHouse h).link = s.link := rfl
@[simp] theorem State.setHouse_reports (s : State) (h : House) : (s.setHouse h).reports = s.reports := rfl
@[simp] theorem State.setHouse_pending (s : State) (h : House) : (s.setHouse h).pending = s.pending := rfl

/-! `State.setFloorList` writes `floorList` alone. -/

@[simp] theorem State.setFloorList_powered (s : State) (l : List LoopIx) : (s.setFloorList l).powered = s.powered := rfl
@[simp] theorem State.setFloorList_loops (s : State) (l : List LoopIx) : (s.setFloorList l).loops = s.loops := rfl
@[simp] theorem State.setFloorList_rooms (s : State) (l : List LoopIx) : (s.setFloorList l).rooms = s.rooms := rfl
@[simp] theorem State.setFloorList_floorShort (s : State) (l : List LoopIx) : (s.setFloorList l).floorShort = s.floorShort := rfl
@[simp] theorem State.setFloorList_house (s : State) (l : List LoopIx) : (s.setFloorList l).house = s.house := rfl
@[simp] theorem State.setFloorList_storage (s : State) (l : List LoopIx) : (s.setFloorList l).storage = s.storage := rfl
@[simp] theorem State.setFloorList_drive (s : State) (l : List LoopIx) : (s.setFloorList l).drive = s.drive := rfl
@[simp] theorem State.setFloorList_channels (s : State) (l : List LoopIx) : (s.setFloorList l).channels = s.channels := rfl
@[simp] theorem State.setFloorList_supplyRefs (s : State) (l : List LoopIx) : (s.setFloorList l).supplyRefs = s.supplyRefs := rfl
@[simp] theorem State.setFloorList_timers (s : State) (l : List LoopIx) : (s.setFloorList l).timers = s.timers := rfl
@[simp] theorem State.setFloorList_campaigns (s : State) (l : List LoopIx) : (s.setFloorList l).campaigns = s.campaigns := rfl
@[simp] theorem State.setFloorList_link (s : State) (l : List LoopIx) : (s.setFloorList l).link = s.link := rfl
@[simp] theorem State.setFloorList_reports (s : State) (l : List LoopIx) : (s.setFloorList l).reports = s.reports := rfl
@[simp] theorem State.setFloorList_pending (s : State) (l : List LoopIx) : (s.setFloorList l).pending = s.pending := rfl

/-! `State.setFloorShort` writes `floorShort` alone. -/

@[simp] theorem State.setFloorShort_powered (s : State) (b : Bool) : (s.setFloorShort b).powered = s.powered := rfl
@[simp] theorem State.setFloorShort_loops (s : State) (b : Bool) : (s.setFloorShort b).loops = s.loops := rfl
@[simp] theorem State.setFloorShort_rooms (s : State) (b : Bool) : (s.setFloorShort b).rooms = s.rooms := rfl
@[simp] theorem State.setFloorShort_floorList (s : State) (b : Bool) : (s.setFloorShort b).floorList = s.floorList := rfl
@[simp] theorem State.setFloorShort_house (s : State) (b : Bool) : (s.setFloorShort b).house = s.house := rfl
@[simp] theorem State.setFloorShort_storage (s : State) (b : Bool) : (s.setFloorShort b).storage = s.storage := rfl
@[simp] theorem State.setFloorShort_drive (s : State) (b : Bool) : (s.setFloorShort b).drive = s.drive := rfl
@[simp] theorem State.setFloorShort_channels (s : State) (b : Bool) : (s.setFloorShort b).channels = s.channels := rfl
@[simp] theorem State.setFloorShort_supplyRefs (s : State) (b : Bool) : (s.setFloorShort b).supplyRefs = s.supplyRefs := rfl
@[simp] theorem State.setFloorShort_timers (s : State) (b : Bool) : (s.setFloorShort b).timers = s.timers := rfl
@[simp] theorem State.setFloorShort_campaigns (s : State) (b : Bool) : (s.setFloorShort b).campaigns = s.campaigns := rfl
@[simp] theorem State.setFloorShort_link (s : State) (b : Bool) : (s.setFloorShort b).link = s.link := rfl
@[simp] theorem State.setFloorShort_reports (s : State) (b : Bool) : (s.setFloorShort b).reports = s.reports := rfl
@[simp] theorem State.setFloorShort_pending (s : State) (b : Bool) : (s.setFloorShort b).pending = s.pending := rfl

/-! `State.setStorage` writes `storage` alone. -/

@[simp] theorem State.setStorage_powered (s : State) (x : Storage) : (s.setStorage x).powered = s.powered := rfl
@[simp] theorem State.setStorage_loops (s : State) (x : Storage) : (s.setStorage x).loops = s.loops := rfl
@[simp] theorem State.setStorage_rooms (s : State) (x : Storage) : (s.setStorage x).rooms = s.rooms := rfl
@[simp] theorem State.setStorage_floorList (s : State) (x : Storage) : (s.setStorage x).floorList = s.floorList := rfl
@[simp] theorem State.setStorage_floorShort (s : State) (x : Storage) : (s.setStorage x).floorShort = s.floorShort := rfl
@[simp] theorem State.setStorage_house (s : State) (x : Storage) : (s.setStorage x).house = s.house := rfl
@[simp] theorem State.setStorage_drive (s : State) (x : Storage) : (s.setStorage x).drive = s.drive := rfl
@[simp] theorem State.setStorage_channels (s : State) (x : Storage) : (s.setStorage x).channels = s.channels := rfl
@[simp] theorem State.setStorage_supplyRefs (s : State) (x : Storage) : (s.setStorage x).supplyRefs = s.supplyRefs := rfl
@[simp] theorem State.setStorage_timers (s : State) (x : Storage) : (s.setStorage x).timers = s.timers := rfl
@[simp] theorem State.setStorage_campaigns (s : State) (x : Storage) : (s.setStorage x).campaigns = s.campaigns := rfl
@[simp] theorem State.setStorage_link (s : State) (x : Storage) : (s.setStorage x).link = s.link := rfl
@[simp] theorem State.setStorage_reports (s : State) (x : Storage) : (s.setStorage x).reports = s.reports := rfl
@[simp] theorem State.setStorage_pending (s : State) (x : Storage) : (s.setStorage x).pending = s.pending := rfl

/-! `State.mark` writes `reports` alone. -/

@[simp] theorem State.mark_powered (s : State) (w : WatchTable) (n : Nat) (b : Bool) : (s.mark w n b).powered = s.powered := rfl
@[simp] theorem State.mark_loops (s : State) (w : WatchTable) (n : Nat) (b : Bool) : (s.mark w n b).loops = s.loops := rfl
@[simp] theorem State.mark_rooms (s : State) (w : WatchTable) (n : Nat) (b : Bool) : (s.mark w n b).rooms = s.rooms := rfl
@[simp] theorem State.mark_floorList (s : State) (w : WatchTable) (n : Nat) (b : Bool) : (s.mark w n b).floorList = s.floorList := rfl
@[simp] theorem State.mark_floorShort (s : State) (w : WatchTable) (n : Nat) (b : Bool) : (s.mark w n b).floorShort = s.floorShort := rfl
@[simp] theorem State.mark_house (s : State) (w : WatchTable) (n : Nat) (b : Bool) : (s.mark w n b).house = s.house := rfl
@[simp] theorem State.mark_storage (s : State) (w : WatchTable) (n : Nat) (b : Bool) : (s.mark w n b).storage = s.storage := rfl
@[simp] theorem State.mark_drive (s : State) (w : WatchTable) (n : Nat) (b : Bool) : (s.mark w n b).drive = s.drive := rfl
@[simp] theorem State.mark_channels (s : State) (w : WatchTable) (n : Nat) (b : Bool) : (s.mark w n b).channels = s.channels := rfl
@[simp] theorem State.mark_supplyRefs (s : State) (w : WatchTable) (n : Nat) (b : Bool) : (s.mark w n b).supplyRefs = s.supplyRefs := rfl
@[simp] theorem State.mark_timers (s : State) (w : WatchTable) (n : Nat) (b : Bool) : (s.mark w n b).timers = s.timers := rfl
@[simp] theorem State.mark_campaigns (s : State) (w : WatchTable) (n : Nat) (b : Bool) : (s.mark w n b).campaigns = s.campaigns := rfl
@[simp] theorem State.mark_link (s : State) (w : WatchTable) (n : Nat) (b : Bool) : (s.mark w n b).link = s.link := rfl
@[simp] theorem State.mark_pending (s : State) (w : WatchTable) (n : Nat) (b : Bool) : (s.mark w n b).pending = s.pending := rfl

/-! `State.markLoop` writes `reports` alone. -/

@[simp] theorem State.markLoop_powered (s : State) (i : LoopIx) (b : Bool) : (s.markLoop i b).powered = s.powered := rfl
@[simp] theorem State.markLoop_loops (s : State) (i : LoopIx) (b : Bool) : (s.markLoop i b).loops = s.loops := rfl
@[simp] theorem State.markLoop_rooms (s : State) (i : LoopIx) (b : Bool) : (s.markLoop i b).rooms = s.rooms := rfl
@[simp] theorem State.markLoop_floorList (s : State) (i : LoopIx) (b : Bool) : (s.markLoop i b).floorList = s.floorList := rfl
@[simp] theorem State.markLoop_floorShort (s : State) (i : LoopIx) (b : Bool) : (s.markLoop i b).floorShort = s.floorShort := rfl
@[simp] theorem State.markLoop_house (s : State) (i : LoopIx) (b : Bool) : (s.markLoop i b).house = s.house := rfl
@[simp] theorem State.markLoop_storage (s : State) (i : LoopIx) (b : Bool) : (s.markLoop i b).storage = s.storage := rfl
@[simp] theorem State.markLoop_drive (s : State) (i : LoopIx) (b : Bool) : (s.markLoop i b).drive = s.drive := rfl
@[simp] theorem State.markLoop_channels (s : State) (i : LoopIx) (b : Bool) : (s.markLoop i b).channels = s.channels := rfl
@[simp] theorem State.markLoop_supplyRefs (s : State) (i : LoopIx) (b : Bool) : (s.markLoop i b).supplyRefs = s.supplyRefs := rfl
@[simp] theorem State.markLoop_timers (s : State) (i : LoopIx) (b : Bool) : (s.markLoop i b).timers = s.timers := rfl
@[simp] theorem State.markLoop_campaigns (s : State) (i : LoopIx) (b : Bool) : (s.markLoop i b).campaigns = s.campaigns := rfl
@[simp] theorem State.markLoop_link (s : State) (i : LoopIx) (b : Bool) : (s.markLoop i b).link = s.link := rfl
@[simp] theorem State.markLoop_pending (s : State) (i : LoopIx) (b : Bool) : (s.markLoop i b).pending = s.pending := rfl

/-! `State.markRoom` writes `reports` alone. -/

@[simp] theorem State.markRoom_powered (s : State) (r : RoomIx) (b : Bool) : (s.markRoom r b).powered = s.powered := rfl
@[simp] theorem State.markRoom_loops (s : State) (r : RoomIx) (b : Bool) : (s.markRoom r b).loops = s.loops := rfl
@[simp] theorem State.markRoom_rooms (s : State) (r : RoomIx) (b : Bool) : (s.markRoom r b).rooms = s.rooms := rfl
@[simp] theorem State.markRoom_floorList (s : State) (r : RoomIx) (b : Bool) : (s.markRoom r b).floorList = s.floorList := rfl
@[simp] theorem State.markRoom_floorShort (s : State) (r : RoomIx) (b : Bool) : (s.markRoom r b).floorShort = s.floorShort := rfl
@[simp] theorem State.markRoom_house (s : State) (r : RoomIx) (b : Bool) : (s.markRoom r b).house = s.house := rfl
@[simp] theorem State.markRoom_storage (s : State) (r : RoomIx) (b : Bool) : (s.markRoom r b).storage = s.storage := rfl
@[simp] theorem State.markRoom_drive (s : State) (r : RoomIx) (b : Bool) : (s.markRoom r b).drive = s.drive := rfl
@[simp] theorem State.markRoom_channels (s : State) (r : RoomIx) (b : Bool) : (s.markRoom r b).channels = s.channels := rfl
@[simp] theorem State.markRoom_supplyRefs (s : State) (r : RoomIx) (b : Bool) : (s.markRoom r b).supplyRefs = s.supplyRefs := rfl
@[simp] theorem State.markRoom_timers (s : State) (r : RoomIx) (b : Bool) : (s.markRoom r b).timers = s.timers := rfl
@[simp] theorem State.markRoom_campaigns (s : State) (r : RoomIx) (b : Bool) : (s.markRoom r b).campaigns = s.campaigns := rfl
@[simp] theorem State.markRoom_link (s : State) (r : RoomIx) (b : Bool) : (s.markRoom r b).link = s.link := rfl
@[simp] theorem State.markRoom_pending (s : State) (r : RoomIx) (b : Bool) : (s.markRoom r b).pending = s.pending := rfl

/-! `State.markHouse` writes `reports` alone. -/

@[simp] theorem State.markHouse_powered (s : State) (b : Bool) : (s.markHouse b).powered = s.powered := rfl
@[simp] theorem State.markHouse_loops (s : State) (b : Bool) : (s.markHouse b).loops = s.loops := rfl
@[simp] theorem State.markHouse_rooms (s : State) (b : Bool) : (s.markHouse b).rooms = s.rooms := rfl
@[simp] theorem State.markHouse_floorList (s : State) (b : Bool) : (s.markHouse b).floorList = s.floorList := rfl
@[simp] theorem State.markHouse_floorShort (s : State) (b : Bool) : (s.markHouse b).floorShort = s.floorShort := rfl
@[simp] theorem State.markHouse_house (s : State) (b : Bool) : (s.markHouse b).house = s.house := rfl
@[simp] theorem State.markHouse_storage (s : State) (b : Bool) : (s.markHouse b).storage = s.storage := rfl
@[simp] theorem State.markHouse_drive (s : State) (b : Bool) : (s.markHouse b).drive = s.drive := rfl
@[simp] theorem State.markHouse_channels (s : State) (b : Bool) : (s.markHouse b).channels = s.channels := rfl
@[simp] theorem State.markHouse_supplyRefs (s : State) (b : Bool) : (s.markHouse b).supplyRefs = s.supplyRefs := rfl
@[simp] theorem State.markHouse_timers (s : State) (b : Bool) : (s.markHouse b).timers = s.timers := rfl
@[simp] theorem State.markHouse_campaigns (s : State) (b : Bool) : (s.markHouse b).campaigns = s.campaigns := rfl
@[simp] theorem State.markHouse_link (s : State) (b : Bool) : (s.markHouse b).link = s.link := rfl
@[simp] theorem State.markHouse_pending (s : State) (b : Bool) : (s.markHouse b).pending = s.pending := rfl

/-! `State.clearReports` writes `reports` alone. -/

@[simp] theorem State.clearReports_powered (s : State) : (s.clearReports).powered = s.powered := rfl
@[simp] theorem State.clearReports_loops (s : State) : (s.clearReports).loops = s.loops := rfl
@[simp] theorem State.clearReports_rooms (s : State) : (s.clearReports).rooms = s.rooms := rfl
@[simp] theorem State.clearReports_floorList (s : State) : (s.clearReports).floorList = s.floorList := rfl
@[simp] theorem State.clearReports_floorShort (s : State) : (s.clearReports).floorShort = s.floorShort := rfl
@[simp] theorem State.clearReports_house (s : State) : (s.clearReports).house = s.house := rfl
@[simp] theorem State.clearReports_storage (s : State) : (s.clearReports).storage = s.storage := rfl
@[simp] theorem State.clearReports_drive (s : State) : (s.clearReports).drive = s.drive := rfl
@[simp] theorem State.clearReports_channels (s : State) : (s.clearReports).channels = s.channels := rfl
@[simp] theorem State.clearReports_supplyRefs (s : State) : (s.clearReports).supplyRefs = s.supplyRefs := rfl
@[simp] theorem State.clearReports_timers (s : State) : (s.clearReports).timers = s.timers := rfl
@[simp] theorem State.clearReports_campaigns (s : State) : (s.clearReports).campaigns = s.campaigns := rfl
@[simp] theorem State.clearReports_link (s : State) : (s.clearReports).link = s.link := rfl
@[simp] theorem State.clearReports_pending (s : State) : (s.clearReports).pending = s.pending := rfl

/-! `State.markLoopIf` writes `reports` alone. -/

@[simp] theorem State.markLoopIf_powered (s : State) (c : Bool) (i : LoopIx) (b : Bool) : (s.markLoopIf c i b).powered = s.powered := by cases c <;> rfl
@[simp] theorem State.markLoopIf_loops (s : State) (c : Bool) (i : LoopIx) (b : Bool) : (s.markLoopIf c i b).loops = s.loops := by cases c <;> rfl
@[simp] theorem State.markLoopIf_rooms (s : State) (c : Bool) (i : LoopIx) (b : Bool) : (s.markLoopIf c i b).rooms = s.rooms := by cases c <;> rfl
@[simp] theorem State.markLoopIf_floorList (s : State) (c : Bool) (i : LoopIx) (b : Bool) : (s.markLoopIf c i b).floorList = s.floorList := by cases c <;> rfl
@[simp] theorem State.markLoopIf_floorShort (s : State) (c : Bool) (i : LoopIx) (b : Bool) : (s.markLoopIf c i b).floorShort = s.floorShort := by cases c <;> rfl
@[simp] theorem State.markLoopIf_house (s : State) (c : Bool) (i : LoopIx) (b : Bool) : (s.markLoopIf c i b).house = s.house := by cases c <;> rfl
@[simp] theorem State.markLoopIf_storage (s : State) (c : Bool) (i : LoopIx) (b : Bool) : (s.markLoopIf c i b).storage = s.storage := by cases c <;> rfl
@[simp] theorem State.markLoopIf_drive (s : State) (c : Bool) (i : LoopIx) (b : Bool) : (s.markLoopIf c i b).drive = s.drive := by cases c <;> rfl
@[simp] theorem State.markLoopIf_channels (s : State) (c : Bool) (i : LoopIx) (b : Bool) : (s.markLoopIf c i b).channels = s.channels := by cases c <;> rfl
@[simp] theorem State.markLoopIf_supplyRefs (s : State) (c : Bool) (i : LoopIx) (b : Bool) : (s.markLoopIf c i b).supplyRefs = s.supplyRefs := by cases c <;> rfl
@[simp] theorem State.markLoopIf_timers (s : State) (c : Bool) (i : LoopIx) (b : Bool) : (s.markLoopIf c i b).timers = s.timers := by cases c <;> rfl
@[simp] theorem State.markLoopIf_campaigns (s : State) (c : Bool) (i : LoopIx) (b : Bool) : (s.markLoopIf c i b).campaigns = s.campaigns := by cases c <;> rfl
@[simp] theorem State.markLoopIf_link (s : State) (c : Bool) (i : LoopIx) (b : Bool) : (s.markLoopIf c i b).link = s.link := by cases c <;> rfl
@[simp] theorem State.markLoopIf_pending (s : State) (c : Bool) (i : LoopIx) (b : Bool) : (s.markLoopIf c i b).pending = s.pending := by cases c <;> rfl

/-! `State.markRoomIf` writes `reports` alone. -/

@[simp] theorem State.markRoomIf_powered (s : State) (c : Bool) (r : RoomIx) (b : Bool) : (s.markRoomIf c r b).powered = s.powered := by cases c <;> rfl
@[simp] theorem State.markRoomIf_loops (s : State) (c : Bool) (r : RoomIx) (b : Bool) : (s.markRoomIf c r b).loops = s.loops := by cases c <;> rfl
@[simp] theorem State.markRoomIf_rooms (s : State) (c : Bool) (r : RoomIx) (b : Bool) : (s.markRoomIf c r b).rooms = s.rooms := by cases c <;> rfl
@[simp] theorem State.markRoomIf_floorList (s : State) (c : Bool) (r : RoomIx) (b : Bool) : (s.markRoomIf c r b).floorList = s.floorList := by cases c <;> rfl
@[simp] theorem State.markRoomIf_floorShort (s : State) (c : Bool) (r : RoomIx) (b : Bool) : (s.markRoomIf c r b).floorShort = s.floorShort := by cases c <;> rfl
@[simp] theorem State.markRoomIf_house (s : State) (c : Bool) (r : RoomIx) (b : Bool) : (s.markRoomIf c r b).house = s.house := by cases c <;> rfl
@[simp] theorem State.markRoomIf_storage (s : State) (c : Bool) (r : RoomIx) (b : Bool) : (s.markRoomIf c r b).storage = s.storage := by cases c <;> rfl
@[simp] theorem State.markRoomIf_drive (s : State) (c : Bool) (r : RoomIx) (b : Bool) : (s.markRoomIf c r b).drive = s.drive := by cases c <;> rfl
@[simp] theorem State.markRoomIf_channels (s : State) (c : Bool) (r : RoomIx) (b : Bool) : (s.markRoomIf c r b).channels = s.channels := by cases c <;> rfl
@[simp] theorem State.markRoomIf_supplyRefs (s : State) (c : Bool) (r : RoomIx) (b : Bool) : (s.markRoomIf c r b).supplyRefs = s.supplyRefs := by cases c <;> rfl
@[simp] theorem State.markRoomIf_timers (s : State) (c : Bool) (r : RoomIx) (b : Bool) : (s.markRoomIf c r b).timers = s.timers := by cases c <;> rfl
@[simp] theorem State.markRoomIf_campaigns (s : State) (c : Bool) (r : RoomIx) (b : Bool) : (s.markRoomIf c r b).campaigns = s.campaigns := by cases c <;> rfl
@[simp] theorem State.markRoomIf_link (s : State) (c : Bool) (r : RoomIx) (b : Bool) : (s.markRoomIf c r b).link = s.link := by cases c <;> rfl
@[simp] theorem State.markRoomIf_pending (s : State) (c : Bool) (r : RoomIx) (b : Bool) : (s.markRoomIf c r b).pending = s.pending := by cases c <;> rfl

/-! `State.markHouseIf` writes `reports` alone. -/

@[simp] theorem State.markHouseIf_powered (s : State) (c : Bool) (b : Bool) : (s.markHouseIf c b).powered = s.powered := by cases c <;> rfl
@[simp] theorem State.markHouseIf_loops (s : State) (c : Bool) (b : Bool) : (s.markHouseIf c b).loops = s.loops := by cases c <;> rfl
@[simp] theorem State.markHouseIf_rooms (s : State) (c : Bool) (b : Bool) : (s.markHouseIf c b).rooms = s.rooms := by cases c <;> rfl
@[simp] theorem State.markHouseIf_floorList (s : State) (c : Bool) (b : Bool) : (s.markHouseIf c b).floorList = s.floorList := by cases c <;> rfl
@[simp] theorem State.markHouseIf_floorShort (s : State) (c : Bool) (b : Bool) : (s.markHouseIf c b).floorShort = s.floorShort := by cases c <;> rfl
@[simp] theorem State.markHouseIf_house (s : State) (c : Bool) (b : Bool) : (s.markHouseIf c b).house = s.house := by cases c <;> rfl
@[simp] theorem State.markHouseIf_storage (s : State) (c : Bool) (b : Bool) : (s.markHouseIf c b).storage = s.storage := by cases c <;> rfl
@[simp] theorem State.markHouseIf_drive (s : State) (c : Bool) (b : Bool) : (s.markHouseIf c b).drive = s.drive := by cases c <;> rfl
@[simp] theorem State.markHouseIf_channels (s : State) (c : Bool) (b : Bool) : (s.markHouseIf c b).channels = s.channels := by cases c <;> rfl
@[simp] theorem State.markHouseIf_supplyRefs (s : State) (c : Bool) (b : Bool) : (s.markHouseIf c b).supplyRefs = s.supplyRefs := by cases c <;> rfl
@[simp] theorem State.markHouseIf_timers (s : State) (c : Bool) (b : Bool) : (s.markHouseIf c b).timers = s.timers := by cases c <;> rfl
@[simp] theorem State.markHouseIf_campaigns (s : State) (c : Bool) (b : Bool) : (s.markHouseIf c b).campaigns = s.campaigns := by cases c <;> rfl
@[simp] theorem State.markHouseIf_link (s : State) (c : Bool) (b : Bool) : (s.markHouseIf c b).link = s.link := by cases c <;> rfl
@[simp] theorem State.markHouseIf_pending (s : State) (c : Bool) (b : Bool) : (s.markHouseIf c b).pending = s.pending := by cases c <;> rfl

/-! The parts of the Drive Queue and of the link after a write of one. -/

@[simp] theorem State.setQueue_drive_moving (s : State) (x : List Entry) : (s.setQueue x).drive.moving = s.drive.moving := rfl
@[simp] theorem State.setQueue_drive_queue (s : State) (x : List Entry) : (s.setQueue x).drive.queue = x := rfl
@[simp] theorem State.setQueue_drive_dwell (s : State) (x : List Entry) : (s.setQueue x).drive.dwell = s.drive.dwell := rfl
@[simp] theorem State.setQueue_drive_state (s : State) (x : List Entry) : (s.setQueue x).drive.state = s.drive.state := rfl
@[simp] theorem State.setMoving_drive_moving (s : State) (x : Option Move) : (s.setMoving x).drive.moving = x := rfl
@[simp] theorem State.setMoving_drive_queue (s : State) (x : Option Move) : (s.setMoving x).drive.queue = s.drive.queue := rfl
@[simp] theorem State.setMoving_drive_dwell (s : State) (x : Option Move) : (s.setMoving x).drive.dwell = s.drive.dwell := rfl
@[simp] theorem State.setMoving_drive_state (s : State) (x : Option Move) : (s.setMoving x).drive.state = s.drive.state := rfl
@[simp] theorem State.setDwell_drive_moving (s : State) (x : Option Dwell) : (s.setDwell x).drive.moving = s.drive.moving := rfl
@[simp] theorem State.setDwell_drive_queue (s : State) (x : Option Dwell) : (s.setDwell x).drive.queue = s.drive.queue := rfl
@[simp] theorem State.setDwell_drive_dwell (s : State) (x : Option Dwell) : (s.setDwell x).drive.dwell = x := rfl
@[simp] theorem State.setDwell_drive_state (s : State) (x : Option Dwell) : (s.setDwell x).drive.state = s.drive.state := rfl
@[simp] theorem State.putDriveState_drive_moving (s : State) (x : DriveState) : (s.putDriveState x).drive.moving = s.drive.moving := rfl
@[simp] theorem State.putDriveState_drive_queue (s : State) (x : DriveState) : (s.putDriveState x).drive.queue = s.drive.queue := rfl
@[simp] theorem State.putDriveState_drive_dwell (s : State) (x : DriveState) : (s.putDriveState x).drive.dwell = s.drive.dwell := rfl
@[simp] theorem State.putDriveState_drive_state (s : State) (x : DriveState) : (s.putDriveState x).drive.state = x := rfl
@[simp] theorem State.setDrive_drive (s : State) (d : Drive) : (s.setDrive d).drive = d := rfl
@[simp] theorem State.setWindow_link_roster (s : State) (x : Window) : (s.setWindow x).link.roster = s.link.roster := rfl
@[simp] theorem State.setWindow_link_window (s : State) (x : Window) : (s.setWindow x).link.window = x := rfl
@[simp] theorem State.setWindow_link_cursor (s : State) (x : Window) : (s.setWindow x).link.cursor = s.link.cursor := rfl
@[simp] theorem State.setWindow_link_lineBreak (s : State) (x : Window) : (s.setWindow x).link.lineBreak = s.link.lineBreak := rfl
@[simp] theorem State.setWindow_link_sent (s : State) (x : Window) : (s.setWindow x).link.sent = s.link.sent := rfl
@[simp] theorem State.setCursor_link_roster (s : State) (x : Nat) : (s.setCursor x).link.roster = s.link.roster := rfl
@[simp] theorem State.setCursor_link_window (s : State) (x : Nat) : (s.setCursor x).link.window = s.link.window := rfl
@[simp] theorem State.setCursor_link_cursor (s : State) (x : Nat) : (s.setCursor x).link.cursor = x := rfl
@[simp] theorem State.setCursor_link_lineBreak (s : State) (x : Nat) : (s.setCursor x).link.lineBreak = s.link.lineBreak := rfl
@[simp] theorem State.setCursor_link_sent (s : State) (x : Nat) : (s.setCursor x).link.sent = s.link.sent := rfl
@[simp] theorem State.setBreak_link_roster (s : State) (x : LineBreak) : (s.setBreak x).link.roster = s.link.roster := rfl
@[simp] theorem State.setBreak_link_window (s : State) (x : LineBreak) : (s.setBreak x).link.window = s.link.window := rfl
@[simp] theorem State.setBreak_link_cursor (s : State) (x : LineBreak) : (s.setBreak x).link.cursor = s.link.cursor := rfl
@[simp] theorem State.setBreak_link_lineBreak (s : State) (x : LineBreak) : (s.setBreak x).link.lineBreak = x := rfl
@[simp] theorem State.setBreak_link_sent (s : State) (x : LineBreak) : (s.setBreak x).link.sent = s.link.sent := rfl
@[simp] theorem State.setRoster_link_roster (s : State) (x : Vector (Option Slot) 18) : (s.setRoster x).link.roster = x := rfl
@[simp] theorem State.setRoster_link_window (s : State) (x : Vector (Option Slot) 18) : (s.setRoster x).link.window = s.link.window := rfl
@[simp] theorem State.setRoster_link_cursor (s : State) (x : Vector (Option Slot) 18) : (s.setRoster x).link.cursor = s.link.cursor := rfl
@[simp] theorem State.setRoster_link_lineBreak (s : State) (x : Vector (Option Slot) 18) : (s.setRoster x).link.lineBreak = s.link.lineBreak := rfl
@[simp] theorem State.setRoster_link_sent (s : State) (x : Vector (Option Slot) 18) : (s.setRoster x).link.sent = s.link.sent := rfl
@[simp] theorem State.setSent_link_roster (s : State) (x : List Byte) : (s.setSent x).link.roster = s.link.roster := rfl
@[simp] theorem State.setSent_link_window (s : State) (x : List Byte) : (s.setSent x).link.window = s.link.window := rfl
@[simp] theorem State.setSent_link_cursor (s : State) (x : List Byte) : (s.setSent x).link.cursor = s.link.cursor := rfl
@[simp] theorem State.setSent_link_lineBreak (s : State) (x : List Byte) : (s.setSent x).link.lineBreak = s.link.lineBreak := rfl
@[simp] theorem State.setSent_link_sent (s : State) (x : List Byte) : (s.setSent x).link.sent = x := rfl
@[simp] theorem State.setSlot_link_window (s : State) (k : SlotIx) (x : Option Slot) : (s.setSlot k x).link.window = s.link.window := rfl
@[simp] theorem State.setSlot_link_cursor (s : State) (k : SlotIx) (x : Option Slot) : (s.setSlot k x).link.cursor = s.link.cursor := rfl
@[simp] theorem State.setSlot_link_lineBreak (s : State) (k : SlotIx) (x : Option Slot) : (s.setSlot k x).link.lineBreak = s.link.lineBreak := rfl
@[simp] theorem State.setSlot_link_sent (s : State) (k : SlotIx) (x : Option Slot) : (s.setSlot k x).link.sent = s.link.sent := rfl
@[simp] theorem State.mapSlots_link_window (s : State) (f : Slot → Slot) : (s.mapSlots f).link.window = s.link.window := by simp only [State.mapSlots]
@[simp] theorem State.mapSlots_link_cursor (s : State) (f : Slot → Slot) : (s.mapSlots f).link.cursor = s.link.cursor := by simp only [State.mapSlots]
@[simp] theorem State.mapSlots_link_lineBreak (s : State) (f : Slot → Slot) : (s.mapSlots f).link.lineBreak = s.link.lineBreak := by simp only [State.mapSlots]
@[simp] theorem State.mapSlots_link_sent (s : State) (f : Slot → Slot) : (s.mapSlots f).link.sent = s.link.sent := by simp only [State.mapSlots]
@[simp] theorem State.setHouse_house (s : State) (x : House) : (s.setHouse x).house = x := rfl
@[simp] theorem State.setFloorShort_floorShort (s : State) (x : Bool) : (s.setFloorShort x).floorShort = x := rfl
@[simp] theorem State.setFloorList_floorList (s : State) (x : List LoopIx) : (s.setFloorList x).floorList = x := rfl
@[simp] theorem State.setStorage_storage (s : State) (x : Storage) : (s.setStorage x).storage = x := rfl
@[simp] theorem State.setChannels_channels (s : State) (x : Vector Channel 28) : (s.setChannels x).channels = x := rfl
@[simp] theorem State.clearReports_reports (s : State) : s.clearReports.reports = [] := rfl

/-! Reads after writes. -/

/-- A loop read after a write of one. -/
theorem State.loop_setLoop (s : State) (i j : LoopIx) (l : Loop) :
    (s.setLoop i l).loop j = if i = j then l else s.loop j := by
  simp only [State.loop, State.setLoop, Fin.getElem_fin, Vector.getElem_set, Fin.ext_iff]

/-- A loop read after a change of one. -/
theorem State.loop_modLoop (s : State) (i j : LoopIx) (f : Loop → Loop) :
    (s.modLoop i f).loop j = if i = j then f (s.loop i) else s.loop j := s.loop_setLoop i j _

@[simp] theorem State.loop_setLoop_self (s : State) (i : LoopIx) (l : Loop) : (s.setLoop i l).loop i = l := by
  simp [State.loop_setLoop]

@[simp] theorem State.loop_modLoop_self (s : State) (i : LoopIx) (f : Loop → Loop) :
    (s.modLoop i f).loop i = f (s.loop i) := by simp [State.loop_modLoop]

@[simp] theorem State.loop_mapLoops (s : State) (f : LoopIx → Loop → Loop) (j : LoopIx) :
    (s.mapLoops f).loop j = f j (s.loop j) := by simp [State.loop, State.mapLoops]

/-- A loop of a state with the loops of another. -/
theorem State.loop_congr {s t : State} (h : t.loops = s.loops) (i : LoopIx) : t.loop i = s.loop i := by
  simp [State.loop, h]

/-- A room read after a write of one. -/
theorem State.room_setRoom (s : State) (r q : RoomIx) (x : Room) :
    (s.setRoom r x).room q = if r = q then x else s.room q := by
  simp only [State.room, State.setRoom, Fin.getElem_fin, Vector.getElem_set, Fin.ext_iff]

@[simp] theorem State.room_setRoom_self (s : State) (r : RoomIx) (x : Room) : (s.setRoom r x).room r = x := by
  simp [State.room_setRoom]

@[simp] theorem State.room_mapRooms (s : State) (f : Room → Room) (r : RoomIx) :
    (s.mapRooms f).room r = f (s.room r) := by simp [State.room, State.mapRooms]

/-- A room, a slot and a channel of a state with the records of another. -/
theorem State.room_congr {s t : State} (h : t.rooms = s.rooms) (r : RoomIx) : t.room r = s.room r := by
  simp [State.room, h]
theorem State.slot_congr {s t : State} (h : t.link.roster = s.link.roster) (k : SlotIx) : t.slot k = s.slot k := by
  simp [State.slot, h]
theorem State.channel_congr {s t : State} (h : t.channels = s.channels) (c : ChannelIx) :
    t.channel c = s.channel c := by
  simp [State.channel, h]

@[simp] theorem State.slot_setWindow (s : State) (w : Window) (k : SlotIx) : (s.setWindow w).slot k = s.slot k := rfl
@[simp] theorem State.slot_setSent (s : State) (x : List Byte) (k : SlotIx) : (s.setSent x).slot k = s.slot k := rfl
@[simp] theorem State.slot_setCursor (s : State) (n : Nat) (k : SlotIx) : (s.setCursor n).slot k = s.slot k := rfl
@[simp] theorem State.slot_setBreak (s : State) (b : LineBreak) (k : SlotIx) : (s.setBreak b).slot k = s.slot k := rfl
@[simp] theorem State.slot_clearReports (s : State) (k : SlotIx) : (s.clearReports).slot k = s.slot k := rfl
@[simp] theorem State.slot_mark (s : State) (w : WatchTable) (n : Nat) (b : Bool) (k : SlotIx) : (s.mark w n b).slot k = s.slot k := rfl
@[simp] theorem State.slot_markHouse (s : State) (b : Bool) (k : SlotIx) : (s.markHouse b).slot k = s.slot k := rfl

@[simp] theorem State.slot_mapSlots (s : State) (f : Slot → Slot) (k : SlotIx) :
    (s.mapSlots f).slot k = (s.slot k).map f := by
  simp only [State.slot, State.mapSlots, Fin.getElem_fin, Vector.getElem_ofFn]

/-- A slot read after a write of one. -/
theorem State.slot_setSlot (s : State) (k j : SlotIx) (x : Option Slot) :
    (s.setSlot k x).slot j = if k = j then x else s.slot j := by
  simp only [State.slot, State.setSlot, Fin.getElem_fin, Vector.getElem_set, Fin.ext_iff]

@[simp] theorem State.slot_setSlot_self (s : State) (k : SlotIx) (x : Option Slot) : (s.setSlot k x).slot k = x := by
  simp [State.slot_setSlot]

@[simp] theorem PerManifold.get_set {α : Type} (p : PerManifold α) (m : Manifold) (x : α) : (p.set m x).get m = x := by
  cases m <;> rfl

/-- One thing of a pair read after a write of the other's. -/
theorem PerManifold.get_set_ne {α : Type} (p : PerManifold α) {m n : Manifold} (h : m ≠ n) (x : α) :
    (p.set m x).get n = p.get n := by
  cases m <;> cases n <;> first | rfl | exact absurd rfl h

@[simp] theorem State.campaign_setCampaign (s : State) (m : Manifold) (c : Campaign) :
    (s.setCampaign m c).campaign m = c := by simp [State.campaign, State.setCampaign]

@[simp] theorem State.timer_setTimer (s : State) (m : Manifold) (x : RoundTimer) : (s.setTimer m x).timer m = x := by
  simp [State.timer, State.setTimer]

/-! What a loop over a list leaves alone, or keeps. -/

/-- What every pass keeps, the whole keeps. -/
theorem State.forEach_keeps {α : Type} {P : State → Prop} {f : State → α → State} (h : ∀ t a, P t → P (f t a))
    (l : List α) : ∀ s : State, P s → P (s.forEach l f) := by
  induction l with
  | nil => exact fun _ hs => hs
  | cons a l ih => exact fun s hs => ih (f s a) (h s a hs)

/-- A relation that every pass has, reflexive and transitive, the whole has. -/
theorem State.forEach_rel {α : Type} {R : State → State → Prop} {f : State → α → State} (refl : ∀ s, R s s)
    (trans : ∀ s t u, R s t → R t u → R s u) (h : ∀ t a, R t (f t a)) (l : List α) (s : State) :
    R s (s.forEach l f) :=
  State.forEach_keeps (P := fun t => R s t) (fun t a hst => trans _ _ _ hst (h t a)) l s (refl s)

end Sys2Proof.Machine
end

