-- ==== Sys2Proof/Laws/Frames.lean ====
section
/-! SUPPORT. What the shared operations of the Drive Queue and the Demand Unit leave alone (`Quiet`), and what the
operations of moves, lifecycles, rounds and campaigns leave alone (`Calm`), said once for each operation. -/

namespace Sys2Proof.Machine

/-! ### Quiet: wants, entries, strokes and open counters -/

theorem Loop.Steady.refl (l : Loop) : l.Steady l := rfl

theorem Loop.Steady.trans {l x y : Loop} (h : l.Steady x) (g : x.Steady y) : l.Steady y := by
  rcases l with ⟨⟩
  rcases x with ⟨⟩
  rcases y with ⟨⟩
  simp only [Loop.Steady, Loop.mk.injEq] at *
  simp_all

/-- What wants, entries, strokes and open counters cannot change. -/
structure State.Quiet (s t : State) : Prop where
  powered : t.powered = s.powered
  rooms : t.rooms = s.rooms
  floorList : t.floorList = s.floorList
  house : t.house = s.house
  storage : t.storage = s.storage
  channels : t.channels = s.channels
  supplyRefs : t.supplyRefs = s.supplyRefs
  timers : t.timers = s.timers
  campaigns : t.campaigns = s.campaigns
  link : t.link = s.link
  pending : t.pending = s.pending
  moving : t.drive.moving = s.drive.moving
  dwell : t.drive.dwell = s.drive.dwell
  state : t.drive.state = s.drive.state
  loops : ∀ i, (s.loop i).Steady (t.loop i)

theorem State.Quiet.refl (s : State) : s.Quiet s :=
  ⟨rfl, rfl, rfl, rfl, rfl, rfl, rfl, rfl, rfl, rfl, rfl, rfl, rfl, rfl, fun _ => rfl⟩

theorem State.Quiet.trans {s t u : State} (h : s.Quiet t) (g : t.Quiet u) : s.Quiet u :=
  ⟨g.powered.trans h.powered, g.rooms.trans h.rooms, g.floorList.trans h.floorList, g.house.trans h.house,
    g.storage.trans h.storage, g.channels.trans h.channels, g.supplyRefs.trans h.supplyRefs, g.timers.trans h.timers,
    g.campaigns.trans h.campaigns, g.link.trans h.link, g.pending.trans h.pending, g.moving.trans h.moving,
    g.dwell.trans h.dwell, g.state.trans h.state, fun i => (h.loops i).trans (g.loops i)⟩

/-- A change of one loop that keeps it steady is quiet. -/
theorem State.quiet_modLoop (s : State) (i : LoopIx) {f : Loop → Loop} (h : ∀ l : Loop, l.Steady (f l)) :
    s.Quiet (s.modLoop i f) := by
  refine ⟨rfl, rfl, rfl, rfl, rfl, rfl, rfl, rfl, rfl, rfl, rfl, rfl, rfl, rfl, fun j => ?_⟩
  rw [State.loop_modLoop]
  split
  · next e => exact e ▸ h _
  · exact rfl

/-- A change of every loop that keeps each steady is quiet. -/
theorem State.quiet_mapLoops (s : State) {f : LoopIx → Loop → Loop} (h : ∀ i (l : Loop), l.Steady (f i l)) :
    s.Quiet (s.mapLoops f) := by
  refine ⟨?_, ?_, ?_, ?_, ?_, ?_, ?_, ?_, ?_, ?_, ?_, ?_, ?_, ?_, fun j => ?_⟩ <;> simp
  exact h _ _

/-- A change of the waiting entries is quiet. -/
theorem State.quiet_setQueue (s : State) (q : List Entry) : s.Quiet (s.setQueue q) :=
  ⟨rfl, rfl, rfl, rfl, rfl, rfl, rfl, rfl, rfl, rfl, rfl, rfl, rfl, rfl, fun _ => rfl⟩

theorem State.quiet_mark (s : State) (w : WatchTable) (n : Nat) (b : Bool) : s.Quiet (s.mark w n b) :=
  ⟨rfl, rfl, rfl, rfl, rfl, rfl, rfl, rfl, rfl, rfl, rfl, rfl, rfl, rfl, fun _ => rfl⟩

theorem State.quiet_setFloorShort (s : State) (b : Bool) : s.Quiet (s.setFloorShort b) :=
  ⟨rfl, rfl, rfl, rfl, rfl, rfl, rfl, rfl, rfl, rfl, rfl, rfl, rfl, rfl, fun _ => rfl⟩

theorem State.quiet_markLoop (s : State) (i : LoopIx) (b : Bool) : s.Quiet (s.markLoop i b) := s.quiet_mark _ _ _
theorem State.quiet_markRoom (s : State) (r : RoomIx) (b : Bool) : s.Quiet (s.markRoom r b) := s.quiet_mark _ _ _
theorem State.quiet_markHouse (s : State) (b : Bool) : s.Quiet (s.markHouse b) := s.quiet_mark _ _ _

/-- A quiet operation taken on a condition is quiet. -/
theorem State.quiet_ite {c : Prop} [Decidable c] {s t u : State} (h : s.Quiet t) (g : s.Quiet u) :
    s.Quiet (if c then t else u) := by split <;> assumption

theorem State.quiet_markLoopIf (s : State) (c : Bool) (i : LoopIx) (b : Bool) : s.Quiet (s.markLoopIf c i b) :=
  State.quiet_ite (s.quiet_markLoop i b) (.refl s)
theorem State.quiet_markRoomIf (s : State) (c : Bool) (r : RoomIx) (b : Bool) : s.Quiet (s.markRoomIf c r b) :=
  State.quiet_ite (s.quiet_markRoom r b) (.refl s)
theorem State.quiet_markHouseIf (s : State) (c : Bool) (b : Bool) : s.Quiet (s.markHouseIf c b) :=
  State.quiet_ite (s.quiet_markHouse b) (.refl s)

theorem State.quiet_forEach {α : Type} (s : State) (l : List α) {f : State → α → State}
    (h : ∀ t a, State.Quiet t (f t a)) : s.Quiet (s.forEach l f) :=
  State.forEach_rel State.Quiet.refl (fun _ _ _ => State.Quiet.trans) h l s

theorem State.quiet_recount (s : State) (i : LoopIx) : s.Quiet (s.recount i) :=
  State.quiet_ite (.refl s) (s.quiet_modLoop i fun _ => rfl)

theorem State.quiet_recountIf (s : State) (c : Bool) (i : LoopIx) : s.Quiet (s.recountIf c i) :=
  State.quiet_ite (s.quiet_recount i) (.refl s)

theorem State.quiet_recountAll (s : State) : s.Quiet s.recountAll :=
  s.quiet_mapLoops fun i l => by split <;> rfl

theorem State.quiet_tellWork (t before : State) (i : LoopIx) : t.Quiet (t.tellWork before i) :=
  (t.quiet_markLoopIf _ i _).trans (State.quiet_markLoopIf _ _ i _)

theorem State.quiet_tellIdle (t before : State) : t.Quiet (t.tellIdle before) := t.quiet_markHouseIf _ _

theorem State.quiet_tellHead (t before : State) (i : LoopIx) : t.Quiet (t.tellHead before i) :=
  t.quiet_markLoopIf _ i _

theorem State.quiet_tellBalance (t before : State) (i : LoopIx) : t.Quiet (t.tellBalance before i) :=
  t.quiet_markLoopIf _ i _

theorem State.quiet_append (s : State) (e : Entry) : s.Quiet (s.append e) :=
  (s.quiet_setQueue _).trans (State.quiet_tellIdle _ _)

theorem State.quiet_place (s : State) (i : LoopIx) : s.Quiet (s.place i) := by
  unfold State.place
  split
  · exact State.quiet_ite (s.quiet_append _) (.refl s)
  · exact .refl s

theorem State.quiet_placeOwn (s : State) (i : LoopIx) : s.Quiet (s.placeOwn i) :=
  State.quiet_ite (.refl s) (s.quiet_place i)

theorem State.quiet_fill (s : State) : s.Quiet s.fill := s.quiet_forEach _ State.quiet_place

theorem State.quiet_retarget (s : State) (i : LoopIx) (k : MoveKind) : s.Quiet (s.retarget i k) := s.quiet_setQueue _

theorem State.quiet_want (s : State) (i : LoopIx) (k : MoveKind) : s.Quiet (s.want i k) := by
  unfold State.want
  refine State.quiet_ite ?_ (.refl s)
  refine .trans ?_ (State.quiet_placeOwn _ _)
  refine .trans ?_ (State.quiet_markLoop _ _ _)
  refine .trans ?_ (State.quiet_recount _ _)
  refine .trans ?_ (State.quiet_retarget _ _ _)
  exact s.quiet_modLoop i fun _ => rfl

theorem State.quiet_endWant (s : State) (i : LoopIx) : s.Quiet (s.endWant i) := s.quiet_modLoop i fun _ => rfl

theorem State.quiet_unwant (s : State) (i : LoopIx) : s.Quiet (s.unwant i) :=
  (s.quiet_endWant i).trans (State.quiet_tellWork _ _ _)

theorem State.quiet_clearWork (s : State) (i : LoopIx) : s.Quiet (s.clearWork i) :=
  (s.quiet_setQueue _).trans (State.quiet_modLoop _ i (f := fun l => (l.setWant none).setPending none) fun _ => rfl)

theorem State.quiet_setPending (s : State) (i : LoopIx) (t : Option Nat) : s.Quiet (s.setPending i t) := by
  unfold State.setPending
  refine .trans ?_ (State.quiet_tellWork _ _ _)
  exact s.quiet_modLoop i fun _ => rfl

theorem State.quiet_takeStroke (s : State) (i : LoopIx) : s.Quiet (s.takeStroke i) :=
  State.quiet_ite (s.quiet_setPending i _) (s.quiet_want i _)

theorem State.quiet_evaluated (s : State) : s.Quiet s.evaluated := by
  unfold State.evaluated
  refine .trans ?_ (State.quiet_setFloorShort _ _)
  exact s.quiet_mapLoops fun _ _ => rfl

theorem State.quiet_handStrokes (t before after : State) : t.Quiet (t.handStrokes before after) :=
  t.quiet_forEach _ fun u i => State.quiet_ite (u.quiet_takeStroke i) (.refl u)

theorem State.quiet_tellShort (t before after : State) : t.Quiet (t.tellShort before after) :=
  State.quiet_ite (.refl t) (t.quiet_markHouse _)

theorem State.quiet_tellStrokes (t before after : State) : t.Quiet (t.tellStrokes before after) :=
  t.quiet_forEach _ fun u i => u.quiet_markLoopIf _ i _

theorem State.quiet_recompute (s : State) : s.Quiet s.recompute := by
  unfold State.recompute
  refine .trans ?_ (State.quiet_tellStrokes _ _ _)
  refine .trans ?_ (State.quiet_tellShort _ _ _)
  refine .trans ?_ (State.quiet_handStrokes _ _ _)
  exact s.quiet_evaluated

theorem State.quiet_recomputeIf (s : State) (c : Bool) : s.Quiet (s.recomputeIf c) :=
  State.quiet_ite s.quiet_recompute (.refl s)

theorem State.quiet_clearCounters (s : State) (m : Manifold) : s.Quiet (s.clearCounters m) :=
  s.quiet_mapLoops fun i l => by split <;> rfl

theorem State.quiet_markRooms (s : State) (a b : Option RoomIx) : s.Quiet (s.markRooms a b) :=
  State.quiet_ite (.refl s) (s.quiet_forEach _ fun t _ => State.quiet_ite (t.quiet_markRoom _ _) (.refl t))

theorem State.quiet_markRoomOf (s : State) (r : Option RoomIx) : s.Quiet (s.markRoomOf r) := by
  cases r with
  | none => exact .refl s
  | some r => exact s.quiet_markRoom r _

end Sys2Proof.Machine
end

