-- ==== Sys2Proof/Laws/Steps.lean ====
section
/-! SUPPORT. What one command can do inside the part, said once: the elementary edits of the state (`Edit`), and that
every operation of drive, lifecycle, rounds and campaigns is a chain of them (`Steps`). An invariant that every edit
keeps, every operation keeps. -/

namespace Sys2Proof.Machine

theorem Loop.SameConfig.refl (l : Loop) : l.SameConfig l := ⟨rfl, rfl, rfl, rfl, rfl, rfl⟩

theorem Loop.SameConfig.trans {l x y : Loop} (h : l.SameConfig x) (g : x.SameConfig y) : l.SameConfig y :=
  ⟨g.room.trans h.room, g.length.trans h.length, g.covering.trans h.covering, g.owner.trans h.owner,
    g.override.trans h.override, g.ceiling.trans h.ceiling⟩

/-- An edit of one loop record: configuration, owner and ceiling stay, a VACANT record stays VACANT and another does
not become so, none becomes RETIRING, and an open counter of 0 stays 0. -/
structure LoopEdit (l x : Loop) : Prop where
  config : l.SameConfig x
  vacant : x.life = .vacant ↔ l.life = .vacant
  retiring : x.life = .retiring → l.life = .retiring
  present : x.present = l.present
  counter : l.openCounter = 0 → x.openCounter = 0

theorem LoopEdit.of_life {l x : Loop} (c : l.SameConfig x) (h : x.life = l.life) (p : x.present = l.present)
    (z : l.openCounter = 0 → x.openCounter = 0) : LoopEdit l x := ⟨c, by rw [h], by rw [h]; exact id, p, z⟩

theorem LoopEdit.refl (l : Loop) : LoopEdit l l := .of_life (.refl l) rfl rfl id

/-- The changes of a campaign record while it is open, and the count of a round (R152, R156, R157, R155, R158, R161). -/
inductive CampaignEdit (c : Campaign) : Campaign → Prop
  | rounds (h : c.state ≠ .idle) : CampaignEdit c { c with state := .rounds, resume := none }
  | opening (h : c.state ≠ .idle) : CampaignEdit c { c with state := .opening, resume := none }
  | suspended (h : c.state ≠ .idle) (r : ResumeState) : CampaignEdit c { c with state := .suspended, resume := some r }
  | counted : CampaignEdit c c.counted
  | abandoned (r : AbandonReason) : CampaignEdit c (c.closed .abandoned (some r))

/-- One elementary edit of the state. -/
inductive State.Edit (s : State) : State → Prop
  | loop (i : LoopIx) (l : Loop) (h : LoopEdit (s.loop i) l) : Edit s (s.setLoop i l)
  | loops (f : LoopIx → Loop → Loop) (h : ∀ i, LoopEdit (s.loop i) (f i (s.loop i))) : Edit s (s.mapLoops f)
  | vacate (i : LoopIx) (h : (s.loop i).life = .retiring) (g : i ∉ s.floorList) : Edit s (s.modLoop i Loop.vacated)
  | append (e : Entry) (h : s.drive.queue.length < Config.queueCapacity) (g : s.queued e.loop = false) :
    Edit s (s.setQueue (s.drive.queue ++ [e]))
  | retarget (i : LoopIx) (k : MoveKind) : Edit s (s.retarget i k)
  | drop (i : LoopIx) : Edit s (s.setQueue (s.drive.queue.filter fun e => decide (e.loop ≠ i)))
  | pop (e : Entry) (rest : List Entry) (h : s.drive.queue = e :: rest) : Edit s (s.setQueue rest)
  | moving (m : Option Move) : Edit s (s.setMoving m)
  | dwell (d : Option Dwell) : Edit s (s.setDwell d)
  | driveState (d : DriveState) : Edit s (s.putDriveState d)
  | timer (m : Manifold) (t : RoundTimer) : Edit s (s.setTimer m t)
  | supplyRef (m : Manifold) (r : Option Int) : Edit s (s.setSupplyRef m r)
  | campaign (m : Manifold) (c : Campaign) (h : CampaignEdit (s.campaign m) c) : Edit s (s.setCampaign m c)
  | dropMember (i : LoopIx) : Edit s (s.dropMember i)
  | floorShort (b : Bool) : Edit s (s.setFloorShort b)
  | mark (w : WatchTable) (n : Nat) (b : Bool) : Edit s (s.mark w n b)

/-- A chain of edits. -/
inductive State.Steps : State → State → Prop
  | refl (s : State) : Steps s s
  | step {s t u : State} (h : Steps s t) (g : t.Edit u) : Steps s u

theorem State.Edit.steps {s t : State} (h : s.Edit t) : s.Steps t := .step (.refl s) h

theorem State.Steps.trans {s t u : State} (h : s.Steps t) (g : t.Steps u) : s.Steps u := by
  induction g with
  | refl => exact h
  | step _ e ih => exact .step ih e

/-- What every edit keeps, every chain keeps. -/
theorem State.Steps.keeps {P : State → Prop} (k : ∀ s t, P s → State.Edit s t → P t) {s t : State} (h : s.Steps t)
    (p : P s) : P t := by
  induction h with
  | refl => exact p
  | step _ e ih => exact k _ _ ih e

/-- What an edit leaves alone, every chain leaves alone. -/
theorem State.Steps.same {α : Type} {g : State → α} (k : ∀ s t, State.Edit s t → g t = g s) {s t : State}
    (h : s.Steps t) : g t = g s :=
  h.keeps (P := fun u => g u = g s) (fun _ _ p e => (k _ _ e).trans p) rfl

/-- Two states agree in the rooms, the House Record, the stored image, the channels, the link and the queue of
commands. -/
structure State.Calm (s t : State) : Prop where
  powered : t.powered = s.powered
  rooms : t.rooms = s.rooms
  house : t.house = s.house
  storage : t.storage = s.storage
  channels : t.channels = s.channels
  link : t.link = s.link
  pending : t.pending = s.pending

/-- Every chain of edits leaves these alone. -/
theorem State.Steps.calm {s t : State} (h : s.Steps t) : s.Calm t := by
  constructor
  all_goals
    refine State.Steps.same (fun u v e => ?_) h
    cases e <;> simp [State.retarget, State.dropMember]

/-- Every chain keeps a loop that is not RETIRING in its configuration, and VACANT or not. -/
theorem State.Steps.config {s t : State} (h : s.Steps t) (i : LoopIx) (r : (s.loop i).life ≠ .retiring) :
    LoopEdit (s.loop i) (t.loop i) ∧ (t.loop i).life ≠ .retiring := by
  refine h.keeps (P := fun u => LoopEdit (s.loop i) (u.loop i) ∧ (u.loop i).life ≠ .retiring) ?_ ⟨.refl _, r⟩
  rintro u v ⟨p, q⟩ e
  have same : v.loops = u.loops → LoopEdit (s.loop i) (v.loop i) ∧ (v.loop i).life ≠ .retiring := fun w => by
    rw [State.loop_congr w]
    exact ⟨p, q⟩
  have chain : ∀ x, LoopEdit (u.loop i) x → LoopEdit (s.loop i) x ∧ x.life ≠ .retiring := fun x g =>
    ⟨⟨p.config.trans g.config, g.vacant.trans p.vacant, fun w => p.retiring (g.retiring w), g.present.trans p.present,
      fun w => g.counter (p.counter w)⟩,
      fun w => q (g.retiring w)⟩
  cases e with
  | loop j l g =>
    rw [State.loop_setLoop]
    split
    · next w => exact chain l (w ▸ g)
    · exact ⟨p, q⟩
  | loops f g =>
    rw [State.loop_mapLoops]
    exact chain _ (g i)
  | vacate j g _ =>
    rw [State.loop_modLoop]
    split
    · next w => exact absurd (w ▸ g) q
    · exact ⟨p, q⟩
  | _ => exact same rfl

/-- An open counter of 0 stays 0 through any chain. -/
theorem State.Steps.counter {s t : State} (h : s.Steps t) (i : LoopIx) (z : (s.loop i).openCounter = 0) :
    (t.loop i).openCounter = 0 := by
  refine h.keeps (P := fun u => (u.loop i).openCounter = 0) (fun u v q e => ?_) z
  have same : v.loops = u.loops → (v.loop i).openCounter = 0 := fun w => by
    rw [State.loop_congr w]
    exact q
  cases e with
  | loop j l g =>
    rw [State.loop_setLoop]
    split
    · next w => exact g.counter (w ▸ q)
    · exact q
  | loops f g =>
    rw [State.loop_mapLoops]
    exact (g i).counter q
  | vacate j _ _ =>
    rw [State.loop_modLoop]
    split
    · rfl
    · exact q
  | _ => exact same rfl

/-! ### Every operation is a chain of edits -/

theorem State.steps_ite {c : Prop} [Decidable c] {s t u : State} (h : c → s.Steps t) (g : ¬c → s.Steps u) :
    s.Steps (if c then t else u) := by
  split
  · next w => exact h w
  · next w => exact g w

theorem State.steps_forEach {α : Type} (s : State) (l : List α) {f : State → α → State}
    (h : ∀ t a, State.Steps t (f t a)) : s.Steps (s.forEach l f) :=
  State.forEach_rel State.Steps.refl (fun _ _ _ => State.Steps.trans) h l s

/-- A change of one loop that keeps its configuration, its lifecycle state and its presence. -/
theorem State.steps_modLoop (s : State) (i : LoopIx) {f : Loop → Loop}
    (c : ∀ l : Loop, l.SameConfig (f l)) (h : ∀ l : Loop, (f l).life = l.life)
    (p : ∀ l : Loop, (f l).present = l.present)
    (z : ∀ l : Loop, l.openCounter = 0 → (f l).openCounter = 0 := by
      intro l h
      first | exact h | rfl) : s.Steps (s.modLoop i f) :=
  (State.Edit.loop i _ (.of_life (c _) (h _) (p _) (z _))).steps

theorem State.steps_mapLoops (s : State) {f : LoopIx → Loop → Loop}
    (c : ∀ i (l : Loop), l.SameConfig (f i l)) (h : ∀ i (l : Loop), (f i l).life = l.life)
    (p : ∀ i (l : Loop), (f i l).present = l.present)
    (z : ∀ i (l : Loop), l.openCounter = 0 → (f i l).openCounter = 0 := by
      intro i l h
      first
        | exact h
        | (split <;> first | exact h | rfl)) : s.Steps (s.mapLoops f) :=
  (State.Edit.loops f fun _ => .of_life (c _ _) (h _ _) (p _ _) (z _ _)).steps

theorem State.steps_mark (s : State) (w : WatchTable) (n : Nat) (b : Bool) : s.Steps (s.mark w n b) :=
  (State.Edit.mark w n b).steps
theorem State.steps_markLoop (s : State) (i : LoopIx) (b : Bool) : s.Steps (s.markLoop i b) := s.steps_mark _ _ _
theorem State.steps_markRoom (s : State) (r : RoomIx) (b : Bool) : s.Steps (s.markRoom r b) := s.steps_mark _ _ _
theorem State.steps_markHouse (s : State) (b : Bool) : s.Steps (s.markHouse b) := s.steps_mark _ _ _
theorem State.steps_markLoopIf (s : State) (c : Bool) (i : LoopIx) (b : Bool) : s.Steps (s.markLoopIf c i b) :=
  State.steps_ite (fun _ => s.steps_markLoop i b) (fun _ => .refl s)
theorem State.steps_markHouseIf (s : State) (c : Bool) (b : Bool) : s.Steps (s.markHouseIf c b) :=
  State.steps_ite (fun _ => s.steps_markHouse b) (fun _ => .refl s)

theorem State.steps_recount (s : State) (i : LoopIx) : s.Steps (s.recount i) :=
  State.steps_ite (fun _ => .refl s)
    (fun _ => s.steps_modLoop i (fun _ => ⟨rfl, rfl, rfl, rfl, rfl, rfl⟩) (fun _ => rfl) (fun _ => rfl))

theorem State.steps_recountIf (s : State) (c : Bool) (i : LoopIx) : s.Steps (s.recountIf c i) :=
  State.steps_ite (fun _ => s.steps_recount i) (fun _ => .refl s)

theorem State.steps_recountAll (s : State) : s.Steps s.recountAll :=
  s.steps_mapLoops (fun i l => by split <;> exact ⟨rfl, rfl, rfl, rfl, rfl, rfl⟩) (fun i l => by split <;> rfl)
    (fun i l => by split <;> rfl)

theorem State.steps_tellWork (t before : State) (i : LoopIx) : t.Steps (t.tellWork before i) :=
  (t.steps_markLoopIf _ i _).trans (State.steps_markLoopIf _ _ i _)

theorem State.steps_tellIdle (t before : State) : t.Steps (t.tellIdle before) := t.steps_markHouseIf _ _

theorem State.steps_tellHead (t before : State) (i : LoopIx) : t.Steps (t.tellHead before i) :=
  t.steps_markLoopIf _ i _


theorem State.steps_place (s : State) (i : LoopIx) : s.Steps (s.place i) := by
  unfold State.place
  split
  · refine State.steps_ite (fun w => ?_) (fun _ => .refl s)
    simp only [Bool.and_eq_true, decide_eq_true_eq, State.outstanding, Bool.not_eq_true'] at w
    exact (State.Edit.append (s.entryFor i _) w.2 w.1.1.2).steps.trans
      (State.steps_tellIdle _ _)
  · exact .refl s

theorem State.steps_placeOwn (s : State) (i : LoopIx) : s.Steps (s.placeOwn i) :=
  State.steps_ite (fun _ => .refl s) (fun _ => s.steps_place i)

theorem State.steps_fill (s : State) : s.Steps s.fill := s.steps_forEach _ State.steps_place

theorem State.steps_want (s : State) (i : LoopIx) (k : MoveKind) : s.Steps (s.want i k) := by
  unfold State.want
  refine State.steps_ite (fun _ => ?_) (fun _ => .refl s)
  refine .trans ?_ (State.steps_placeOwn _ _)
  refine .trans ?_ (State.steps_markLoop _ _ _)
  refine .trans ?_ (State.steps_recount _ _)
  refine .trans ?_ (State.Edit.retarget _ _).steps
  exact s.steps_modLoop i (fun _ => ⟨rfl, rfl, rfl, rfl, rfl, rfl⟩) (fun _ => rfl) (fun _ => rfl)

theorem State.steps_endWant (s : State) (i : LoopIx) : s.Steps (s.endWant i) :=
  s.steps_modLoop i (fun _ => ⟨rfl, rfl, rfl, rfl, rfl, rfl⟩) (fun _ => rfl) (fun _ => rfl)

theorem State.steps_unwant (s : State) (i : LoopIx) : s.Steps (s.unwant i) :=
  (s.steps_endWant i).trans (State.steps_tellWork _ _ _)

theorem State.steps_clearWork (s : State) (i : LoopIx) : s.Steps (s.clearWork i) :=
  (State.Edit.drop i).steps.trans
    (State.steps_modLoop _ i (f := fun l => (l.setWant none).setPending none) (fun _ => ⟨rfl, rfl, rfl, rfl, rfl, rfl⟩)
      (fun _ => rfl) (fun _ => rfl))

theorem State.steps_setPending (s : State) (i : LoopIx) (t : Option Nat) : s.Steps (s.setPending i t) := by
  unfold State.setPending
  refine .trans ?_ (State.steps_tellWork _ _ _)
  exact s.steps_modLoop i (fun _ => ⟨rfl, rfl, rfl, rfl, rfl, rfl⟩) (fun _ => rfl) (fun _ => rfl)

theorem State.steps_takeStroke (s : State) (i : LoopIx) : s.Steps (s.takeStroke i) :=
  State.steps_ite (fun _ => s.steps_setPending i _) (fun _ => s.steps_want i _)

theorem State.steps_evaluated (s : State) : s.Steps s.evaluated := by
  unfold State.evaluated
  refine .trans ?_ (State.Edit.floorShort _).steps
  exact s.steps_mapLoops (fun _ _ => ⟨rfl, rfl, rfl, rfl, rfl, rfl⟩) (fun _ _ => rfl) (fun _ _ => rfl)

theorem State.steps_recompute (s : State) : s.Steps s.recompute := by
  unfold State.recompute
  refine .trans ?_ (State.steps_forEach _ _ fun t i => t.steps_markLoopIf _ i _)
  refine .trans ?_ (State.steps_ite (fun _ => .refl _) (fun _ => State.steps_markHouse _ _))
  refine .trans ?_ (State.steps_forEach _ _ fun t i =>
    State.steps_ite (fun _ => t.steps_takeStroke i) (fun _ => .refl t))
  exact s.steps_evaluated

theorem State.steps_recomputeIf (s : State) (c : Bool) : s.Steps (s.recomputeIf c) :=
  State.steps_ite (fun _ => s.steps_recompute) (fun _ => .refl s)

theorem State.steps_markRooms (s : State) (a b : Option RoomIx) : s.Steps (s.markRooms a b) :=
  State.steps_ite (fun _ => .refl s) (fun _ => s.steps_forEach _ fun t _ =>
    State.steps_ite (fun _ => t.steps_markRoom _ _) (fun _ => .refl t))

theorem State.steps_markRoomOf (s : State) (r : Option RoomIx) : s.Steps (s.markRoomOf r) := by
  cases r with
  | none => exact .refl s
  | some r => exact s.steps_markRoom r _

theorem State.steps_voidBalance (s : State) (i : LoopIx) : s.Steps (s.voidBalance i) :=
  s.steps_modLoop i (fun _ => ⟨rfl, rfl, rfl, rfl, rfl, rfl⟩) (fun _ => rfl) (fun _ => rfl)

/-! #### Rounds and campaigns -/

theorem State.steps_clearCounters (s : State) (m : Manifold) : s.Steps (s.clearCounters m) :=
  s.steps_mapLoops (fun i l => by split <;> exact ⟨rfl, rfl, rfl, rfl, rfl, rfl⟩) (fun i l => by split <;> rfl)
    (fun i l => by split <;> rfl)

theorem State.steps_roundStart (s : State) (m : Manifold) (b : Bool) : s.Steps (s.roundStart m b) :=
  (State.Edit.timer m _).steps.trans (State.Edit.supplyRef m _).steps

theorem State.steps_pauseRound (s : State) (m : Manifold) : s.Steps (s.pauseRound m) :=
  (s.steps_clearCounters m).trans (State.steps_roundStart _ _ _)

theorem State.steps_roundsEntered (s : State) (m : Manifold) : s.Steps (s.roundsEntered m) := s.steps_pauseRound m

theorem State.steps_checkTimer (s : State) (m : Manifold) : s.Steps (s.checkTimer m) :=
  State.steps_ite
    (fun _ => State.steps_ite (fun _ => .refl s)
      (fun _ => (s.steps_clearCounters m).trans (State.steps_roundStart _ _ _)))
    (fun _ => State.steps_ite (fun _ => (State.Edit.timer m _).steps) (fun _ => .refl s))

theorem State.steps_checkTimerIf (s : State) (c : Bool) (m : Manifold) : s.Steps (s.checkTimerIf c m) :=
  State.steps_ite (fun _ => s.steps_checkTimer m) (fun _ => .refl s)

theorem State.steps_coupling (s : State) (m : Manifold) : s.Steps (s.coupling m) :=
  (s.steps_clearCounters m).trans (State.steps_roundStart _ _ _)

theorem State.steps_couplingIf (s : State) (c : Bool) (m : Manifold) : s.Steps (s.couplingIf c m) :=
  State.steps_ite (fun _ => s.steps_coupling m) (fun _ => .refl s)

theorem State.steps_enterRounds (s : State) (m : Manifold) (h : (s.campaign m).state ≠ .idle) :
    s.Steps (s.enterRounds m) := by
  unfold State.enterRounds
  refine .trans ?_ (State.steps_roundsEntered _ _)
  exact (State.Edit.campaign m _ (.rounds h)).steps

theorem State.steps_endOpening (s : State) (m : Manifold) (h : (s.campaign m).state ≠ .idle) :
    s.Steps (s.endOpening m) := State.steps_ite (fun _ => s.steps_enterRounds m h) (fun _ => .refl s)

theorem State.steps_examineOpening (s : State) (m : Manifold) : s.Steps (s.examineOpening m) :=
  State.steps_ite
    (fun w => (s.steps_enterRounds m (by rw [w.1]; exact CampaignState.noConfusion)).trans (State.steps_markHouse _ _))
    (fun _ => .refl s)

theorem State.steps_examineOpeningIf (s : State) (c : Bool) (m : Manifold) : s.Steps (s.examineOpeningIf c m) :=
  State.steps_ite (fun _ => s.steps_examineOpening m) (fun _ => .refl s)

theorem State.steps_suspend (s : State) (m : Manifold) (r : ResumeState) (h : (s.campaign m).state ≠ .idle) :
    s.Steps (s.suspend m r) := by
  unfold State.suspend
  refine .trans ?_ (State.steps_checkTimerIf _ _ _)
  exact (State.Edit.campaign m _ (.suspended h r)).steps

theorem State.steps_resumed (s : State) (m : Manifold) (h : (s.campaign m).state ≠ .idle) : s.Steps (s.resumed m) := by
  refine State.steps_ite (fun _ => s.steps_enterRounds m h) (fun _ => ?_)
  refine .trans (State.Edit.campaign m _ (.opening h)).steps (State.steps_endOpening _ m ?_)
  rw [State.campaign_setCampaign]
  exact CampaignState.noConfusion

theorem State.steps_checkCampaign (s : State) (m : Manifold) : s.Steps (s.checkCampaign m) := by
  have told : ∀ {t : State}, s.Steps t → s.Steps (t.markHouse true) := fun h => h.trans (State.steps_markHouse _ _)
  unfold State.checkCampaign
  split
  · exact .refl s
  · next h => exact State.steps_ite (fun _ => told (s.steps_suspend m _ (by simp [h]))) (fun _ => .refl s)
  · next h => exact State.steps_ite (fun _ => told (s.steps_suspend m _ (by simp [h]))) (fun _ => .refl s)
  · next h => exact State.steps_ite (fun _ => .refl s) (fun _ => told (s.steps_resumed m (by simp [h])))

theorem State.steps_setDriveState (s : State) (d : DriveState) : s.Steps (s.setDriveState d) := by
  unfold State.setDriveState
  refine State.steps_ite (fun _ => .refl s) (fun _ => ?_)
  refine .trans ?_ (State.steps_markHouse _ _)
  refine .trans ?_ (State.steps_checkCampaign _ _)
  refine .trans ?_ (State.steps_checkCampaign _ _)
  refine .trans ?_ (State.steps_checkTimer _ _)
  refine .trans ?_ (State.steps_checkTimer _ _)
  exact (State.Edit.driveState d).steps.trans (State.steps_recountAll _)

theorem State.steps_abandon (s : State) (m : Manifold) (r : AbandonReason) : s.Steps (s.abandon m r) := by
  unfold State.abandon State.returnToIdle
  refine State.steps_ite (fun _ => ?_) (fun _ => .refl s)
  refine .trans ?_ (State.steps_markHouse _ _)
  refine .trans ?_ (State.steps_recompute _)
  refine .trans ?_ (State.steps_checkTimerIf _ _ _)
  exact (State.Edit.campaign m _ (.abandoned r)).steps

/-! #### Lifecycles -/

theorem State.steps_unhome (s : State) (i : LoopIx) : s.Steps (s.unhome i) :=
  (s.steps_modLoop i (f := Loop.unhomed) (fun _ => ⟨rfl, rfl, rfl, rfl, rfl, rfl⟩) (fun _ => rfl)
    (fun _ => rfl)).trans (State.steps_recount _ _)

theorem State.steps_wantHome (s : State) (i : LoopIx) : s.Steps (s.wantHome i) :=
  (s.steps_unhome i).trans (State.steps_want _ _ _)

theorem State.steps_wantHomeIf (s : State) (c : Bool) (i : LoopIx) : s.Steps (s.wantHomeIf c i) :=
  State.steps_ite (fun _ => s.steps_wantHome i) (fun _ => .refl s)

theorem State.steps_lifeChanged (s : State) (i : LoopIx) (old : Lifecycle) : s.Steps (s.lifeChanged i old) := by
  unfold State.lifeChanged
  refine .trans ?_ (State.steps_markLoop _ _ _)
  refine .trans ?_ (State.steps_examineOpeningIf _ _ _)
  refine .trans ?_ (State.steps_recount _ _)
  refine .trans ?_ (State.steps_couplingIf _ _ _)
  exact s.steps_recompute

/-- A lifecycle change of an occupied loop, other than to VACANT and to RETIRING. -/
theorem State.steps_setLife (s : State) (i : LoopIx) (x : Lifecycle) (h : (s.loop i).life ≠ .vacant)
    (v : x ≠ .vacant) (r : x ≠ .retiring) : s.Steps (s.setLife i x) := by
  refine .trans ?_ (State.steps_lifeChanged _ _ _)
  refine (State.Edit.loop i ((s.loop i).setLife x) ⟨⟨rfl, rfl, rfl, rfl, rfl, rfl⟩, ?_, ?_, rfl, id⟩).steps
  · exact ⟨fun w => absurd w v, fun w => absurd w h⟩
  · exact fun w => absurd w r

/-- The steady part of a loop after a want: its lifecycle state among it. -/
theorem State.Quiet.life {s t : State} (h : s.Quiet t) (i : LoopIx) : (t.loop i).life = (s.loop i).life := by
  have := h.loops i
  rcases hs : s.loop i with ⟨⟩
  rcases ht : t.loop i with ⟨⟩
  simp only [Loop.Steady, hs, ht, Loop.mk.injEq] at this
  simp_all

theorem State.life_unhome (s : State) (i j : LoopIx) : ((s.unhome i).loop j).life = (s.loop j).life := by
  unfold State.unhome
  rw [(State.quiet_recount _ i).life j, State.loop_modLoop]
  split
  · next w => rw [w]; rfl
  · rfl

theorem State.life_wantHome (s : State) (i j : LoopIx) : ((s.wantHome i).loop j).life = (s.loop j).life := by
  unfold State.wantHome
  rw [(State.quiet_want _ i _).life j, State.life_unhome]

theorem State.not_mem_dropMember (s : State) (i : LoopIx) : i ∉ (s.dropMember i).floorList := by
  simp [State.dropMember]

theorem State.steps_dropWork (s : State) (i : LoopIx) : s.Steps (s.dropWork i) := by
  unfold State.dropWork
  refine .trans ?_ (State.steps_tellIdle _ _)
  refine .trans ?_ (State.steps_tellWork _ _ _)
  exact (s.steps_clearWork i).trans (State.steps_examineOpening _ _)

theorem State.life_roundStart (s : State) (m : Manifold) (b : Bool) (j : LoopIx) :
    ((s.roundStart m b).loop j).life = (s.loop j).life := rfl

theorem State.life_setCampaign (s : State) (m : Manifold) (x : Campaign) (j : LoopIx) :
    ((s.setCampaign m x).loop j).life = (s.loop j).life := rfl

theorem State.life_examineOpening (s : State) (m : Manifold) (j : LoopIx) :
    ((s.examineOpening m).loop j).life = (s.loop j).life := by
  unfold State.examineOpening
  split
  · rw [(State.quiet_markHouse _ _).life, State.enterRounds, State.roundsEntered, State.life_roundStart,
      (State.quiet_clearCounters _ m).life, State.life_setCampaign]
  · rfl

theorem State.life_dropWork (s : State) (i j : LoopIx) : ((s.dropWork i).loop j).life = (s.loop j).life := by
  unfold State.dropWork
  rw [(State.quiet_tellIdle _ _).life, (State.quiet_tellWork _ _ _).life, State.life_examineOpening,
    (s.quiet_clearWork i).life]

/-- A loop that becomes VACANT: edits, its record vacated when it is in no Floor List, and edits. -/
theorem State.becomeVacant_parts (s : State) (i : LoopIx) :
    ∃ t : State, s.Steps t ∧ (t.loop i).life = (s.loop i).life ∧ i ∉ t.floorList ∧
      (t.modLoop i Loop.vacated).Steps (s.becomeVacant i) := by
  refine ⟨(s.dropWork i).dropMember i, (s.steps_dropWork i).trans (State.Edit.dropMember i).steps, ?_,
    State.not_mem_dropMember _ _, ?_⟩
  · exact s.life_dropWork i i
  · unfold State.becomeVacant
    refine .trans ?_ (State.steps_fill _)
    refine .trans ?_ (State.steps_markRoomOf _ _)
    exact State.steps_lifeChanged _ _ _

theorem State.steps_becomeVacant (s : State) (i : LoopIx) (h : (s.loop i).life = .retiring) :
    s.Steps (s.becomeVacant i) := by
  obtain ⟨t, a, b, c, d⟩ := s.becomeVacant_parts i
  exact (a.trans (State.Edit.vacate i (b.trans h) c).steps).trans d

/-! #### Moves -/

theorem State.steps_wantAim (s : State) (i : LoopIx) : s.Steps (s.wantAim i) := by
  unfold State.wantAim
  split
  · exact State.steps_ite (fun _ => s.steps_want i _) (fun _ => .refl s)
  · exact .refl s

theorem State.steps_aim (s : State) (i : LoopIx) : s.Steps (s.aim i) :=
  (s.steps_wantAim i).trans
    (State.steps_modLoop _ i (f := fun l => l.setPending none) (fun _ => ⟨rfl, rfl, rfl, rfl, rfl, rfl⟩)
      (fun _ => rfl) (fun _ => rfl))

theorem State.steps_stopRunning (s : State) (m : Move) (e : MoveEnd) (r : Option EndReason) :
    s.Steps (s.stopRunning m e r) := (State.Edit.moving none).steps.trans (State.Edit.dwell _).steps

theorem State.steps_holdAtEnd (s : State) (b : Bool) : s.Steps (s.holdAtEnd b) :=
  State.steps_ite (fun _ => s.steps_setDriveState _) (fun _ => .refl s)

theorem State.steps_takeEnd (s : State) (m : Move) (e : MoveEnd) (r : Option EndReason) (b : Bool) :
    s.Steps (s.takeEnd m e r b) := by
  unfold State.takeEnd
  refine .trans ?_ (State.steps_markLoopIf _ _ _ _)
  refine .trans ?_ (State.steps_examineOpening _ _)
  refine .trans ?_ (State.steps_aim _ _)
  exact (State.steps_stopRunning _ _ _ _).trans (State.steps_holdAtEnd _ _)

theorem State.steps_rehomeAtEnd (s : State) (i : LoopIx) : s.Steps (s.rehomeAtEnd i) :=
  State.steps_ite
    (fun w => (s.steps_wantHome i).trans
      (State.steps_setLife _ _ _
        (by rw [State.life_wantHome]; rcases w with w | w <;> rw [w] <;> exact Lifecycle.noConfusion)
        Lifecycle.noConfusion Lifecycle.noConfusion))
    (fun _ => s.steps_wantHome i)

theorem State.steps_unmark (s : State) (i : LoopIx) : s.Steps (s.unmark i) :=
  (s.steps_modLoop i (f := Loop.unmarked) (fun _ => ⟨rfl, rfl, rfl, rfl, rfl, rfl⟩) (fun _ => rfl)
    (fun _ => rfl)).trans (State.steps_markLoopIf _ _ _ _)

theorem State.steps_takeRestartMark (s : State) (i : LoopIx) : s.Steps (s.takeRestartMark i) :=
  State.steps_ite
    (fun _ => State.steps_ite (fun _ => (s.steps_unmark i).trans (State.steps_rehomeAtEnd _ _))
      (fun _ => s.steps_unmark i)) (fun _ => .refl s)

theorem State.steps_retireAtEnd (s : State) (m : Move) : s.Steps (s.retireAtEnd m) :=
  State.steps_ite (fun w => s.steps_becomeVacant _ w.1) (fun _ => .refl s)

theorem State.steps_moveDone (s : State) (m : Move) (n : Nat) (b : Bool) : s.Steps (s.moveDone m n b) := by
  unfold State.moveDone
  refine .trans ?_ (State.steps_tellHead _ _ _)
  refine .trans ?_ (State.steps_takeEnd _ _ _ _ _)
  refine .trans ?_ (State.steps_takeRestartMark _ _)
  refine .trans ?_ (State.steps_retireAtEnd _ _)
  refine .trans ?_ (State.steps_recount _ _)
  exact (State.steps_stopRunning _ _ _ _).trans
    (State.steps_modLoop _ _ (fun _ => ⟨rfl, rfl, rfl, rfl, rfl, rfl⟩) (fun _ => rfl) (fun _ => rfl))

theorem State.steps_beginReturn (s : State) (m : Move) (b : Bool) : s.Steps (s.beginReturn m b) :=
  State.steps_ite (fun _ => (State.Edit.moving _).steps.trans (State.steps_moveDone _ _ _ _))
    (fun _ => (State.Edit.moving _).steps)

theorem State.steps_legDone (s : State) (m : Move) (n : Nat) (b : Bool) : s.Steps (s.legDone m n b) :=
  State.steps_ite (fun _ => s.steps_beginReturn m b) (fun _ => s.steps_moveDone m n b)

theorem State.steps_reachAtOnce (s : State) (m : Move) : s.Steps (s.reachAtOnce m) :=
  State.steps_ite (fun _ => s.steps_legDone m _ _) (fun _ => .refl s)

theorem State.steps_wantAtStart (s : State) (m : Move) : s.Steps (s.wantAtStart m) :=
  State.steps_ite (fun _ => .refl s) (fun _ => s.steps_unwant _)

theorem State.steps_beginMove (s : State) (m : Move) : s.Steps (s.beginMove m) := by
  unfold State.beginMove
  refine .trans ?_ (State.steps_reachAtOnce _ _)
  refine .trans ?_ (State.steps_fill _)
  refine .trans ?_ (State.steps_recount _ _)
  refine .trans ((State.Edit.moving _).steps.trans (State.steps_wantAtStart _ _))
    (State.steps_modLoop _ _ (fun _ => ⟨rfl, rfl, rfl, rfl, rfl, rfl⟩) (fun _ => rfl) (fun _ => rfl))

theorem State.steps_startMove (s : State) : s.Steps s.startMove := by
  unfold State.startMove
  split
  · exact .refl s
  · next e rest h => exact (State.Edit.pop e rest h).steps.trans (State.steps_beginMove _ _)

theorem State.steps_serve (s : State) : s.Steps s.serve :=
  State.steps_ite (fun _ => s.steps_startMove) (fun _ => .refl s)

theorem State.steps_atStep (s : State) (m : Move) (n : Nat) : s.Steps (s.atStep m n) :=
  s.steps_modLoop _ (fun _ => ⟨rfl, rfl, rfl, rfl, rfl, rfl⟩) (fun _ => rfl) (fun _ => rfl)

theorem State.steps_latchStall (s : State) (i : LoopIx) : s.Steps (s.latchStall i) :=
  State.steps_ite
    (fun _ => (s.steps_modLoop i (f := fun l => l.setFaults l.faults.withStall)
      (fun _ => ⟨rfl, rfl, rfl, rfl, rfl, rfl⟩) (fun _ => rfl) (fun _ => rfl)).trans (State.steps_markLoop _ _ _))
    (fun _ => .refl s)

theorem State.steps_lifeAtLimit (s : State) (i : LoopIx) : s.Steps (s.lifeAtLimit i) :=
  State.steps_ite
    (fun w => s.steps_setLife i _ (by rw [w]; exact Lifecycle.noConfusion) Lifecycle.noConfusion
      Lifecycle.noConfusion)
    (fun _ => .refl s)

theorem State.steps_stallLimit (s : State) (i : LoopIx) : s.Steps (s.stallLimit i) :=
  ((s.steps_wantHome i).trans (State.steps_latchStall _ _)).trans (State.steps_lifeAtLimit _ _)

theorem State.steps_parkAgain (s : State) (m : Move) : s.Steps (s.parkAgain m) :=
  State.steps_ite (fun _ => s.steps_want _ _) (fun _ => .refl s)

theorem State.steps_stopAt (s : State) (m : Move) (e : MoveEnd) (r : Option EndReason) (n k : Nat) :
    s.Steps (s.stopAt m e r n k) := by
  unfold State.stopAt
  refine .trans ?_ (State.steps_recount _ _)
  exact (State.steps_stopRunning _ _ _ _).trans
    (State.steps_modLoop _ _ (fun _ => ⟨rfl, rfl, rfl, rfl, rfl, rfl⟩) (fun _ => rfl) (fun _ => rfl))

theorem State.steps_afterStall (s : State) (m : Move) : s.Steps (s.afterStall m) :=
  State.steps_ite (fun _ => s.steps_stallLimit _) (fun _ => s.steps_parkAgain m)

theorem State.steps_moveStalled (s : State) (m : Move) (n : Nat) : s.Steps (s.moveStalled m n) := by
  unfold State.moveStalled
  refine .trans ?_ (State.steps_tellHead _ _ _)
  refine .trans ?_ (State.steps_takeEnd _ _ _ _ _)
  refine .trans ?_ (State.steps_takeRestartMark _ _)
  exact (s.steps_stopAt m _ _ n 1).trans (State.steps_afterStall _ _)

theorem State.steps_moveStopped (s : State) (m : Move) (n : Nat) : s.Steps (s.moveStopped m n) := by
  unfold State.moveStopped
  refine .trans ?_ (State.steps_tellHead _ _ _)
  refine .trans ?_ (State.steps_takeEnd _ _ _ _ _)
  refine .trans ?_ (State.steps_takeRestartMark _ _)
  exact (s.steps_stopAt m _ _ n 0).trans (State.steps_parkAgain _ _)

theorem State.steps_homeTaken (s : State) (i : LoopIx) : s.Steps (s.homeTaken i) := by
  unfold State.homeTaken
  split
  · next w =>
    exact s.steps_setLife i _ (by rw [w]; exact Lifecycle.noConfusion) Lifecycle.noConfusion Lifecycle.noConfusion
  · exact s.steps_want i _
  · exact .refl s

theorem State.steps_homeEnded (s : State) (i : LoopIx) (b : Bool) : s.Steps (s.homeEnded i b) := by
  unfold State.homeEnded
  refine .trans ?_ (State.steps_tellWork _ _ _)
  refine .trans ?_ (State.steps_examineOpeningIf _ _ _)
  exact (s.steps_endWant i).trans (State.steps_recount _ _)

theorem State.steps_homeDone (s : State) (m : Move) (n : Nat) : s.Steps (s.homeDone m n) := by
  unfold State.homeDone
  refine .trans ?_ (State.steps_tellHead _ _ _)
  refine .trans ?_ (State.steps_takeEnd _ _ _ _ _)
  refine .trans ?_ (State.steps_takeRestartMark _ _)
  refine .trans ?_ (State.steps_homeTaken _ _)
  refine .trans ?_ (State.steps_homeEnded _ _ _)
  exact (State.steps_stopRunning _ _ _ _).trans
    (State.steps_modLoop _ _ (fun _ => ⟨rfl, rfl, rfl, rfl, rfl, rfl⟩) (fun _ => rfl) (fun _ => rfl))

theorem State.steps_failTaken (s : State) (i : LoopIx) : s.Steps (s.failTaken i) := by
  unfold State.failTaken
  split
  · next w =>
    refine .trans (s.steps_modLoop i (f := fun l => l.setFaults l.faults.withFail)
      (fun _ => ⟨rfl, rfl, rfl, rfl, rfl, rfl⟩) (fun _ => rfl) (fun _ => rfl)) ?_
    refine State.steps_setLife _ i _ ?_ Lifecycle.noConfusion Lifecycle.noConfusion
    rw [State.loop_modLoop_self]
    show (s.loop i).life ≠ _
    rw [w]
    exact Lifecycle.noConfusion
  · next w => exact s.steps_becomeVacant i w
  · exact .refl s

theorem State.steps_homeFailed (s : State) (m : Move) (r : EndReason) (b : Bool) : s.Steps (s.homeFailed m r b) := by
  unfold State.homeFailed
  refine .trans ?_ (State.steps_tellHead _ _ _)
  refine .trans ?_ (State.steps_takeEnd _ _ _ _ _)
  refine .trans ?_ (State.steps_takeRestartMark _ _)
  refine .trans ?_ (State.steps_failTaken _ _)
  refine .trans ?_ (State.steps_homeEnded _ _ _)
  exact (State.steps_stopRunning _ _ _ _).trans
    (State.steps_modLoop _ _ (fun _ => ⟨rfl, rfl, rfl, rfl, rfl, rfl⟩) (fun _ => rfl) (fun _ => rfl))

end Sys2Proof.Machine
end

