-- ==== Sys2Proof/Laws/Serve.lean ====
section
/-! SUPPORT. What the operations of rounds and campaigns leave alone (`Mild`), and what the start of a move leaves
alone (`State.onlyDrive_serve`). -/

namespace Sys2Proof.Machine

/-! ### Mild: rounds, timers and campaigns beside wants, entries and strokes -/

/-- What operations of rounds and campaigns cannot change. -/
structure State.Mild (s t : State) : Prop where
  powered : t.powered = s.powered
  rooms : t.rooms = s.rooms
  floorList : t.floorList = s.floorList
  house : t.house = s.house
  storage : t.storage = s.storage
  channels : t.channels = s.channels
  link : t.link = s.link
  pending : t.pending = s.pending
  moving : t.drive.moving = s.drive.moving
  dwell : t.drive.dwell = s.drive.dwell
  state : t.drive.state = s.drive.state
  loops : ∀ i, (s.loop i).Steady (t.loop i)

theorem State.Quiet.mild {s t : State} (h : s.Quiet t) : s.Mild t :=
  ⟨h.powered, h.rooms, h.floorList, h.house, h.storage, h.channels, h.link, h.pending, h.moving, h.dwell, h.state,
    h.loops⟩

/-- A quiet operation does only what the Demand Unit and the Drive Queue make of a change. -/
theorem State.Quiet.onlyDemand {s t : State} (h : s.Quiet t) : s.OnlyDemand t :=
  ⟨h.powered, h.rooms, h.floorList, h.house, h.storage, h.channels, h.supplyRefs, h.timers, h.campaigns, h.pending,
    h.moving, h.dwell, h.state, h.loops⟩

theorem State.Mild.refl (s : State) : s.Mild s := (State.Quiet.refl s).mild

theorem State.Mild.trans {s t u : State} (h : s.Mild t) (g : t.Mild u) : s.Mild u :=
  ⟨g.powered.trans h.powered, g.rooms.trans h.rooms, g.floorList.trans h.floorList, g.house.trans h.house,
    g.storage.trans h.storage, g.channels.trans h.channels, g.link.trans h.link, g.pending.trans h.pending,
    g.moving.trans h.moving, g.dwell.trans h.dwell, g.state.trans h.state, fun i => (h.loops i).trans (g.loops i)⟩

theorem State.mild_ite {c : Prop} [Decidable c] {s t u : State} (h : s.Mild t) (g : s.Mild u) :
    s.Mild (if c then t else u) := by split <;> assumption

theorem State.mild_setTimer (s : State) (m : Manifold) (x : RoundTimer) : s.Mild (s.setTimer m x) :=
  ⟨rfl, rfl, rfl, rfl, rfl, rfl, rfl, rfl, rfl, rfl, rfl, fun _ => rfl⟩

theorem State.mild_setSupplyRef (s : State) (m : Manifold) (x : Option Int) : s.Mild (s.setSupplyRef m x) :=
  ⟨rfl, rfl, rfl, rfl, rfl, rfl, rfl, rfl, rfl, rfl, rfl, fun _ => rfl⟩

theorem State.mild_setCampaign (s : State) (m : Manifold) (x : Campaign) : s.Mild (s.setCampaign m x) :=
  ⟨rfl, rfl, rfl, rfl, rfl, rfl, rfl, rfl, rfl, rfl, rfl, fun _ => rfl⟩

theorem State.mild_markHouse (s : State) (b : Bool) : s.Mild (s.markHouse b) := (s.quiet_markHouse b).mild

theorem State.mild_roundStart (s : State) (m : Manifold) (b : Bool) : s.Mild (s.roundStart m b) :=
  (s.mild_setTimer m _).trans (State.mild_setSupplyRef _ _ _)

theorem State.mild_pauseRound (s : State) (m : Manifold) : s.Mild (s.pauseRound m) :=
  (s.quiet_clearCounters m).mild.trans (State.mild_roundStart _ _ _)

theorem State.mild_coupling (s : State) (m : Manifold) : s.Mild (s.coupling m) :=
  (s.quiet_clearCounters m).mild.trans (State.mild_roundStart _ _ _)

theorem State.mild_couplingIf (s : State) (c : Bool) (m : Manifold) : s.Mild (s.couplingIf c m) :=
  State.mild_ite (s.mild_coupling m) (.refl s)

theorem State.mild_checkTimer (s : State) (m : Manifold) : s.Mild (s.checkTimer m) :=
  State.mild_ite
    (State.mild_ite (.refl s) ((s.quiet_clearCounters m).mild.trans (State.mild_roundStart _ _ _)))
    (State.mild_ite (s.mild_setTimer m _) (.refl s))

theorem State.mild_checkTimerIf (s : State) (c : Bool) (m : Manifold) : s.Mild (s.checkTimerIf c m) :=
  State.mild_ite (s.mild_checkTimer m) (.refl s)

theorem State.mild_enterRounds (s : State) (m : Manifold) : s.Mild (s.enterRounds m) := by
  unfold State.enterRounds
  exact (s.mild_setCampaign m _).trans (State.mild_pauseRound _ m)

theorem State.mild_endOpening (s : State) (m : Manifold) : s.Mild (s.endOpening m) :=
  State.mild_ite (s.mild_enterRounds m) (.refl s)

theorem State.mild_examineOpening (s : State) (m : Manifold) : s.Mild (s.examineOpening m) :=
  State.mild_ite ((s.mild_enterRounds m).trans (State.mild_markHouse _ _)) (.refl s)

theorem State.mild_examineOpeningIf (s : State) (c : Bool) (m : Manifold) : s.Mild (s.examineOpeningIf c m) :=
  State.mild_ite (s.mild_examineOpening m) (.refl s)

theorem State.mild_suspend (s : State) (m : Manifold) (r : ResumeState) : s.Mild (s.suspend m r) := by
  unfold State.suspend
  exact (s.mild_setCampaign m _).trans (State.mild_checkTimerIf _ _ m)

theorem State.mild_resumed (s : State) (m : Manifold) : s.Mild (s.resumed m) :=
  State.mild_ite (s.mild_enterRounds m) ((s.mild_setCampaign m _).trans (State.mild_endOpening _ m))

theorem State.mild_checkCampaign (s : State) (m : Manifold) : s.Mild (s.checkCampaign m) := by
  have told : ∀ {t : State}, s.Mild t → s.Mild (t.markHouse true) := fun h => h.trans (State.mild_markHouse _ _)
  unfold State.checkCampaign
  split
  · exact .refl s
  · exact State.mild_ite (told (s.mild_suspend m _)) (.refl s)
  · exact State.mild_ite (told (s.mild_suspend m _)) (.refl s)
  · exact State.mild_ite (.refl s) (told (s.mild_resumed m))

theorem State.mild_returnToIdle (s : State) (m : Manifold) (o : LastOutcome) (r : Option AbandonReason) :
    s.Mild (s.returnToIdle m o r) := by
  unfold State.returnToIdle
  refine .trans ?_ (State.quiet_recompute _).mild
  exact (s.mild_setCampaign m _).trans (State.mild_checkTimerIf _ _ m)

theorem State.mild_abandon (s : State) (m : Manifold) (r : AbandonReason) : s.Mild (s.abandon m r) :=
  State.mild_ite ((s.mild_returnToIdle m _ _).trans (State.mild_markHouse _ _)) (.refl s)

theorem State.mild_examineStart (s : State) (m : Manifold) : s.Mild (s.examineStart m) :=
  State.mild_ite (s.mild_suspend m _) (s.mild_endOpening m)

theorem State.mild_startCampaign (s : State) (m : Manifold) : s.Mild (s.startCampaign m) := by
  unfold State.startCampaign
  refine .trans ?_ (State.mild_markHouse _ _)
  refine .trans ?_ (State.mild_examineStart _ _)
  exact (s.mild_setCampaign m _).trans (State.quiet_recompute _).mild

theorem State.mild_lifeChanged (s : State) (i : LoopIx) (old : Lifecycle) : s.Mild (s.lifeChanged i old) := by
  unfold State.lifeChanged
  refine .trans ?_ (State.quiet_markLoop _ _ _).mild
  refine .trans ?_ (State.mild_examineOpeningIf _ _ _)
  refine .trans ?_ (State.quiet_recount _ _).mild
  exact s.quiet_recompute.mild.trans (State.mild_couplingIf _ _ _)

theorem State.mild_wantAim (s : State) (i : LoopIx) : s.Mild (s.wantAim i) := by
  unfold State.wantAim
  split
  · exact State.mild_ite (s.quiet_want i _).mild (.refl s)
  · exact .refl s

theorem State.mild_aim (s : State) (i : LoopIx) : s.Mild (s.aim i) :=
  (s.mild_wantAim i).trans (State.quiet_modLoop _ i (f := fun l => l.setPending none) fun _ => rfl).mild

theorem State.mild_dropWork (s : State) (i : LoopIx) : s.Mild (s.dropWork i) := by
  unfold State.dropWork
  refine .trans ?_ (State.quiet_tellIdle _ _).mild
  refine .trans ?_ (State.quiet_tellWork _ _ _).mild
  exact (s.quiet_clearWork i).mild.trans (State.mild_examineOpening _ _)

theorem State.mild_trimHouse (s : State) (old new : House) : s.Mild (s.trimHouse old new) := by
  unfold State.trimHouse
  refine State.mild_ite ?_ (State.mild_ite ((s.mild_checkTimer .a).trans (State.mild_checkTimer _ .b)) (.refl s))
  exact (s.quiet_recountAll.mild.trans (State.mild_pauseRound _ .a)).trans (State.mild_pauseRound _ .b)

theorem State.mild_campaignHouse (s : State) (old new : House) : s.Mild (s.campaignHouse old new) := by
  unfold State.campaignHouse
  exact State.mild_ite ((s.mild_abandon .a _).trans (State.mild_abandon _ .b _))
    (State.mild_ite ((s.mild_checkCampaign .a).trans (State.mild_checkCampaign _ .b)) (.refl s))

/-- A change of the House Record, and then only mild operations. -/
theorem State.mild_applyHouse (s : State) (h : House) : (s.setHouse h).Mild (s.applyHouse h) := by
  unfold State.applyHouse
  refine .trans ?_ (State.quiet_markHouseIf _ _ _).mild
  refine .trans ?_ (State.mild_campaignHouse _ _ _)
  refine .trans ?_ (State.mild_trimHouse _ _ _)
  exact (State.quiet_recomputeIf _ _).mild

/-! ### OnlyDrive -/

theorem Loop.Steady.kept {l x : Loop} (h : l.Steady x) : l.Kept x := by
  rcases l with ⟨⟩
  rcases x with ⟨⟩
  simp only [Loop.Steady, Loop.Kept, Loop.mk.injEq] at *
  simp_all

theorem Loop.Kept.refl (l : Loop) : l.Kept l := rfl

theorem Loop.Kept.trans {l x y : Loop} (h : l.Kept x) (g : x.Kept y) : l.Kept y := by
  rcases l with ⟨⟩
  rcases x with ⟨⟩
  rcases y with ⟨⟩
  simp only [Loop.Kept, Loop.mk.injEq] at *
  simp_all

theorem Loop.Kept.life {l x : Loop} (h : l.Kept x) : x.life = l.life := by
  rcases l with ⟨⟩
  rcases x with ⟨⟩
  simp only [Loop.Kept, Loop.mk.injEq] at *
  simp_all

theorem Loop.Kept.restartMark {l x : Loop} (h : l.Kept x) : x.restartMark = l.restartMark := by
  rcases l with ⟨⟩
  rcases x with ⟨⟩
  simp only [Loop.Kept, Loop.mk.injEq] at *
  simp_all

theorem State.OnlyDrive.refl (but : List LoopIx) (s : State) : State.OnlyDrive but s s :=
  ⟨rfl, rfl, rfl, rfl, rfl, rfl, rfl, List.Sublist.refl _, fun _ h => .inl h, fun _ _ => .inl rfl⟩

theorem State.OnlyDrive.trans {but : List LoopIx} {s t u : State} (h : State.OnlyDrive but s t)
    (g : State.OnlyDrive [] t u) : State.OnlyDrive but s u := by
  have loops : ∀ i, (t.loop i).life = .vacant → (u.loop i).life = .vacant := fun i w => by
    rcases g.loops i List.not_mem_nil with k | k
    · rw [k.life, w]
    · exact k.2
  refine ⟨g.powered.trans h.powered, g.rooms.trans h.rooms, g.house.trans h.house, g.storage.trans h.storage,
    g.channels.trans h.channels, g.pending.trans h.pending, g.driveState.trans h.driveState,
    g.members.trans h.members, fun i w => ?_, fun i w => ?_⟩
  · rcases h.floor i w with k | k
    · exact g.floor i k
    · exact .inr (loops i k)
  · rcases h.loops i w with k | k
    · rcases g.loops i List.not_mem_nil with j | j
      · exact .inl (k.trans j)
      · exact .inr ⟨k.life ▸ j.1, j.2⟩
    · exact .inr ⟨k.1, loops i k.2⟩

/-- A relation that frees no loop frees none of a list. -/
theorem State.OnlyDrive.widen {s t : State} (h : State.OnlyDrive [] s t) (but : List LoopIx) :
    State.OnlyDrive but s t :=
  ⟨h.powered, h.rooms, h.house, h.storage, h.channels, h.pending, h.driveState, h.members, h.floor,
    fun i _ => h.loops i List.not_mem_nil⟩

theorem State.Mild.onlyDrive {s t : State} (h : s.Mild t) : State.OnlyDrive [] s t :=
  ⟨h.powered, h.rooms, h.house, h.storage, h.channels, h.pending, h.state, by rw [h.floorList],
    fun i w => .inl (h.floorList ▸ w), fun i _ => .inl (h.loops i).kept⟩

/-- Only one loop's record changed: nothing but that loop. -/
theorem State.onlyDrive_setLoop (s : State) (i : LoopIx) (l : Loop) : State.OnlyDrive [i] s (s.setLoop i l) := by
  refine ⟨rfl, rfl, rfl, rfl, rfl, rfl, rfl, List.Sublist.refl _, fun _ h => .inl h, fun j w => .inl ?_⟩
  rw [State.loop_setLoop]
  split
  · next e => exact absurd (e ▸ List.mem_singleton.2 rfl) w
  · exact rfl

/-- A change of one loop that keeps it. -/
theorem State.onlyDrive_modLoop (s : State) (i : LoopIx) {f : Loop → Loop} (h : ∀ l : Loop, l.Kept (f l)) :
    State.OnlyDrive [] s (s.modLoop i f) := by
  refine ⟨rfl, rfl, rfl, rfl, rfl, rfl, rfl, List.Sublist.refl _, fun _ h => .inl h, fun j _ => .inl ?_⟩
  rw [State.loop_modLoop]
  split
  · next e => exact e ▸ h _
  · exact rfl

theorem State.onlyDrive_setMoving (s : State) (m : Option Move) : State.OnlyDrive [] s (s.setMoving m) :=
  ⟨rfl, rfl, rfl, rfl, rfl, rfl, rfl, List.Sublist.refl _, fun _ h => .inl h, fun _ _ => .inl rfl⟩

theorem State.onlyDrive_setDwell (s : State) (d : Option Dwell) : State.OnlyDrive [] s (s.setDwell d) :=
  ⟨rfl, rfl, rfl, rfl, rfl, rfl, rfl, List.Sublist.refl _, fun _ h => .inl h, fun _ _ => .inl rfl⟩

theorem State.onlyDrive_setQueue (s : State) (q : List Entry) : State.OnlyDrive [] s (s.setQueue q) :=
  ⟨rfl, rfl, rfl, rfl, rfl, rfl, rfl, List.Sublist.refl _, fun _ h => .inl h, fun _ _ => .inl rfl⟩

/-- What a loop's becoming VACANT leaves of the rest, with every other loop steady. -/
structure State.Vacates (i : LoopIx) (s t : State) : Prop where
  powered : t.powered = s.powered
  rooms : t.rooms = s.rooms
  house : t.house = s.house
  storage : t.storage = s.storage
  channels : t.channels = s.channels
  link : t.link = s.link
  pending : t.pending = s.pending
  moving : t.drive.moving = s.drive.moving
  dwell : t.drive.dwell = s.drive.dwell
  state : t.drive.state = s.drive.state
  floorList : t.floorList = s.floorList.filter fun j => decide (j ≠ i)
  loop : (s.loop i).vacated.Steady (t.loop i)
  loops : ∀ j, j ≠ i → (s.loop j).Steady (t.loop j)

theorem Loop.Steady.vacated {l x : Loop} (h : l.Steady x) : l.vacated.Steady x.vacated := by
  rcases l with ⟨⟩
  rcases x with ⟨⟩
  simp only [Loop.Steady, Loop.vacated, Loop.vacant, Loop.mk.injEq] at *
  simp_all

theorem State.vacates_start (s : State) (i : LoopIx) :
    State.Vacates i s (((s.dropWork i).dropMember i).modLoop i Loop.vacated) := by
  have q := s.mild_dropWork i
  generalize s.dropWork i = u at q ⊢
  refine ⟨q.powered, q.rooms, q.house, q.storage, q.channels, q.link, q.pending, q.moving, q.dwell, q.state, ?_, ?_,
    fun j w => ?_⟩
  · simp [State.dropMember, q.floorList]
  · rw [State.loop_modLoop_self]
    exact (q.loops i).vacated
  · rw [State.loop_modLoop]
    split
    · next e => exact absurd e.symm w
    · exact q.loops j

theorem State.vacates_becomeVacant (s : State) (i : LoopIx) : State.Vacates i s (s.becomeVacant i) := by
  have v := s.vacates_start i
  have g : (((s.dropWork i).dropMember i).modLoop i Loop.vacated).Mild (s.becomeVacant i) := by
    unfold State.becomeVacant
    refine .trans ?_ (State.quiet_fill _).mild
    refine .trans ?_ (State.quiet_markRoomOf _ _).mild
    exact State.mild_lifeChanged _ _ _
  generalize s.becomeVacant i = t at g ⊢
  generalize ((s.dropWork i).dropMember i).modLoop i Loop.vacated = u at g v
  exact ⟨g.powered.trans v.powered, g.rooms.trans v.rooms, g.house.trans v.house, g.storage.trans v.storage,
    g.channels.trans v.channels, g.link.trans v.link, g.pending.trans v.pending, g.moving.trans v.moving,
    g.dwell.trans v.dwell, g.state.trans v.state, g.floorList.trans v.floorList, v.loop.trans (g.loops i),
    fun j w => (v.loops j w).trans (g.loops j)⟩

theorem State.Vacates.life {i : LoopIx} {s t : State} (h : State.Vacates i s t) : (t.loop i).life = .vacant := by
  rw [h.loop.kept.life]
  rfl

theorem State.Vacates.mark {i : LoopIx} {s t : State} (h : State.Vacates i s t) : (t.loop i).restartMark = false := by
  rw [h.loop.kept.restartMark]
  rfl

/-- A loop that becomes VACANT: every other loop is kept, and the Floor List loses that loop alone. -/
theorem State.Vacates.onlyDrive {i : LoopIx} {s t : State} (h : State.Vacates i s t) : State.OnlyDrive [i] s t := by
  refine ⟨h.powered, h.rooms, h.house, h.storage, h.channels, h.pending, h.state, ?_, fun j w => ?_, fun j w => ?_⟩
  · rw [h.floorList]
    exact List.filter_sublist
  · rw [h.floorList]
    by_cases e : j = i
    · subst e
      exact .inr h.life
    · exact .inl (List.mem_filter.2 ⟨w, by simpa using e⟩)
  · exact .inl (h.loops j (by simpa using w)).kept

/-! ### The start of a move -/

/-- The drive runs and no loop holds a restart mark. -/
structure State.Free (s : State) : Prop where
  state : s.drive.state = .running
  marks : ∀ i, (s.loop i).restartMark = false

/-- What the start of a move does from a free state: another free state, and only what `OnlyDrive` says. -/
def State.Starts (s t : State) : Prop := s.Free → t.Free ∧ State.OnlyDrive [] s t

theorem State.Starts.refl (s : State) : s.Starts s := fun f => ⟨f, .refl _ s⟩

theorem State.Starts.trans {s t u : State} (h : s.Starts t) (g : t.Starts u) : s.Starts u := fun f =>
  ⟨(g (h f).1).1, (h f).2.trans (g (h f).1).2⟩

theorem State.Mild.starts {s t : State} (h : s.Mild t) : s.Starts t := fun f =>
  ⟨⟨h.state.trans f.state, fun i => (h.loops i).kept.restartMark.trans (f.marks i)⟩, h.onlyDrive⟩

theorem State.starts_modLoop (s : State) (i : LoopIx) {f : Loop → Loop} (h : ∀ l : Loop, l.Kept (f l)) :
    s.Starts (s.modLoop i f) := fun w => by
  refine ⟨⟨w.state, fun j => ?_⟩, s.onlyDrive_modLoop i h⟩
  rw [State.loop_modLoop]
  split
  · next e => exact (h _).restartMark.trans (w.marks i)
  · exact w.marks j

theorem State.starts_setMoving (s : State) (m : Option Move) : s.Starts (s.setMoving m) := fun w =>
  ⟨⟨w.state, w.marks⟩, s.onlyDrive_setMoving m⟩

theorem State.starts_setDwell (s : State) (d : Option Dwell) : s.Starts (s.setDwell d) := fun w =>
  ⟨⟨w.state, w.marks⟩, s.onlyDrive_setDwell d⟩

theorem State.starts_setQueue (s : State) (q : List Entry) : s.Starts (s.setQueue q) := fun w =>
  ⟨⟨w.state, w.marks⟩, s.onlyDrive_setQueue q⟩

theorem State.starts_ite {c : Prop} [Decidable c] {s t u : State} (h : c → s.Starts t) (g : ¬c → s.Starts u) :
    s.Starts (if c then t else u) := by
  split
  · next w => exact h w
  · next w => exact g w

/-- A RETIRING loop that becomes VACANT. -/
theorem State.Vacates.starts {i : LoopIx} {s t : State} (h : State.Vacates i s t) (r : (s.loop i).life = .retiring) :
    s.Starts t := fun w => by
  have d := h.onlyDrive
  refine ⟨⟨h.state.trans w.state, fun j => ?_⟩, ⟨d.powered, d.rooms, d.house, d.storage, d.channels, d.pending,
    d.driveState, d.members, d.floor, fun j _ => ?_⟩⟩
  · by_cases e : j = i
    · subst e
      exact h.mark
    · exact (h.loops j e).kept.restartMark.trans (w.marks j)
  · by_cases e : j = i
    · subst e
      exact .inr ⟨r, h.life⟩
    · exact .inl (h.loops j e).kept

theorem State.starts_retireAtEnd (s : State) (m : Move) : s.Starts (s.retireAtEnd m) :=
  State.starts_ite (fun w => (s.vacates_becomeVacant m.loop).starts w.1) (fun _ => .refl s)

/-- A free state holds no restart mark to be taken. -/
theorem State.starts_takeRestartMark (s : State) (i : LoopIx) : s.Starts (s.takeRestartMark i) := fun w => by
  unfold State.takeRestartMark
  rw [if_neg (by simp [w.marks i])]
  exact ⟨w, .refl _ s⟩

theorem State.starts_stopRunning (s : State) (m : Move) (e : MoveEnd) (r : Option EndReason) :
    s.Starts (s.stopRunning m e r) := (s.starts_setMoving none).trans (State.starts_setDwell _ (some (m.ended e r)))

/-- A running drive stays running at a move's end. -/
theorem State.starts_takeEnd (s : State) (m : Move) (e : MoveEnd) (r : Option EndReason) :
    s.Starts (s.takeEnd m e r false) := by
  unfold State.takeEnd
  refine .trans ?_ (State.quiet_markLoopIf _ _ _ _).mild.starts
  refine .trans ?_ (State.mild_examineOpening _ _).starts
  refine .trans ?_ (State.mild_aim _ _).starts
  refine .trans (s.starts_stopRunning m e r) ?_
  intro w
  unfold State.holdAtEnd
  rw [if_neg (fun c => by
    rcases c with c | c
    · exact Bool.noConfusion c
    · rw [w.state] at c
      exact DriveState.noConfusion c)]
  exact ⟨w, .refl _ _⟩

theorem State.starts_moveDone (s : State) (m : Move) (n : Nat) : s.Starts (s.moveDone m n false) := by
  unfold State.moveDone
  refine .trans ?_ (State.quiet_tellHead _ _ _).mild.starts
  refine .trans ?_ (State.starts_takeEnd _ _ _ _)
  refine .trans ?_ (State.starts_takeRestartMark _ _)
  refine .trans ?_ (State.starts_retireAtEnd _ _)
  refine .trans ?_ (State.quiet_recount _ _).mild.starts
  exact (s.starts_stopRunning m _ _).trans (State.starts_modLoop _ _ (f := fun l => l.arrived n false) fun _ => rfl)

theorem State.starts_legDone (s : State) (m : Move) (n : Nat) : s.Starts (s.legDone m n false) :=
  State.starts_ite
    (fun _ => State.starts_ite (fun _ => (s.starts_setMoving _).trans (State.starts_moveDone _ _ _))
      (fun _ => s.starts_setMoving _))
    (fun _ => s.starts_moveDone m n)

theorem State.starts_reachAtOnce (s : State) (m : Move) : s.Starts (s.reachAtOnce m) :=
  State.starts_ite (fun _ => s.starts_legDone m _) (fun _ => .refl s)

theorem State.starts_wantAtStart (s : State) (m : Move) : s.Starts (s.wantAtStart m) :=
  State.starts_ite (fun _ => .refl s) (fun _ => (s.quiet_unwant _).mild.starts)

theorem State.starts_beginMove (s : State) (m : Move) : s.Starts (s.beginMove m) := by
  unfold State.beginMove
  refine .trans ?_ (State.starts_reachAtOnce _ _)
  refine .trans ?_ (State.quiet_fill _).mild.starts
  refine .trans ?_ (State.quiet_recount _ _).mild.starts
  exact ((s.starts_setMoving _).trans (State.starts_wantAtStart _ _)).trans
    (State.starts_modLoop _ _ (f := fun l => l.setPosition none) fun _ => rfl)

theorem State.starts_startMove (s : State) : s.Starts s.startMove := by
  unfold State.startMove
  split
  · exact .refl s
  · exact (s.starts_setQueue _).trans (State.starts_beginMove _ _)

/-- A state in which a move may start is free where the restart marks keep their law. -/
theorem State.MarkLaw.free {s : State} (h : s.MarkLaw) (c : s.canStart = true) : s.Free := by
  simp only [State.canStart, Bool.and_eq_true, decide_eq_true_eq] at c
  refine ⟨c.1.2, fun i => ?_⟩
  rcases e : (s.loop i).restartMark with _ | _
  · rfl
  · have := h i e
    have n : s.drive.moving = none := by simpa using c.1.1.1
    simp [State.movingLoop, n] at this

/-- What the start of the next move, where one may start, does to the rest. -/
theorem State.onlyDrive_serve {s : State} (h : s.MarkLaw) : State.OnlyDrive [] s s.serve := by
  unfold State.serve
  split
  · next c => exact (s.starts_startMove (h.free c)).2
  · exact .refl _ s

/-- While the driver is busy no move starts. -/
theorem State.DriverBusy.canStart {s : State} (h : s.DriverBusy) : s.canStart = false := by
  rcases h with h | h | h
  · have : s.drive.moving.isNone = false := by simpa [Option.isSome_iff_ne_none] using h
    simp [State.canStart, this]
  · have : s.drive.dwell.isNone = false := by simpa [Option.isSome_iff_ne_none] using h
    simp [State.canStart, this]
  · simp [State.canStart, h]

theorem State.DriverBusy.serve {s : State} (h : s.DriverBusy) : s.serve = s := by
  rw [State.serve, h.canStart]
  rfl

theorem State.Quiet.busy {s t : State} (h : s.Quiet t) (b : s.DriverBusy) : t.DriverBusy := by
  unfold State.DriverBusy at *
  rw [h.moving, h.dwell, h.state]
  exact b

theorem State.MarkLaw.of_marks {s t : State} (h : s.MarkLaw) (k : ∀ i, (t.loop i).restartMark = (s.loop i).restartMark)
    (g : t.drive.moving = s.drive.moving) : t.MarkLaw := fun i w => by
  have := h i (by rw [← k i]; exact w)
  simpa [State.movingLoop, g] using this

theorem State.Quiet.markLaw {s t : State} (h : s.Quiet t) (k : s.MarkLaw) : t.MarkLaw :=
  k.of_marks (fun i => (h.loops i).kept.restartMark) h.moving

theorem State.Mild.markLaw {s t : State} (h : s.Mild t) (k : s.MarkLaw) : t.MarkLaw :=
  k.of_marks (fun i => (h.loops i).kept.restartMark) h.moving

theorem State.Mild.busy {s t : State} (h : s.Mild t) (b : s.DriverBusy) : t.DriverBusy := by
  unfold State.DriverBusy at *
  rw [h.moving, h.dwell, h.state]
  exact b

theorem State.Vacates.markLaw {i : LoopIx} {s t : State} (h : State.Vacates i s t) (k : s.MarkLaw) : t.MarkLaw := by
  intro j w
  by_cases e : j = i
  · subst e
    rw [h.mark] at w
    cases w
  · have := k j (by rw [← (h.loops j e).kept.restartMark]; exact w)
    simpa [State.movingLoop, h.moving] using this

theorem State.Vacates.busy {i : LoopIx} {s t : State} (h : State.Vacates i s t) (b : s.DriverBusy) : t.DriverBusy := by
  unfold State.DriverBusy at *
  rw [h.moving, h.dwell, h.state]
  exact b

/-- A change of one loop's record that adds no restart mark. -/
theorem State.MarkLaw.setLoop {s : State} (h : s.MarkLaw) (i : LoopIx) {l : Loop}
    (g : l.restartMark = (s.loop i).restartMark) : (s.setLoop i l).MarkLaw :=
  h.of_marks (fun j => by
    rw [State.loop_setLoop]
    split
    · next e => rw [← e, g]
    · rfl) rfl

/-- A quiet change, then the start of the next move. -/
theorem State.Quiet.follows {s t : State} (h : s.Quiet t) (k : s.MarkLaw) : s.FollowsDemand t.serve :=
  ⟨h.mild.onlyDrive.trans (State.onlyDrive_serve (h.markLaw k)), fun b => by
    rw [(h.busy b).serve]
    exact h.onlyDemand⟩

end Sys2Proof.Machine
end

