-- ==== Sys2Proof/Laws/Answers.lean ====
section
/-! SUPPORT. What taking a command adds around its effect: the matching of the watches, the answer, and the outcome of
`event` and `request`. -/

namespace Sys2Proof.Machine

/-! ### Watches -/

@[simp] theorem Slot.told_nil (x : Slot) : x.told [] = x := rfl

@[simp] theorem Slot.told_cons (x : Slot) (r : Report) (l : List Report) : x.told (r :: l) = (x.hear r).told l := rfl

theorem Slot.told_append (x : Slot) (l m : List Report) : x.told (l ++ m) = (x.told l).told m := List.foldl_append

theorem Slot.unmarked_hear (x : Slot) (r : Report) : (x.hear r).unmarked = x.unmarked := by
  unfold Slot.hear
  split <;> rfl

theorem Slot.unmarked_told (x : Slot) (l : List Report) : (x.told l).unmarked = x.unmarked := by
  induction l generalizing x with
  | nil => rfl
  | cons r l ih => rw [Slot.told_cons, ih, Slot.unmarked_hear]

/-- Every slot is told the reports of the command. -/
theorem State.tellWatches_slot (t : State) (j : SlotIx) : t.tellWatches.slot j = (t.slot j).map fun x => x.told t.reports := by
  rw [State.tellWatches, State.slot_clearReports, State.slot_mapSlots]

theorem State.tellWatches_unmarked (t : State) (j : SlotIx) :
    (t.tellWatches.slot j).map Slot.unmarked = (t.slot j).map Slot.unmarked := by
  rw [State.tellWatches_slot, Option.map_map]
  exact congrArg (Option.map · (t.slot j)) (funext fun x => x.unmarked_told t.reports)

@[simp] theorem State.tellWatches_reports (t : State) : t.tellWatches.reports = [] := rfl

/-- Matching the reports leaves every record alone. -/
theorem State.tellWatches_records (t : State) : t.SameRecords t.tellWatches := by
  unfold State.tellWatches
  constructor <;> simp

@[simp] theorem State.tellWatches_window (t : State) : t.tellWatches.link.window = t.link.window := by
  simp [State.tellWatches]
@[simp] theorem State.tellWatches_cursor (t : State) : t.tellWatches.link.cursor = t.link.cursor := by
  simp [State.tellWatches]
@[simp] theorem State.tellWatches_lineBreak (t : State) : t.tellWatches.link.lineBreak = t.link.lineBreak := by
  simp [State.tellWatches]
@[simp] theorem State.tellWatches_sent (t : State) : t.tellWatches.link.sent = t.link.sent := by
  simp [State.tellWatches]

/-- Matching no report changes nothing. -/
theorem State.tellWatches_quiet {s : State} (h : s.reports = []) : s.tellWatches = s := by
  rcases s with ⟨p, l, r, f, fs, h0, st, d, c, sr, ti, ca, k, re, pe⟩
  simp only at h
  subst h
  simp only [State.tellWatches, State.mapSlots, State.clearReports, State.slot, State.mk.injEq, true_and, and_true]
  rcases k with ⟨ro, w, cu, b, se⟩
  simp only [Link.mk.injEq, and_true]
  ext i hi
  simp [Slot.told_nil]

theorem State.SameRecords.refl (s : State) : s.SameRecords s :=
  ⟨rfl, rfl, rfl, rfl, rfl, rfl, rfl, rfl, rfl, rfl, rfl, rfl, rfl⟩

theorem State.SameRecords.trans {s t u : State} (h : s.SameRecords t) (g : t.SameRecords u) : s.SameRecords u :=
  ⟨g.powered.trans h.powered, g.loops.trans h.loops, g.rooms.trans h.rooms, g.floorList.trans h.floorList,
    g.floorShort.trans h.floorShort, g.house.trans h.house, g.storage.trans h.storage, g.drive.trans h.drive,
    g.channels.trans h.channels, g.supplyRefs.trans h.supplyRefs, g.timers.trans h.timers,
    g.campaigns.trans h.campaigns, g.pending.trans h.pending⟩

theorem State.SameRecords.loop {s t : State} (h : s.SameRecords t) (i : LoopIx) : t.loop i = s.loop i :=
  State.loop_congr h.loops i

theorem State.SameRecords.room {s t : State} (h : s.SameRecords t) (r : RoomIx) : t.room r = s.room r :=
  State.room_congr h.rooms r

theorem State.SameRecords.onlyDemand {s t : State} (h : s.SameRecords t) : s.OnlyDemand t :=
  ⟨h.powered, h.rooms, h.floorList, h.house, h.storage, h.channels, h.supplyRefs, h.timers, h.campaigns, h.pending,
    by rw [h.drive], by rw [h.drive], by rw [h.drive], fun i => by rw [h.loop i]; exact .refl _⟩

theorem State.SameRecords.onlyDrive {s t : State} (h : s.SameRecords t) : State.OnlyDrive [] s t :=
  ⟨h.powered, h.rooms, h.house, h.storage, h.channels, h.pending, by rw [h.drive], by rw [h.floorList],
    fun i w => .inl (h.floorList ▸ w), fun i _ => .inl (by rw [h.loop i]; exact .refl _)⟩

theorem State.OnlyDemand.trans {s t u : State} (h : s.OnlyDemand t) (g : t.OnlyDemand u) : s.OnlyDemand u :=
  ⟨g.powered.trans h.powered, g.rooms.trans h.rooms, g.floorList.trans h.floorList, g.house.trans h.house,
    g.storage.trans h.storage, g.channels.trans h.channels, g.supplyRefs.trans h.supplyRefs, g.timers.trans h.timers,
    g.campaigns.trans h.campaigns, g.pending.trans h.pending, g.moving.trans h.moving, g.dwell.trans h.dwell,
    g.driveState.trans h.driveState, fun i => (h.loops i).trans (g.loops i)⟩

theorem State.SameRecords.busy {s t : State} (h : s.SameRecords t) (b : s.DriverBusy) : t.DriverBusy := by
  unfold State.DriverBusy at *
  rw [h.drive]
  exact b

theorem State.SameRecords.markLaw {s t : State} (h : s.SameRecords t) (k : s.MarkLaw) : t.MarkLaw :=
  k.of_marks (fun i => by rw [h.loop i]) (by rw [h.drive])

theorem State.FollowsDemand.after {s t u : State} (h : s.SameRecords t) (g : t.FollowsDemand u) : s.FollowsDemand u :=
  ⟨h.onlyDrive.trans g.drive, fun b => h.onlyDemand.trans (g.busy (h.busy b))⟩

theorem State.FollowsDemand.before {s t u : State} (h : s.FollowsDemand t) (g : t.SameRecords u) : s.FollowsDemand u :=
  ⟨h.drive.trans g.onlyDrive, fun b => (h.busy b).trans g.onlyDemand⟩

/-! ### Events -/

/-- An event of a part with supply. -/
theorem event_next {s : State} (h : s.powered = true) (f : State → State) : event s f = .next (f s).tellWatches := by
  simp [event, Sys2Proof.Machine.powered, h]

/-- The link after an event whose effect leaves it alone. -/
theorem State.linkKept_told {s t : State} (h : t.link = s.link) : s.LinkKept t.tellWatches :=
  ⟨by simp [h], by simp [h], by simp [h], by simp [h],
    fun j => (t.tellWatches_unmarked j).trans (by rw [State.slot_congr (congrArg Link.roster h)]), rfl⟩

/-! ### Requests -/

/-- A state with a slot heard differs in the link alone. -/
theorem State.heard_records (s : State) (k : SlotIx) (x : Slot) : s.SameRecords (s.heard k x) :=
  ⟨rfl, rfl, rfl, rfl, rfl, rfl, rfl, rfl, rfl, rfl, rfl, rfl, rfl⟩

theorem State.slot_heard_self (s : State) (k : SlotIx) (x : Slot) : (s.heard k x).slot k = some x.heard := by
  rw [State.heard, State.slot_setWindow]
  exact State.slot_setSlot_self _ _ _

theorem State.slot_heard_other (s : State) {k j : SlotIx} (h : j ≠ k) (x : Slot) :
    (s.heard k x).slot j = s.slot j := by
  rw [State.heard, State.slot_setWindow, State.slot_setSlot]
  exact if_neg (fun e => h e.symm)

/-- The answer leaves every record alone. -/
theorem State.answer_records (s : State) (k : SlotIx) (y : Status) (body : List Byte) :
    s.SameRecords (s.answer k y body) := by
  unfold State.answer
  split <;> exact ⟨rfl, rfl, rfl, rfl, rfl, rfl, rfl, rfl, rfl, rfl, rfl, rfl, rfl⟩

theorem Taken.finish_records (r : Taken) (k : SlotIx) : r.state.SameRecords (r.finish k) :=
  r.state.tellWatches_records.trans (State.answer_records _ _ _ _)

/-- An answer to an occupied slot. -/
theorem State.answer_some {s : State} {k : SlotIx} {y : Slot} (h : s.slot k = some y) (st : Status)
    (body : List Byte) : s.answer k st body =
      (s.setSlot k (some y.unmarked)).setSent (frame y.address .answer (answerPayload st y.marker body)) := by
  simp only [State.answer, h]

/-- A request taken to a state in which the sender's slot holds `y`, its marker aside, and nothing else of the link has
changed, is answered. -/
theorem State.replies_of_slot {s u : State} {k : SlotIx} {x y z : Slot} (st : Status) (body : List Byte)
    (hk : u.slot k = some z) (hz : z.unmarked = ⟨y.address, 0, y.watches, none⟩) (hx : x = y)
    (ho : ∀ j, j ≠ k → u.slot j = s.slot j) (hw : u.link.window = .shut) (hc : u.link.cursor = s.link.cursor)
    (hb : u.link.lineBreak = s.link.lineBreak) : s.Replies k x st body (Taken.finish ⟨st, body, u⟩ k) := by
  subst hx
  have g := u.tellWatches_unmarked k
  rw [hk] at g
  obtain ⟨v, hv, gv⟩ : ∃ v, u.tellWatches.slot k = some v ∧ v.unmarked = z.unmarked := by
    rcases e : u.tellWatches.slot k with _ | v
    · rw [e] at g
      exact absurd g (by simp)
    · rw [e] at g
      exact ⟨v, rfl, by simpa using g⟩
  have e : Taken.finish ⟨st, body, u⟩ k =
      (u.tellWatches.setSlot k (some v.unmarked)).setSent (frame v.address .answer (answerPayload st v.marker body)) :=
    State.answer_some hv st body
  have va : v.unmarked.address = x.address := by rw [gv, hz]
  rw [e]
  refine ⟨⟨v.marker, ?_⟩, ?_, ?_, ?_, ?_, fun j w => ?_, ?_⟩
  · exact congrArg (fun a => frame a .answer (answerPayload st v.marker body)) va
  · simpa using hw
  · simpa using hc
  · simpa using hb
  · rw [State.slot_setSent, State.slot_setSlot_self, gv, hz]
  · rw [State.slot_setSent, State.slot_setSlot,
      if_neg (fun e => w e.symm), State.tellWatches_unmarked, ho j w]
  · rfl

/-- A request taken without touching the link is answered. -/
theorem State.replies_finish {s u : State} {k : SlotIx} {x : Slot} (h : u.link = (s.heard k x).link) (st : Status)
    (body : List Byte) : s.Replies k x st body (Taken.finish ⟨st, body, u⟩ k) := by
  have hr : u.link.roster = (s.heard k x).link.roster := by rw [h]
  refine State.replies_of_slot (y := x) (z := x.heard) st body ?_ rfl rfl (fun j w => ?_) (by rw [h]; rfl)
    (by rw [h]; rfl) (by rw [h]; rfl)
  · rw [State.slot_congr hr, State.slot_heard_self]
  · rw [State.slot_congr hr, State.slot_heard_other s w]

/-- What a valid request comes to. -/
theorem State.Polled.request {s : State} {k : SlotIx} {x : Slot} (h : s.Polled k x) (allowed : StationKind → Bool)
    (take : SlotIx → State → Taken) :
    Sys2Proof.Machine.request s allowed take =
      .next ((if allowed (slotKind k) then take k (s.heard k x) else (s.heard k x).refuse .denied).finish k) := by
  simp [Sys2Proof.Machine.request, reply, Sys2Proof.Machine.powered, h.powered, h.clear, h.window, h.slot]

/-- A request of a sender whose kind may make it. -/
theorem State.Polled.allowed {s : State} {k : SlotIx} {x : Slot} (h : s.Polled k x) {allowed : StationKind → Bool}
    (a : allowed (slotKind k) = true) (take : SlotIx → State → Taken) :
    Sys2Proof.Machine.request s allowed take = .next ((take k (s.heard k x)).finish k) := by
  rw [h.request, if_pos a]

/-- A request answered without effect. -/
theorem State.refused_finish (s : State) (k : SlotIx) (x : Slot) (st : Status) :
    s.Replies k x st [] (((s.heard k x).refuse st).finish k) ∧ s.SameRecords (((s.heard k x).refuse st).finish k) :=
  ⟨State.replies_finish rfl st [], (s.heard_records k x).trans (((s.heard k x).refuse st).finish_records k)⟩

/-- A request of a sender whose kind may not make it is answered DENIED, without effect. -/
theorem State.Polled.denied {s : State} {k : SlotIx} {x : Slot} (h : s.Polled k x) {allowed : StationKind → Bool}
    (a : allowed (slotKind k) = false) (take : SlotIx → State → Taken) :
    ∃ t, Sys2Proof.Machine.request s allowed take = .next t ∧ s.Replies k x .denied [] t ∧ s.SameRecords t := by
  refine ⟨_, h.request _ _, ?_⟩
  rw [if_neg (by simp [a])]
  exact s.refused_finish k x .denied

/-- A request taken to `u` without touching the link, after which the next move may start, and answered: what the answer
and the start of the move leave of the state before and of `u`. -/
theorem State.served_finish {s u : State} {k : SlotIx} {x : Slot} (but : List LoopIx) (st : Status)
    (hl : u.link = (s.heard k x).link) (hm : u.MarkLaw) (hd : State.OnlyDrive but (s.heard k x) u) :
    s.Replies k x st [] (Taken.finish ⟨st, [], u.serve⟩ k) ∧ State.OnlyDrive but s (Taken.finish ⟨st, [], u.serve⟩ k) ∧
      State.OnlyDrive [] u (Taken.finish ⟨st, [], u.serve⟩ k) ∧
      (u.DriverBusy → u.SameRecords (Taken.finish ⟨st, [], u.serve⟩ k)) := by
  have f := Taken.finish_records ⟨st, [], u.serve⟩ k
  have d : State.OnlyDrive [] u (Taken.finish ⟨st, [], u.serve⟩ k) := (State.onlyDrive_serve hm).trans f.onlyDrive
  refine ⟨?_, ?_, d, fun b => ?_⟩
  · refine State.replies_finish ?_ st []
    rw [(State.steps_serve _).calm.link, hl]
  · refine State.OnlyDrive.trans ?_ d
    exact ⟨hd.powered, hd.rooms, hd.house, hd.storage, hd.channels, hd.pending, hd.driveState, hd.members, hd.floor,
      hd.loops⟩
  · have e := b.serve
    rw [e] at f ⊢
    exact f

/-- A reply that counts, corrupt or not a request. -/
theorem State.Polled.reply {s : State} {k : SlotIx} {x : Slot} (h : s.Polled k x)
    (counts : SlotIx → Slot → State → State) : Sys2Proof.Machine.reply s counts = .next (counts k x s) := by
  simp [Sys2Proof.Machine.reply, Sys2Proof.Machine.powered, h.powered, h.clear, h.window, h.slot]

end Sys2Proof.Machine
end

