-- ==== Sys2Proof/Laws/Invariants.lean ====
section
/-! SUPPORT. The invariants of Safety.lean kept by every chain of edits, so by every operation of drive, lifecycle,
rounds and campaigns. -/

namespace Sys2Proof.Machine

theorem State.queueLaw_congr {s t : State} (h : t.drive.queue = s.drive.queue) (p : s.QueueLaw) : t.QueueLaw := by
  unfold State.QueueLaw at *
  rw [h]
  exact p

/-- The loop an entry names after a retarget. -/
theorem State.retarget_loops (s : State) (i : LoopIx) (k : MoveKind) :
    (s.retarget i k).drive.queue.map Entry.loop = s.drive.queue.map Entry.loop := by
  simp only [State.retarget, State.setQueue_drive_queue, List.map_map]
  refine List.map_congr_left fun e _ => ?_
  simp only [Function.comp_apply]
  split
  · next w => exact w.symm
  · rfl

/-- An entry appended to a queue with a free place, for a loop that no waiting entry named. -/
theorem State.queueLaw_append (s : State) (e : Entry) (h : s.drive.queue.length < Config.queueCapacity)
    (g : s.queued e.loop = false) (p : s.QueueLaw) : (s.setQueue (s.drive.queue ++ [e])).QueueLaw := by
  simp only [State.queued, List.any_eq_false, decide_eq_true_eq] at g
  refine ⟨?_, ?_⟩
  · simp only [State.setQueue_drive_queue, List.length_append, List.length_cons, List.length_nil]
    exact h
  · simp only [State.setQueue_drive_queue, List.map_append, List.map_cons, List.map_nil]
    refine List.nodup_append.2 ⟨p.2, List.nodup_singleton _, ?_⟩
    intro a ha b hb
    simp only [List.mem_singleton] at hb
    obtain ⟨d, hd, rfl⟩ := List.mem_map.1 ha
    rw [hb]
    exact g d hd

/-- The Drive Queue's law through any chain of edits. -/
theorem State.Steps.queueLaw {s t : State} (h : s.Steps t) (p : s.QueueLaw) : t.QueueLaw := by
  refine h.keeps (P := State.QueueLaw) (fun u v q e => ?_) p
  cases e with
  | append d w g => exact u.queueLaw_append d w g q
  | retarget i k =>
    have w := u.retarget_loops i k
    refine ⟨?_, w ▸ q.2⟩
    have := congrArg List.length w
    simp only [List.length_map] at this
    rw [this]
    exact q.1
  | drop i =>
    refine ⟨Nat.le_trans (List.length_filter_le _ _) q.1, ?_⟩
    exact q.2.sublist (List.filter_sublist.map _)
  | pop e rest w =>
    have q' := q
    unfold State.QueueLaw at q'
    rw [w] at q'
    refine ⟨Nat.le_of_succ_le q'.1, ?_⟩
    have := q'.2
    rw [List.map_cons] at this
    exact this.of_cons
  | loops f _ => exact State.queueLaw_congr (by simp) q
  | _ => exact State.queueLaw_congr rfl q

/-- The law of ceilings through any chain of edits. -/
theorem State.Steps.ceilingLaw {s t : State} (h : s.Steps t) (p : s.CeilingLaw) : t.CeilingLaw := by
  refine h.keeps (P := State.CeilingLaw) (fun u v q e => ?_) p
  have same : v.loops = u.loops → v.CeilingLaw := fun w i => by
    rw [State.loop_congr w]
    exact q i
  cases e with
  | loop j l g =>
    intro i
    rw [State.loop_setLoop]
    split
    · rw [g.config.ceiling]
      exact q j
    · exact q i
  | loops f g =>
    intro i
    rw [State.loop_mapLoops, (g i).config.ceiling]
    exact q i
  | vacate j _ _ =>
    intro i
    rw [State.loop_modLoop]
    split
    · show Config.minCeiling ≤ Config.fullStroke ∧ Config.fullStroke ≤ Config.fullStroke
      exact ⟨by decide, Nat.le_refl _⟩
    · exact q i
  | _ => exact same rfl

/-- The Floor List's law through any chain of edits. -/
theorem State.Steps.floorLaw {s t : State} (h : s.Steps t) (p : s.FloorLaw) : t.FloorLaw := by
  refine h.keeps (P := State.FloorLaw) (fun u v q e => ?_) p
  have same : v.loops = u.loops → v.floorList = u.floorList → v.FloorLaw := fun w x =>
    ⟨by rw [x]; exact q.1, by rw [x]; exact q.2.1, fun i hi => by
      rw [State.loop_congr w]
      exact q.2.2 i (x ▸ hi)⟩
  cases e with
  | loop j l g =>
    refine ⟨q.1, q.2.1, fun i hi => ?_⟩
    rw [State.loop_setLoop]
    split
    · next w => exact fun c => q.2.2 i hi (w ▸ g.vacant.1 c)
    · exact q.2.2 i hi
  | loops f g =>
    refine ⟨by simpa using q.1, by simpa using q.2.1, fun i hi => ?_⟩
    rw [State.loop_mapLoops]
    exact fun c => q.2.2 i (by simpa using hi) ((g i).vacant.1 c)
  | vacate j _ g =>
    refine ⟨q.1, q.2.1, fun i hi => ?_⟩
    rw [State.loop_modLoop]
    split
    · next w => exact absurd (w ▸ hi) g
    · exact q.2.2 i hi
  | dropMember j =>
    refine ⟨Nat.le_trans (List.length_filter_le _ _) q.1, q.2.1.sublist List.filter_sublist, fun i hi => ?_⟩
    exact q.2.2 i (List.mem_of_mem_filter hi)
  | _ => exact same rfl rfl

theorem CampaignEdit.lawful {c d : Campaign} (h : CampaignEdit c d) (p : c.Lawful) : d.Lawful := by
  rcases c with ⟨st, re, n, o, r⟩
  simp only [Campaign.Lawful] at p ⊢
  cases h <;> simp_all [Campaign.counted, Campaign.closed]

theorem CampaignEdit.idle {c d : Campaign} (h : CampaignEdit c d) (p : c.state = .idle) : d.state = .idle := by
  cases h with
  | counted => exact p
  | abandoned r => rfl
  | rounds w => exact absurd p w
  | opening w => exact absurd p w
  | suspended w r => exact absurd p w

/-- The campaign law through any chain of edits. -/
theorem State.Steps.campaignLaw {s t : State} (h : s.Steps t) (p : s.CampaignLaw) : t.CampaignLaw := by
  have key : (∀ m, (t.campaign m).Lawful) ∧ (∀ m, (s.campaign m).state = .idle → (t.campaign m).state = .idle) := by
    refine h.keeps (P := fun u => (∀ m, (u.campaign m).Lawful) ∧
      (∀ m, (s.campaign m).state = .idle → (u.campaign m).state = .idle)) (fun u v q e => ?_) ⟨p.1, fun _ w => w⟩
    have same : v.campaigns = u.campaigns → ((∀ m, (v.campaign m).Lawful) ∧
        (∀ m, (s.campaign m).state = .idle → (v.campaign m).state = .idle)) := fun w => by
      simp only [State.campaign, w]
      exact q
    cases e with
    | campaign m c g =>
      have read : ∀ n, (u.setCampaign m c).campaign n = if m = n then c else u.campaign n := fun n => by
        split
        · next w => exact w ▸ u.campaign_setCampaign m c
        · next w => exact PerManifold.get_set_ne _ w _
      refine ⟨fun n => ?_, fun n w => ?_⟩
      · rw [read]
        split
        · exact g.lawful (q.1 m)
        · exact q.1 n
      · rw [read]
        split
        · next x => exact g.idle (q.2 m (x ▸ w))
        · exact q.2 n w
    | loops f g => exact same (by simp)
      | _ => exact same rfl
  refine ⟨key.1, fun w m => key.2 m (p.2 ?_ m)⟩
  rw [← h.calm.house]
  exact w

end Sys2Proof.Machine
end

