-- ==== Sys2Proof/Laws/Link.lean ====
section
/-! SUPPORT. The Demand Unit and the Drive Queue do not read the link: a recompute and a change of a room are the same
whatever the link holds. What a request that changes no record comes to, and what its answer carries. -/

namespace Sys2Proof.Machine

/-! ### Operations that do not read the link -/

/-- A state with another link. -/
def State.relink (s : State) (k : Link) : State := { s with link := k }

@[simp] theorem State.loop_relink (s : State) (k : Link) (i : LoopIx) : (s.relink k).loop i = s.loop i := rfl
@[simp] theorem State.room_relink (s : State) (k : Link) (r : RoomIx) : (s.relink k).room r = s.room r := rfl
@[simp] theorem State.link_relink (s : State) (k : Link) : (s.relink k).link = k := rfl

theorem State.relink_records (s : State) (k : Link) : s.SameRecords (s.relink k) :=
  ⟨rfl, rfl, rfl, rfl, rfl, rfl, rfl, rfl, rfl, rfl, rfl, rfl, rfl⟩

theorem State.heard_relink (s : State) (k : SlotIx) (x : Slot) : s.heard k x = s.relink (s.heard k x).link := rfl

theorem State.relink_ite {c : Prop} [Decidable c] (s t : State) (k : Link) :
    (if c then s.relink k else t.relink k) = (if c then s else t).relink k := by split <;> rfl

theorem State.relink_markLoop (s : State) (k : Link) (i : LoopIx) (b : Bool) :
    (s.relink k).markLoop i b = (s.markLoop i b).relink k := rfl

theorem State.relink_markLoopIf (s : State) (k : Link) (c : Bool) (i : LoopIx) (b : Bool) :
    (s.relink k).markLoopIf c i b = (s.markLoopIf c i b).relink k := by cases c <;> rfl

theorem State.relink_markRoomIf (s : State) (k : Link) (c : Bool) (r : RoomIx) (b : Bool) :
    (s.relink k).markRoomIf c r b = (s.markRoomIf c r b).relink k := by cases c <;> rfl

theorem State.relink_markHouseIf (s : State) (k : Link) (c b : Bool) :
    (s.relink k).markHouseIf c b = (s.markHouseIf c b).relink k := by cases c <;> rfl

theorem State.relink_forEach {α : Type} {f g : State → α → State} {k : Link}
    (h : ∀ t a, f (t.relink k) a = (g t a).relink k) (l : List α) (s : State) :
    (s.relink k).forEach l f = (s.forEach l g).relink k := by
  induction l generalizing s with
  | nil => rfl
  | cons a l ih => exact (congrArg (State.forEach · l f) (h s a)).trans (ih (g s a))

theorem State.relink_recount (s : State) (k : Link) (i : LoopIx) :
    (s.relink k).recount i = (s.recount i).relink k :=
  State.relink_ite (c := s.counts i = true) s (s.modLoop i Loop.zeroCounter) k

theorem State.relink_tellWork (t before : State) (k : Link) (i : LoopIx) :
    (t.relink k).tellWork (before.relink k) i = (t.tellWork before i).relink k := by
  simp only [State.tellWork, State.relink_markLoopIf]
  rfl

theorem State.relink_tellIdle (t before : State) (k : Link) :
    (t.relink k).tellIdle (before.relink k) = (t.tellIdle before).relink k := t.relink_markHouseIf k _ _

theorem State.relink_append (s : State) (k : Link) (e : Entry) : (s.relink k).append e = (s.append e).relink k :=
  State.relink_tellIdle (s.setQueue (s.drive.queue ++ [e])) s k

theorem State.relink_place (s : State) (k : Link) (i : LoopIx) : (s.relink k).place i = (s.place i).relink k := by
  unfold State.place
  rw [State.loop_relink]
  split
  · rw [← State.relink_ite, ← State.relink_append]
    rfl
  · rfl

theorem State.relink_placeOwn (s : State) (k : Link) (i : LoopIx) :
    (s.relink k).placeOwn i = (s.placeOwn i).relink k := by
  unfold State.placeOwn
  rw [State.relink_place, ← State.relink_ite]
  rfl

theorem State.relink_fill (s : State) (k : Link) : (s.relink k).fill = s.fill.relink k :=
  State.relink_forEach (fun t i => t.relink_place k i) allLoops s

theorem State.relink_want (s : State) (k : Link) (i : LoopIx) (m : MoveKind) :
    (s.relink k).want i m = (s.want i m).relink k := by
  unfold State.want
  rw [← State.relink_ite, ← State.relink_placeOwn, ← State.relink_markLoop]
  rw [show (((s.modLoop i fun l => l.setWant (some m)).retarget i m).recount i).relink k =
    ((((s.modLoop i fun l => l.setWant (some m)).retarget i m).relink k).recount i) from (State.relink_recount _ k i).symm]
  rfl

theorem State.relink_setPending (s : State) (k : Link) (i : LoopIx) (t : Option Nat) :
    (s.relink k).setPending i t = (s.setPending i t).relink k :=
  (s.modLoop i fun l => l.setPending t).relink_tellWork s k i

theorem State.relink_takeStroke (s : State) (k : Link) (i : LoopIx) :
    (s.relink k).takeStroke i = (s.takeStroke i).relink k := by
  unfold State.takeStroke
  rw [State.relink_setPending, State.relink_want, State.relink_ite]
  rfl

theorem State.walk_relink (s : State) (k : Link) (l : List LoopIx) (n : Nat) : (s.relink k).walk l n = s.walk l n := by
  induction l generalizing n with
  | nil => rfl
  | cons i l ih =>
    simp only [State.walk, ih]
    rfl

theorem State.floorWalk_relink (s : State) (k : Link) : (s.relink k).floorWalk = s.floorWalk := by
  unfold State.floorWalk
  rw [State.walk_relink]
  rfl

theorem State.relink_evaluated (s : State) (k : Link) : (s.relink k).evaluated = s.evaluated.relink k := by
  unfold State.evaluated
  rw [State.floorWalk_relink]
  rfl

theorem State.relink_handStrokes (t before after : State) (k : Link) :
    (t.relink k).handStrokes (before.relink k) (after.relink k) = (t.handStrokes before after).relink k := by
  unfold State.handStrokes
  refine State.relink_forEach (fun u i => ?_) allLoops t
  simp only [State.loop_relink, State.relink_takeStroke]
  exact State.relink_ite (u.takeStroke i) u k

theorem State.relink_tellShort (t before after : State) (k : Link) :
    (t.relink k).tellShort (before.relink k) (after.relink k) = (t.tellShort before after).relink k :=
  State.relink_ite (c := before.floorShort = after.floorShort) t (t.markHouse false) k

theorem State.relink_tellStrokes (t before after : State) (k : Link) :
    (t.relink k).tellStrokes (before.relink k) (after.relink k) = (t.tellStrokes before after).relink k := by
  unfold State.tellStrokes
  refine State.relink_forEach (fun u i => ?_) allLoops t
  simp only [State.loop_relink]
  exact u.relink_markLoopIf k _ i _

/-- A recompute is the same whatever the link holds. -/
theorem State.relink_recompute (s : State) (k : Link) : (s.relink k).recompute = s.recompute.relink k := by
  unfold State.recompute
  rw [State.relink_evaluated, State.relink_handStrokes, State.relink_tellShort, State.relink_tellStrokes]

/-- A change of a room is taken alike whatever the link holds. -/
theorem State.relink_changeRoom (s : State) (k : Link) (r : RoomIx) (new : Room) :
    (s.relink k).changeRoom r new = (s.changeRoom r new).relink k := by
  have h : ∀ c : Bool, ((s.relink k).setRoom r new).recomputeIf c = ((s.setRoom r new).recomputeIf c).relink k := by
    intro c
    cases c
    · rfl
    · exact (s.setRoom r new).relink_recompute k
  unfold State.changeRoom
  rw [State.room_relink, h, State.relink_markRoomIf]

/-! ### Requests that change no record -/

/-- A request that leaves the state it was heard in, answered: the records stand, and the answer carries the marker that
was pending. -/
theorem State.onlyAnswers_finish (s : State) (k : SlotIx) (x : Slot) (st : Status) (body : List Byte) :
    s.OnlyAnswers k x st body (Taken.finish ⟨st, body, s.heard k x⟩ k) := by
  refine ⟨State.replies_finish rfl st body, (s.heard_records k x).trans (Taken.finish_records ⟨st, body, _⟩ k), fun h => ?_⟩
  have q : (s.heard k x).tellWatches = s.heard k x := State.tellWatches_quiet h
  unfold Taken.finish
  simp only [q]
  rw [State.answer_some (s.slot_heard_self k x)]
  simp [State.heard, State.answered, State.setSlot, State.setWindow, State.setSent, Slot.heard, Slot.unmarked]

/-- A request refused by its owner. -/
theorem State.refused_onlyAnswers (s : State) (k : SlotIx) (x : Slot) (st : Status) :
    s.OnlyAnswers k x st [] (((s.heard k x).refuse st).finish k) := s.onlyAnswers_finish k x st []

/-- A request of a sender whose kind may not make it. -/
theorem State.Polled.onlyDenied {s : State} {k : SlotIx} {x : Slot} (h : s.Polled k x) {allowed : StationKind → Bool}
    (a : allowed (slotKind k) = false) (take : SlotIx → State → Taken) :
    ∃ t, Sys2Proof.Machine.request s allowed take = .next t ∧ s.OnlyAnswers k x .denied [] t := by
  refine ⟨_, h.request _ _, ?_⟩
  rw [if_neg (by simp [a])]
  exact s.refused_onlyAnswers k x .denied

/-- A request whose parameters are outside its form. -/
theorem State.Polled.onlyRange {s : State} {k : SlotIx} {x : Slot} (h : s.Polled k x) {allowed : StationKind → Bool}
    (a : allowed (slotKind k) = true) {α : Type} {form : List Byte → Option α} {p : List Byte} (f : form p = none)
    (take : SlotIx → State → α → Taken) :
    ∃ t, Sys2Proof.Machine.request s allowed (fun k t => checked form p t (take k t)) = .next t ∧
      s.OnlyAnswers k x .range [] t := by
  refine ⟨_, h.allowed a _, ?_⟩
  simp only [checked, f]
  exact s.refused_onlyAnswers k x .range

/-! ### What an answer and an event tell -/

/-- The watches after an event whose effect leaves the link alone. -/
theorem State.told_event {s t : State} (h : t.link = s.link) : s.Told t.tellWatches t.reports := fun j => by
  rw [State.tellWatches_slot, State.slot_congr (congrArg Link.roster h)]

/-- A request taken without touching the link: every other slot is told its reports, and the answer carries the sender's
marker as they leave it. -/
theorem State.carries_finish {s u : State} {k : SlotIx} {x : Slot} (h : u.link = (s.heard k x).link) (st : Status)
    (body : List Byte) : s.Carries k x st body u.reports (Taken.finish ⟨st, body, u⟩ k) := by
  have hr : u.link.roster = (s.heard k x).link.roster := by rw [h]
  have hk : u.tellWatches.slot k = some (x.heard.told u.reports) := by
    rw [State.tellWatches_slot, State.slot_congr hr, State.slot_heard_self]
    rfl
  have hm : (x.heard.told u.reports).marker = (x.told u.reports).marker ∧
      (x.heard.told u.reports).address = x.address := by
    generalize u.reports = l
    have hs : ∀ (l : List Report) (a b : Slot), a.address = b.address ∧ a.watches = b.watches ∧ a.marker = b.marker →
        (a.told l).marker = (b.told l).marker ∧ (a.told l).address = b.address := by
      intro l
      induction l with
      | nil => exact fun a b h => ⟨h.2.2, h.1⟩
      | cons r l ih =>
        rintro ⟨a1, a2, a3, a4⟩ ⟨b1, b2, b3, b4⟩ ⟨h1, h2, h3⟩
        dsimp only at h1 h2 h3
        subst h1 h2 h3
        rw [Slot.told_cons, Slot.told_cons]
        unfold Slot.hear
        dsimp only
        split
        · exact ih _ _ ⟨rfl, rfl, rfl⟩
        · exact ih _ _ ⟨rfl, rfl, rfl⟩
    exact hs l x.heard x ⟨rfl, rfl, rfl⟩
  have e : Taken.finish ⟨st, body, u⟩ k = (u.tellWatches.setSlot k (some (x.heard.told u.reports).unmarked)).setSent
      (frame (x.heard.told u.reports).address .answer
        (answerPayload st (x.heard.told u.reports).marker body)) := State.answer_some hk st body
  rw [e]
  refine ⟨?_, fun j w => ?_⟩
  · rw [hm.1, hm.2]
    rfl
  · rw [State.slot_setSent, State.slot_setSlot, if_neg (fun e => w e.symm), State.tellWatches_slot, State.slot_congr hr,
      State.slot_heard_other s w]

/-! ### A change of a room -/

/-- A chain of edits only adds to the reports. -/
theorem State.Steps.reports {s t : State} (h : s.Steps t) : s.reports <+: t.reports := by
  refine h.keeps (P := fun u => s.reports <+: u.reports) (fun u v p e => ?_) (List.prefix_refl _)
  have same : v.reports = u.reports → s.reports <+: v.reports := fun w => by
    rw [w]
    exact p
  cases e with
  | mark w n b => exact p.trans (List.prefix_append _ _)
  | _ => exact same (by simp [State.retarget, State.dropMember])

theorem State.mark_records (s : State) (w : WatchTable) (n : Nat) (b : Bool) : s.SameRecords (s.mark w n b) :=
  ⟨rfl, rfl, rfl, rfl, rfl, rfl, rfl, rfl, rfl, rfl, rfl, rfl, rfl⟩

theorem State.markRoomIf_records (s : State) (c : Bool) (r : RoomIx) (b : Bool) : s.SameRecords (s.markRoomIf c r b) := by
  cases c
  · exact .refl s
  · exact s.mark_records _ _ _

theorem State.quiet_changeRoom (s : State) (r : RoomIx) (new : Room) : (s.setRoom r new).Quiet (s.changeRoom r new) :=
  (State.quiet_recomputeIf _ _).trans (State.quiet_markRoomIf _ _ _ _)

/-- The records after a change of a room whose effective demand is another. -/
theorem State.changeRoom_heard {s : State} {r : RoomIx} {new : Room} (h : (s.room r).effective ≠ new.effective) :
    (s.setRoom r new).recompute.SameRecords (s.changeRoom r new) := by
  unfold State.changeRoom
  rw [decide_eq_true h]
  exact State.markRoomIf_records _ _ _ _

/-- A change of a room whose effective demand is as it was. -/
theorem State.changeRoom_unheard {s : State} {r : RoomIx} {new : Room} (h : (s.room r).effective = new.effective) :
    s.changeRoom r new =
      (s.setRoom r new).markRoomIf (decide (s.room r ≠ new)) r (decide ((s.room r).state ≠ new.state)) := by
  unfold State.changeRoom
  rw [decide_eq_false (fun g => g h)]
  rfl

theorem State.SameRecords.canStart {s t : State} (h : s.SameRecords t) : t.canStart = s.canStart := by
  simp only [State.canStart, h.drive]

theorem State.serve_of_startLaw {s : State} (h : s.StartLaw) : s.serve = s := by
  rw [State.serve, h]
  rfl

/-- A change of a room, and the move that may start after it: what the Demand Unit makes of it. -/
theorem State.takesRoom_changeRoom {s : State} (h : s.MarkLaw) (r : RoomIx) (new : Room) :
    s.TakesRoom r new (s.changeRoom r new).serve := by
  refine ⟨(s.quiet_changeRoom r new).follows h, fun e b => ?_, fun e d => ?_⟩
  · rw [((s.quiet_changeRoom r new).busy b).serve]
    exact State.changeRoom_heard e
  · rw [State.changeRoom_unheard (not_not.mp e)]
    have m := State.markRoomIf_records (s.setRoom r new) (decide (s.room r ≠ new)) r (decide ((s.room r).state ≠ new.state))
    rw [State.serve_of_startLaw (m.canStart.trans d)]
    exact m

/-- The reports of a change of a room, from a state with none, and of the move that may start after it. -/
theorem State.roomReports_changeRoom {s : State} (h : s.ReportLaw) (r : RoomIx) (new : Room) :
    s.RoomReports r new (s.changeRoom r new).serve.reports := by
  refine ⟨fun e => ?_, fun e d => ?_⟩
  · refine (State.steps_serve _).reports.subset ?_
    unfold State.changeRoom
    rw [decide_eq_true e]
    exact List.mem_append_right _ (List.mem_singleton_self _)
  · have m := State.markRoomIf_records (s.setRoom r new) (decide (s.room r ≠ new)) r (decide ((s.room r).state ≠ new.state))
    rw [State.changeRoom_unheard e, State.serve_of_startLaw (m.canStart.trans d)]
    have q : (s.setRoom r new).reports = [] := h
    by_cases c : s.room r = new
    · rw [decide_eq_false (fun g => g c), if_pos c]
      exact q
    · rw [decide_eq_true c, if_neg c]
      exact congrArg (· ++ _) q

/-- A request that changes a room of the state it was heard in, answered DONE: what CLAIM, DEMAND, RELEASE and AMEND of
ROOM come to once their checks have passed. -/
theorem State.servesRoom_finish {s : State} (h : s.MarkLaw) (k : SlotIx) (x : Slot) (r : RoomIx) (new : Room) :
    s.ServesRoom k x r new (Taken.finish ⟨.done, [], ((s.heard k x).changeRoom r new).serve⟩ k) := by
  have f := Taken.finish_records ⟨.done, [], ((s.heard k x).changeRoom r new).serve⟩ k
  have l : ((s.heard k x).changeRoom r new).serve.link = (s.heard k x).link :=
    (State.steps_serve _).calm.link.trans ((s.heard k x).quiet_changeRoom r new).link
  have q : (s.heard k x).TakesRoom r new ((s.heard k x).changeRoom r new).serve :=
    State.takesRoom_changeRoom (s := s.heard k x) h r new
  refine ⟨State.replies_finish l .done [], ?_, fun e => ⟨_, State.carries_finish l .done [], ?_⟩⟩
  · have w : (s.setRoom r new).SameRecords ((s.heard k x).setRoom r new) :=
      ⟨rfl, rfl, rfl, rfl, rfl, rfl, rfl, rfl, rfl, rfl, rfl, rfl, rfl⟩
    refine ⟨(q.follows.before f).after w, fun c b => ?_, fun c d => w.trans ((q.silent c d).trans f)⟩
    have z : (s.setRoom r new).recompute.SameRecords ((s.heard k x).setRoom r new).recompute := by
      have v : (s.heard k x).setRoom r new = (s.setRoom r new).relink (s.heard k x).link := rfl
      rw [v, State.relink_recompute]
      exact State.relink_records _ _
    exact z.trans ((q.told c b).trans f)
  · have g := State.roomReports_changeRoom (s := s.heard k x) e r new
    exact ⟨g.own, g.alone⟩

end Sys2Proof.Machine
end

