-- ==== Sys2Proof/Laws/Loops.lean ====
section
/-! SUPPORT. What the shared operations do to one loop's record, exactly: wants leave every other loop as it was, and a
recompute changes the stroke alone of a loop that is not READY. -/

namespace Sys2Proof.Machine

@[simp] theorem State.loop_setQueue (s : State) (q : List Entry) (i : LoopIx) : (s.setQueue q).loop i = s.loop i := rfl
@[simp] theorem State.loop_setMoving (s : State) (m : Option Move) (i : LoopIx) :
    (s.setMoving m).loop i = s.loop i := rfl
@[simp] theorem State.loop_setDwell (s : State) (d : Option Dwell) (i : LoopIx) :
    (s.setDwell d).loop i = s.loop i := rfl
@[simp] theorem State.loop_mark (s : State) (w : WatchTable) (n : Nat) (b : Bool) (i : LoopIx) :
    (s.mark w n b).loop i = s.loop i := rfl
@[simp] theorem State.loop_markHouse (s : State) (b : Bool) (i : LoopIx) : (s.markHouse b).loop i = s.loop i := rfl
@[simp] theorem State.loop_markRoom (s : State) (r : RoomIx) (b : Bool) (i : LoopIx) :
    (s.markRoom r b).loop i = s.loop i := rfl
@[simp] theorem State.loop_markLoop (s : State) (j : LoopIx) (b : Bool) (i : LoopIx) :
    (s.markLoop j b).loop i = s.loop i := rfl
@[simp] theorem State.loop_setTimer (s : State) (m : Manifold) (x : RoundTimer) (i : LoopIx) :
    (s.setTimer m x).loop i = s.loop i := rfl
@[simp] theorem State.loop_setSupplyRef (s : State) (m : Manifold) (x : Option Int) (i : LoopIx) :
    (s.setSupplyRef m x).loop i = s.loop i := rfl
@[simp] theorem State.loop_setCampaign (s : State) (m : Manifold) (x : Campaign) (i : LoopIx) :
    (s.setCampaign m x).loop i = s.loop i := rfl
@[simp] theorem State.loop_setFloorShort (s : State) (b : Bool) (i : LoopIx) :
    (s.setFloorShort b).loop i = s.loop i := rfl
@[simp] theorem State.loop_setFloorList (s : State) (l : List LoopIx) (i : LoopIx) :
    (s.setFloorList l).loop i = s.loop i := rfl
@[simp] theorem State.loop_dropMember (s : State) (j i : LoopIx) : (s.dropMember j).loop i = s.loop i := rfl

@[simp] theorem State.loop_markLoopIf (s : State) (c : Bool) (j : LoopIx) (b : Bool) (i : LoopIx) :
    (s.markLoopIf c j b).loop i = s.loop i := by
  unfold State.markLoopIf
  split <;> rfl

/-- The loops of a fold that leaves each of them alone. -/
theorem State.loop_forEach {α : Type} {f : State → α → State} {i : LoopIx} (h : ∀ t a, (f t a).loop i = t.loop i)
    (s : State) (l : List α) : (s.forEach l f).loop i = s.loop i :=
  State.forEach_keeps (P := fun t => t.loop i = s.loop i) (fun t a p => (h t a).trans p) l s rfl

@[simp] theorem State.loop_markHouseIf (s : State) (c : Bool) (b : Bool) (i : LoopIx) :
    (s.markHouseIf c b).loop i = s.loop i := by
  unfold State.markHouseIf
  split <;> rfl

@[simp] theorem State.loop_tellWork (t before : State) (j i : LoopIx) : (t.tellWork before j).loop i = t.loop i := by
  simp [State.tellWork]

@[simp] theorem State.loop_tellIdle (t before : State) (i : LoopIx) : (t.tellIdle before).loop i = t.loop i :=
  t.loop_markHouseIf _ _ i

@[simp] theorem State.loop_append (s : State) (e : Entry) (i : LoopIx) : (s.append e).loop i = s.loop i := by
  simp [State.append]

@[simp] theorem State.loop_place (s : State) (j i : LoopIx) : (s.place j).loop i = s.loop i := by
  unfold State.place
  split
  · split
    · exact s.loop_append _ i
    · rfl
  · rfl

@[simp] theorem State.loop_placeOwn (s : State) (j i : LoopIx) : (s.placeOwn j).loop i = s.loop i := by
  unfold State.placeOwn
  split
  · rfl
  · exact s.loop_place j i

@[simp] theorem State.loop_fill (s : State) (i : LoopIx) : s.fill.loop i = s.loop i :=
  State.loop_forEach (fun _ _ => State.loop_place _ _ _) s allLoops

@[simp] theorem State.loop_retarget (s : State) (j : LoopIx) (k : MoveKind) (i : LoopIx) :
    (s.retarget j k).loop i = s.loop i := rfl

theorem State.loop_modLoop_ne (s : State) {i j : LoopIx} (h : j ≠ i) (f : Loop → Loop) :
    (s.modLoop i f).loop j = s.loop j := by
  rw [State.loop_modLoop]
  exact if_neg (fun e => h e.symm)

theorem State.loop_recount_ne (s : State) {i j : LoopIx} (h : j ≠ i) : (s.recount i).loop j = s.loop j := by
  unfold State.recount
  split
  · rfl
  · exact s.loop_modLoop_ne h _

/-- A want of one loop leaves every other loop's record as it was. -/
theorem State.loop_want_ne (s : State) {i j : LoopIx} (h : j ≠ i) (k : MoveKind) :
    (s.want i k).loop j = s.loop j := by
  unfold State.want
  split
  · rw [State.loop_placeOwn, State.loop_markLoop, State.loop_recount_ne _ h, State.loop_retarget,
      State.loop_modLoop_ne _ h]
  · rfl

/-- A loop with a want does not count its open minutes (R133). -/
theorem State.counts_of_want {s : State} {i : LoopIx} {k : MoveKind} (h : (s.loop i).want = some k) :
    s.counts i = false := by simp [State.counts, h]

/-- A want set: the loop's record with the want, and its open counter at 0 (R133). -/
theorem State.loop_want_self (s : State) (i : LoopIx) (k : MoveKind) (h : supersede (s.loop i).want k = k) :
    (s.want i k).loop i = ((s.loop i).setWant (some k)).zeroCounter := by
  have w : (((s.modLoop i fun l => l.setWant (some k)).retarget i k).loop i) = (s.loop i).setWant (some k) := by
    rw [State.loop_retarget, State.loop_modLoop_self]
  rw [State.want, if_pos h, State.loop_placeOwn, State.loop_markLoop, State.recount,
    if_neg (by rw [State.counts_of_want (k := k) (by rw [w]; rfl)]; exact Bool.noConfusion), State.loop_modLoop_self, w]

/-- A changed queue is reported where it changes drive idle. -/
def State.idleReports (s t : State) : List Report := if s.drive.idle = t.drive.idle then [] else [⟨.house, 0, false⟩]

theorem State.reports_tellIdle (t before : State) : (t.tellIdle before).reports = t.reports ++ before.idleReports t := by
  unfold State.tellIdle State.markHouseIf State.idleReports
  by_cases h : before.drive.idle = t.drive.idle
  · simp [h]
  · simp [h, State.markHouse, State.mark]

theorem State.drive_tellIdle (t before : State) : (t.tellIdle before).drive = t.drive := by
  unfold State.tellIdle State.markHouseIf
  split <;> rfl

theorem State.reports_append (s : State) (e : Entry) : (s.append e).reports = s.reports ++ s.idleReports (s.append e) := by
  have d : s.idleReports (s.append e) = s.idleReports (s.setQueue (s.drive.queue ++ [e])) :=
    congrArg (fun d : Drive => if s.drive.idle = d.idle then [] else [(⟨.house, 0, false⟩ : Report)])
      (State.drive_tellIdle _ _)
  rw [d]
  exact State.reports_tellIdle _ s

theorem State.reports_placeOwn (s : State) (i : LoopIx) :
    (s.placeOwn i).reports = s.reports ++ s.idleReports (s.placeOwn i) := by
  have same : s.reports = s.reports ++ s.idleReports s := by simp [State.idleReports]
  unfold State.placeOwn State.place
  split
  · exact same
  · split
    · split
      · exact s.reports_append _
      · exact same
    · exact same

/-- Every want that is set is reported as a change of the loop's want, also one that replaces a POSITION's target, and
then a change of drive idle, which an entry appended to an idle drive's queue makes (R80, R82, R95; log 24). -/
theorem State.reports_want (s : State) (i : LoopIx) (k : MoveKind) (h : supersede (s.loop i).want k = k) :
    (s.want i k).reports = s.reports ++ ⟨.loop, i.val, false⟩ :: s.idleReports (s.want i k) := by
  have idle : (((s.modLoop i fun l => l.setWant (some k)).retarget i k).recount i).drive.idle = s.drive.idle := by
    have d : (((s.modLoop i fun l => l.setWant (some k)).retarget i k).recount i).drive =
        ((s.modLoop i fun l => l.setWant (some k)).retarget i k).drive := by
      unfold State.recount
      split <;> rfl
    rw [d]
    simp [State.retarget, Drive.idle]
  have told : (((s.modLoop i fun l => l.setWant (some k)).retarget i k).recount i).reports = s.reports := by
    unfold State.recount
    split <;> rfl
  rw [State.want, if_pos h, State.reports_placeOwn, State.idleReports, State.markLoop_drive, idle]
  simp [State.markLoop, State.mark, told, State.idleReports]

theorem State.want_want (s : State) (i : LoopIx) (k : MoveKind) :
    ((s.want i k).loop i).want = some (supersede (s.loop i).want k) := by
  by_cases h : supersede (s.loop i).want k = k
  · rw [h]
    rw [s.loop_want_self i k h]
    rfl
  · unfold State.want
    rw [if_neg h]
    rcases e : (s.loop i).want with _ | w
    · rw [e] at h
      exact absurd rfl h
    · rw [e] at h
      cases w <;> cases k <;> simp [supersede] at h ⊢

theorem State.loop_setPending_ne (s : State) {i j : LoopIx} (h : j ≠ i) (t : Option Nat) :
    (s.setPending i t).loop j = s.loop j := by
  unfold State.setPending
  rw [State.loop_tellWork, State.loop_modLoop_ne _ h]

theorem State.loop_setPending_self (s : State) (i : LoopIx) (t : Option Nat) :
    (s.setPending i t).loop i = (s.loop i).setPending t := by
  unfold State.setPending
  rw [State.loop_tellWork, State.loop_modLoop_self]

theorem State.loop_takeStroke_ne (s : State) {i j : LoopIx} (h : j ≠ i) : (s.takeStroke i).loop j = s.loop j := by
  unfold State.takeStroke
  split
  · exact s.loop_setPending_ne h _
  · exact s.loop_want_ne h _

/-- The want that the aim of a move's end leaves (R87). -/
theorem State.want_aim (s : State) {i : LoopIx} {p : Nat} (h : (s.loop i).position = some p) :
    ((s.aim i).loop i).want = (s.loop i).wantAt p := by
  rw [State.aim, State.loop_modLoop_self, State.wantAim, h, Loop.wantAt]
  show (State.loop (if _ then _ else _) i).want = _
  split
  · exact s.want_want i .position
  · rfl

/-- The floor walk holds only loops that can help. -/
theorem State.walk_held (s : State) (l : List LoopIx) (n : Nat) : ∀ i ∈ (s.walk l n).1, s.canHelp i = true ∧ i ∈ l := by
  induction l generalizing n with
  | nil => intro i h; cases h
  | cons j rest ih =>
    intro i h
    simp only [State.walk] at h
    split at h
    · cases h
    · split at h
      · next c =>
        rcases List.mem_cons.1 h with e | e
        · subst e
          exact ⟨c, List.mem_cons_self⟩
        · exact ⟨(ih _ i e).1, List.mem_cons_of_mem _ (ih _ i e).2⟩
      · exact ⟨(ih _ i h).1, List.mem_cons_of_mem _ (ih _ i h).2⟩

theorem State.floorWalk_held (s : State) {i : LoopIx} (h : s.floorWalk.1.contains i = true) :
    s.canHelp i = true ∧ i ∈ s.floorList := by
  unfold State.floorWalk at h
  split at h
  · cases h
  · exact s.walk_held _ _ i (by simpa using h)

/-- A recompute gives a loop that is not READY commanded stroke 0 and changes nothing else of it. -/
theorem State.loop_recompute (s : State) (i : LoopIx) (h : (s.loop i).life ≠ .ready) :
    s.recompute.loop i = (s.loop i).setStroke 0 false := by
  have held : s.floorWalk.1.contains i = false := by
    rcases e : s.floorWalk.1.contains i with _ | _
    · rfl
    · have := (s.floorWalk_held e).1
      simp [State.canHelp, State.onDemand, h] at this
  have ev : s.evaluated.loop i = (s.loop i).setStroke 0 false := by
    unfold State.evaluated
    rw [State.loop_setFloorShort, State.loop_mapLoops]
    have : s.newStroke s.floorWalk.1 i = 0 := by
      rw [State.newStroke, held, if_neg Bool.false_ne_true, State.baseStroke]
      exact if_pos h
    rw [held, this]
  unfold State.recompute State.tellStrokes
  rw [State.loop_forEach (fun _ _ => State.loop_markLoopIf _ _ _ _ _), State.tellShort]
  have hs : (s.evaluated.handStrokes s s.evaluated).loop i = s.evaluated.loop i := by
    unfold State.handStrokes
    refine State.loop_forEach (fun t j => ?_) _ _
    split
    · next c =>
      refine t.loop_takeStroke_ne ?_
      rintro rfl
      exact h c.1
    · rfl
  split
  · rw [hs, ev]
  · rw [State.loop_markHouse, hs, ev]

/-! ### Rounds and campaigns return open counters to 0 and change nothing else of a loop -/

/-- Every loop's record is as it was, or has its open counter at 0. -/
def State.Counted (s t : State) : Prop := ∀ i, t.loop i = s.loop i ∨ t.loop i = (s.loop i).zeroCounter

theorem State.Counted.refl (s : State) : s.Counted s := fun _ => .inl rfl

theorem State.Counted.trans {s t u : State} (h : s.Counted t) (g : t.Counted u) : s.Counted u := fun i => by
  rcases h i with a | a <;> rcases g i with b | b <;> rw [a] at b
  · exact .inl b
  · exact .inr b
  · exact .inr b
  · exact .inr b

theorem State.counted_ite {c : Prop} [Decidable c] {s t u : State} (h : s.Counted t) (g : s.Counted u) :
    s.Counted (if c then t else u) := by split <;> assumption

theorem State.counted_of_loops {s t : State} (h : ∀ i, t.loop i = s.loop i) : s.Counted t := fun i => .inl (h i)

theorem State.counted_recount (s : State) (i : LoopIx) : s.Counted (s.recount i) := fun j => by
  by_cases e : j = i
  · subst e
    unfold State.recount
    split
    · exact .inl rfl
    · exact .inr (State.loop_modLoop_self _ _ _)
  · exact .inl (s.loop_recount_ne e)

theorem State.counted_recountAll (s : State) : s.Counted s.recountAll := fun i => by
  unfold State.recountAll
  rw [State.loop_mapLoops]
  split
  · exact .inl rfl
  · exact .inr rfl

theorem State.counted_clearCounters (s : State) (m : Manifold) : s.Counted (s.clearCounters m) := fun i => by
  unfold State.clearCounters
  rw [State.loop_mapLoops]
  split
  · exact .inr rfl
  · exact .inl rfl

theorem State.counted_roundStart (s : State) (m : Manifold) (b : Bool) : s.Counted (s.roundStart m b) :=
  State.counted_of_loops fun _ => rfl

theorem State.counted_pauseRound (s : State) (m : Manifold) : s.Counted (s.pauseRound m) :=
  (s.counted_clearCounters m).trans (State.counted_roundStart _ _ _)

theorem State.counted_coupling (s : State) (m : Manifold) : s.Counted (s.coupling m) :=
  (s.counted_clearCounters m).trans (State.counted_roundStart _ _ _)

theorem State.openCounter_coupling (s : State) {m : Manifold} {i : LoopIx} (h : manifoldOf i = m) :
    ((s.coupling m).loop i).openCounter = 0 := by
  unfold State.coupling State.roundStart
  rw [State.loop_setSupplyRef, State.loop_setTimer, State.clearCounters, State.loop_mapLoops, if_pos h]
  rfl

theorem State.counted_couplingIf (s : State) (c : Bool) (m : Manifold) : s.Counted (s.couplingIf c m) :=
  State.counted_ite (s.counted_coupling m) (.refl s)

theorem State.counted_checkTimer (s : State) (m : Manifold) : s.Counted (s.checkTimer m) :=
  State.counted_ite
    (State.counted_ite (.refl s) ((s.counted_clearCounters m).trans (State.counted_roundStart _ _ _)))
    (State.counted_ite (State.counted_of_loops fun _ => rfl) (.refl s))

theorem State.counted_checkTimerIf (s : State) (c : Bool) (m : Manifold) : s.Counted (s.checkTimerIf c m) :=
  State.counted_ite (s.counted_checkTimer m) (.refl s)

theorem State.counted_enterRounds (s : State) (m : Manifold) : s.Counted (s.enterRounds m) := by
  unfold State.enterRounds
  refine .trans (State.counted_of_loops fun _ => State.loop_setCampaign _ _ _ _) (State.counted_pauseRound _ m)

theorem State.counted_told {s t : State} (h : s.Counted t) (b : Bool) : s.Counted (t.markHouse b) :=
  h.trans (State.counted_of_loops fun _ => State.loop_markHouse _ _ _)

theorem State.counted_endOpening (s : State) (m : Manifold) : s.Counted (s.endOpening m) :=
  State.counted_ite (s.counted_enterRounds m) (.refl s)

theorem State.counted_examineOpening (s : State) (m : Manifold) : s.Counted (s.examineOpening m) :=
  State.counted_ite (State.counted_told (s.counted_enterRounds m) true) (.refl s)

theorem State.counted_examineOpeningIf (s : State) (c : Bool) (m : Manifold) : s.Counted (s.examineOpeningIf c m) :=
  State.counted_ite (s.counted_examineOpening m) (.refl s)

/-- At the end of a HOME the want is NONE; the reports of it change open counters alone (R77, R82). -/
theorem State.counted_homeEnded (s : State) (i : LoopIx) (b : Bool) : (s.endWant i).Counted (s.homeEnded i b) := by
  unfold State.homeEnded
  refine .trans ?_ (State.counted_of_loops fun _ => State.loop_tellWork _ _ _ _)
  exact .trans (State.counted_recount _ i) (State.counted_examineOpeningIf _ _ _)

theorem State.want_homeEnded (s : State) (i : LoopIx) (b : Bool) : ((s.homeEnded i b).loop i).want = none := by
  have w : ((s.endWant i).loop i).want = none := by
    rw [State.endWant, State.loop_modLoop_self]
    rfl
  rcases s.counted_homeEnded i b i with e | e <;> rw [e]
  · exact w
  · exact w

theorem State.counted_suspend (s : State) (m : Manifold) (r : ResumeState) : s.Counted (s.suspend m r) := by
  unfold State.suspend
  exact .trans (State.counted_of_loops fun _ => State.loop_setCampaign _ _ _ _) (State.counted_checkTimerIf _ _ m)

theorem State.counted_resumed (s : State) (m : Manifold) : s.Counted (s.resumed m) :=
  State.counted_ite (s.counted_enterRounds m)
    (.trans (State.counted_of_loops fun _ => State.loop_setCampaign _ _ _ _) (State.counted_endOpening _ m))

theorem State.counted_checkCampaign (s : State) (m : Manifold) : s.Counted (s.checkCampaign m) := by
  unfold State.checkCampaign
  split
  · exact .refl s
  · exact State.counted_ite (State.counted_told (s.counted_suspend m _) true) (.refl s)
  · exact State.counted_ite (State.counted_told (s.counted_suspend m _) true) (.refl s)
  · exact State.counted_ite (.refl s) (State.counted_told (s.counted_resumed m) true)

theorem State.counted_setDriveState (s : State) (d : DriveState) : s.Counted (s.setDriveState d) := by
  unfold State.setDriveState
  refine State.counted_ite (.refl s) ?_
  refine .trans ?_ (State.counted_of_loops fun _ => State.loop_markHouse _ _ _)
  refine .trans ?_ (State.counted_checkCampaign _ _)
  refine .trans ?_ (State.counted_checkCampaign _ _)
  refine .trans ?_ (State.counted_checkTimer _ _)
  refine .trans ?_ (State.counted_checkTimer _ _)
  exact .trans (State.counted_of_loops (t := s.putDriveState d) fun _ => rfl) (State.counted_recountAll _)

/-- A loop that is not READY after a change of its lifecycle state: its stroke is 0, its open counter aside. -/
theorem State.loop_lifeChanged (s : State) (i : LoopIx) (old : Lifecycle) (j : LoopIx) (h : (s.loop j).life ≠ .ready) :
    (s.lifeChanged i old).loop j = (s.loop j).setStroke 0 false ∨
      (s.lifeChanged i old).loop j = ((s.loop j).setStroke 0 false).zeroCounter := by
  have c : s.recompute.Counted (s.lifeChanged i old) := by
    unfold State.lifeChanged
    refine .trans ?_ (State.counted_of_loops fun _ => State.loop_markLoop _ _ _ _)
    refine .trans ?_ (State.counted_examineOpeningIf _ _ _)
    exact .trans (State.counted_couplingIf _ _ _) (State.counted_recount _ _)
  rcases c j with e | e <;> rw [s.loop_recompute j h] at e
  · exact .inl e
  · exact .inr e

/-- A loop whose work is dropped, its open counter aside, which the end of opening may return to 0 (R152). -/
theorem State.loop_dropWork (s : State) (i : LoopIx) :
    (s.dropWork i).loop i = ((s.loop i).setWant none).setPending none ∨
      (s.dropWork i).loop i = (((s.loop i).setWant none).setPending none).zeroCounter := by
  unfold State.dropWork
  rw [State.loop_tellIdle, State.loop_tellWork]
  have c : (s.clearWork i).loop i = ((s.loop i).setWant none).setPending none := by
    unfold State.clearWork
    rw [State.loop_modLoop_self, State.loop_setQueue]
  exact c ▸ (s.clearWork i).counted_examineOpening (manifoldOf i) i

@[simp] theorem State.loop_markRoomOf (s : State) (r : Option RoomIx) (i : LoopIx) :
    (s.markRoomOf r).loop i = s.loop i := by
  unfold State.markRoomOf
  split <;> rfl

/-- The record of a loop that has become VACANT (R14). -/
theorem State.loop_becomeVacant (s : State) (i : LoopIx) : (s.becomeVacant i).loop i = (s.loop i).vacated := by
  let u := ((s.dropWork i).dropMember i).modLoop i Loop.vacated
  have hu : u.loop i = (s.loop i).vacated := by
    simp only [u, State.loop_modLoop_self, State.loop_dropMember]
    rcases s.loop_dropWork i with e | e <;> rw [e] <;> rfl
  have hl : (u.loop i).life ≠ .ready := by
    rw [hu]
    exact Lifecycle.noConfusion
  have h := u.loop_lifeChanged i (s.loop i).life i hl
  rw [hu] at h
  have h' : (u.lifeChanged i (s.loop i).life).loop i = (s.loop i).vacated := by
    rcases h with e | e <;> exact e
  unfold State.becomeVacant
  rw [State.loop_fill, State.loop_markRoomOf]
  exact h'

end Sys2Proof.Machine
end

