-- ==== Sys2Proof/Laws/PerInstr.lean ====
section
/-! SUPPORT. A law of every command as syntax: the payload bytes that a command which can arise carries after its request
kind fit the 64 bytes of a frame's payload beside that kind (R172, R184). One lemma for each constructor. -/

namespace Sys2Proof.Laws.Bounded

/-- The payload bytes a request carries after its kind, operation or table byte; none where the command is no request. -/
def params : Instr → List Byte
  | .powerUp _ _ => []
  | .poll => []
  | .noneReply => []
  | .corruptReply => []
  | .join _ _ => []
  | .windowExpiry => []
  | .linkRestart => []
  | .breakEnd => []
  | .unknownRequest _ p => p
  | .look p => p
  | .watchSet p => p
  | .watchClear p => p
  | .describe p => p
  | .claim p => p
  | .demand p => p
  | .release p => p
  | .amendLoop p => p
  | .amendRoom p => p
  | .amendFloor p => p
  | .amendHouse p => p
  | .enrol p => p
  | .retire p => p
  | .preset p => p
  | .campaignStart p => p
  | .campaignCancel p => p
  | .hold p => p
  | .stop p _ => p
  | .resume p => p
  | .store p => p
  | .restart p => p
  | .insertion _ => []
  | .removal _ => []
  | .moveStart => []
  | .legReached => []
  | .endStopReached _ _ => []
  | .homingTravelLimit => []
  | .stall _ => []
  | .dwellExpiry => []
  | .scanCompletion _ => []
  | .minuteTick => []
  | .leaseExpiry _ => []
  | .midnight => []
  | .exerciseMinute => []
  | .roundExpiry _ => []
  | .storeCompletion _ => []
  | .pauseLineAssertion => []
  | .pauseLineRelease => []
  | .lossOfSupply => []
  | .breakOnset => []
  | .amendOfDriveOrRoster p => p
  | .openCallReplyDiscarded => []

/-- A command that can arise carries at most 63 payload bytes after its request kind (R172, R184). -/
def Statement (i : Instr) : Prop := i.wf = true → (params i).length ≤ 63

/-- Bytes that fit beside `lead` bytes of kind and table or operation are at most 63. -/
theorem le_of_fits {lead : Nat} {p : List Byte} (hl : 1 ≤ lead) (h : fits lead p = true) : p.length ≤ 63 := by
  have := of_decide_eq_true h
  omega

theorem powerUp (heads : Vector Bool 24) (pauseLine : Bool) : Statement (.powerUp heads pauseLine) :=
  fun _ => Nat.zero_le _
theorem poll : Statement .poll := fun _ => Nat.zero_le _
theorem noneReply : Statement .noneReply := fun _ => Nat.zero_le _
theorem corruptReply : Statement .corruptReply := fun _ => Nat.zero_le _
theorem join (kind : StationKind) (address : Nat) : Statement (.join kind address) := fun _ => Nat.zero_le _
theorem windowExpiry : Statement .windowExpiry := fun _ => Nat.zero_le _
theorem linkRestart : Statement .linkRestart := fun _ => Nat.zero_le _
theorem breakEnd : Statement .breakEnd := fun _ => Nat.zero_le _
theorem unknownRequest (kind : Byte) (params : List Byte) : Statement (.unknownRequest kind params) :=
  fun h => le_of_fits (lead := 1) (by decide) (Bool.and_eq_true_iff.mp h).2
theorem look (params : List Byte) : Statement (.look params) := fun h => le_of_fits (lead := 1) (by decide) h
theorem watchSet (params : List Byte) : Statement (.watchSet params) :=
  fun h => le_of_fits (lead := 2) (by decide) h
theorem watchClear (params : List Byte) : Statement (.watchClear params) :=
  fun h => le_of_fits (lead := 2) (by decide) h
theorem describe (params : List Byte) : Statement (.describe params) :=
  fun h => le_of_fits (lead := 1) (by decide) h
theorem claim (params : List Byte) : Statement (.claim params) :=
  fun h => le_of_fits (lead := 1) (by decide) h
theorem demand (params : List Byte) : Statement (.demand params) :=
  fun h => le_of_fits (lead := 1) (by decide) h
theorem release (params : List Byte) : Statement (.release params) :=
  fun h => le_of_fits (lead := 1) (by decide) h
theorem amendLoop (params : List Byte) : Statement (.amendLoop params) :=
  fun h => le_of_fits (lead := 2) (by decide) h
theorem amendRoom (params : List Byte) : Statement (.amendRoom params) :=
  fun h => le_of_fits (lead := 2) (by decide) h
theorem amendFloor (params : List Byte) : Statement (.amendFloor params) :=
  fun h => le_of_fits (lead := 2) (by decide) h
theorem amendHouse (params : List Byte) : Statement (.amendHouse params) :=
  fun h => le_of_fits (lead := 2) (by decide) h
theorem enrol (params : List Byte) : Statement (.enrol params) :=
  fun h => le_of_fits (lead := 1) (by decide) h
theorem retire (params : List Byte) : Statement (.retire params) :=
  fun h => le_of_fits (lead := 1) (by decide) h
theorem preset (params : List Byte) : Statement (.preset params) :=
  fun h => le_of_fits (lead := 1) (by decide) h
theorem campaignStart (params : List Byte) : Statement (.campaignStart params) :=
  fun h => le_of_fits (lead := 1) (by decide) h
theorem campaignCancel (params : List Byte) : Statement (.campaignCancel params) :=
  fun h => le_of_fits (lead := 1) (by decide) h
theorem hold (params : List Byte) : Statement (.hold params) := fun h => le_of_fits (lead := 1) (by decide) h
theorem stop (params : List Byte) (motorStep : Nat) : Statement (.stop params motorStep) :=
  fun h => le_of_fits (lead := 1) (by decide) (Bool.and_eq_true_iff.mp h).1
theorem resume (params : List Byte) : Statement (.resume params) :=
  fun h => le_of_fits (lead := 1) (by decide) h
theorem store (params : List Byte) : Statement (.store params) :=
  fun h => le_of_fits (lead := 1) (by decide) h
theorem restart (params : List Byte) : Statement (.restart params) :=
  fun h => le_of_fits (lead := 1) (by decide) h
theorem insertion (port : LoopIx) : Statement (.insertion port) := fun _ => Nat.zero_le _
theorem removal (port : LoopIx) : Statement (.removal port) := fun _ => Nat.zero_le _
theorem moveStart : Statement .moveStart := fun _ => Nat.zero_le _
theorem legReached : Statement .legReached := fun _ => Nat.zero_le _
theorem endStopReached (stop : EndStop) (steps : Nat) : Statement (.endStopReached stop steps) :=
  fun _ => Nat.zero_le _
theorem homingTravelLimit : Statement .homingTravelLimit := fun _ => Nat.zero_le _
theorem stall (step : Nat) : Statement (.stall step) := fun _ => Nat.zero_le _
theorem dwellExpiry : Statement .dwellExpiry := fun _ => Nat.zero_le _
theorem scanCompletion (samples : Vector (Option Int) 28) : Statement (.scanCompletion samples) :=
  fun _ => Nat.zero_le _
theorem minuteTick : Statement .minuteTick := fun _ => Nat.zero_le _
theorem leaseExpiry (room : RoomIx) : Statement (.leaseExpiry room) := fun _ => Nat.zero_le _
theorem midnight : Statement .midnight := fun _ => Nat.zero_le _
theorem exerciseMinute : Statement .exerciseMinute := fun _ => Nat.zero_le _
theorem roundExpiry (manifold : Manifold) : Statement (.roundExpiry manifold) := fun _ => Nat.zero_le _
theorem storeCompletion (agrees : Bool) : Statement (.storeCompletion agrees) := fun _ => Nat.zero_le _
theorem pauseLineAssertion : Statement .pauseLineAssertion := fun _ => Nat.zero_le _
theorem pauseLineRelease : Statement .pauseLineRelease := fun _ => Nat.zero_le _
theorem lossOfSupply : Statement .lossOfSupply := fun _ => Nat.zero_le _
theorem breakOnset : Statement .breakOnset := fun _ => Nat.zero_le _
theorem amendOfDriveOrRoster (params : List Byte) : Statement (.amendOfDriveOrRoster params) :=
  fun h => le_of_fits (lead := 1) (by decide) (Bool.and_eq_true_iff.mp h).1
theorem openCallReplyDiscarded : Statement .openCallReplyDiscarded := fun _ => Nat.zero_le _

end Sys2Proof.Laws.Bounded
end

