-- ==== Sys2Proof/Laws/Rounds.lean ====
section
/-! SUPPORT. The rounds and the campaigns in the words of Safety: what the conditions that the model computes say, and
what a round start, a coupling event and a check of the conditions do to one manifold's round. -/

namespace Sys2Proof.Machine

theorem State.timerRuns_iff (s : State) (m : Manifold) : s.timerRuns m = true ↔ s.RoundConditions m := by
  simp [State.timerRuns, State.RoundConditions, State.supplyOk, and_assoc]

theorem State.held_iff (s : State) (m : Manifold) : s.held m = true ↔ s.Suspends m := by
  simp [State.held, State.Suspends, State.supplyOk, or_assoc]

theorem State.queued_eq_false (s : State) (i : LoopIx) : s.queued i = false ↔ ∀ e ∈ s.drive.queue, e.loop ≠ i := by
  simp [State.queued]

theorem State.movingLoop_eq_false (s : State) (i : LoopIx) :
    s.movingLoop i = false ↔ ∀ m, s.drive.moving = some m → m.loop ≠ i := by
  unfold State.movingLoop
  cases h : s.drive.moving <;> simp

theorem State.exerciseDwell_eq_false (s : State) (i : LoopIx) :
    s.exerciseDwell i = false ↔ ∀ d, s.drive.dwell = some d → d.kind = .exercise → d.loop ≠ i := by
  unfold State.exerciseDwell
  cases h : s.drive.dwell with
  | none => simp
  | some d =>
    simp only [Option.some.injEq, Bool.and_eq_false_iff, decide_eq_false_iff_not]
    exact ⟨fun w x e k => e ▸ (w.elim id fun w => absurd (e ▸ k) w), fun w =>
      (Decidable.em (d.kind = .exercise)).elim (fun k => .inl (w d rfl k)) .inr⟩

/-- The conditions of the open counter (R133, R167), as a minute tick asks for them. -/
theorem State.counts_iff (s : State) (i : LoopIx) :
    s.counts i = true ↔ (s.loop i).life = .ready ∧ (s.loop i).owner = .auto ∧
      (s.loop i).position = some (s.loop i).ceiling ∧ (s.loop i).want = none ∧ (∀ e ∈ s.drive.queue, e.loop ≠ i) ∧
      (∀ m, s.drive.moving = some m → m.loop ≠ i) ∧
      (∀ d, s.drive.dwell = some d → d.kind = .exercise → d.loop ≠ i) ∧ s.house.pause = false ∧
      s.drive.state = .running := by
  simp only [State.counts, Bool.and_eq_true, Bool.not_eq_true', decide_eq_true_eq, Option.isNone_iff_eq_none, and_assoc,
    s.queued_eq_false, s.movingLoop_eq_false, s.exerciseDwell_eq_false]

theorem State.openingOver_iff (s : State) (m : Manifold) : s.openingOver m = true ↔ s.Still m := by
  simp only [State.openingOver, State.Still, List.all_eq_true, Bool.and_eq_true, Bool.not_eq_true',
    Option.isNone_iff_eq_none, State.named, Bool.or_eq_false_iff, s.queued_eq_false, s.movingLoop_eq_false]
  refine ⟨fun w i h => w i ?_, fun w i h => w i ?_⟩
  · simp [loopsOf, allLoops, h]
  · simpa [loopsOf, allLoops] using h

/-! ### What one round start, one coupling event and one check do -/

theorem State.roundStarted_roundStart (s : State) (m : Manifold) (runs : Bool) :
    (s.roundStart m runs).RoundStarted m (runs = true) := by
  have t : (s.roundStart m runs).timer m = s.house.round m runs := by cases m <;> rfl
  refine ⟨fun h => ?_, fun h => ?_, ?_, ?_, ?_, ?_⟩
  all_goals first
    | (cases m <;> rfl)
    | simp_all [House.round, State.roundStart]

/-- What the check of a timer's conditions reads is left alone. -/
theorem State.roundConditions_congr {s t : State} (h : t.house = s.house) (g : t.campaigns = s.campaigns)
    (d : t.drive.state = s.drive.state) (c : t.channels = s.channels) (m : Manifold) :
    t.RoundConditions m ↔ s.RoundConditions m := by
  simp only [State.RoundConditions, State.campaign, State.channel, h, g, d, c]

/-- Every open counter of the manifold is 0 after they have been cleared and a round has been started. -/
theorem State.freshRound_roundStart (s : State) (m : Manifold) (runs : Bool) :
    ((s.clearCounters m).roundStart m runs).FreshRound m (runs = true) where
  started := State.roundStarted_roundStart _ m runs
  counters i h := by
    rw [State.roundStart, State.loop_setSupplyRef, State.loop_setTimer, State.clearCounters, State.loop_mapLoops,
      if_pos h, Loop.zeroCounter]

theorem State.freshRound_coupling (s : State) (m : Manifold) :
    (s.coupling m).FreshRound m (s.timerRunning m = true) := s.freshRound_roundStart m _

theorem State.freshRound_pauseRound (s : State) (m : Manifold) :
    (s.pauseRound m).FreshRound m (s.timerRuns m = true) := s.freshRound_roundStart m _

theorem State.freshRound_enterRounds (s : State) (m : Manifold) :
    (s.enterRounds m).FreshRound m ((s.setCampaign m { s.campaign m with state := .rounds, resume := none }).timerRuns m = true) :=
  State.freshRound_pauseRound _ m

/-- The check of a timer's conditions leaves them as they were. -/
theorem State.roundConditions_checkTimer (s : State) (m : Manifold) :
    (s.checkTimer m).RoundConditions m ↔ s.RoundConditions m := by
  unfold State.checkTimer
  split
  · split
    · exact .rfl
    · exact State.roundConditions_congr (by simp [State.roundStart, State.clearCounters])
        (by simp [State.roundStart, State.clearCounters]) (by simp [State.roundStart, State.clearCounters])
        (by simp [State.roundStart, State.clearCounters]) m
  · split
    · exact State.roundConditions_congr (by simp) (by simp) (by simp) (by simp) m
    · exact .rfl

/-- The check of a timer's conditions, said whole (R130). -/
theorem State.checked_checkTimer (s : State) (m : Manifold) : s.Checked m (s.checkTimer m) := by
  have c := s.roundConditions_checkTimer m
  have r : s.timerRunning m = true ↔ (s.timer m).remaining ≠ none := by
    rw [State.timerRunning, Option.isSome_iff_ne_none]
  rw [← s.timerRuns_iff m] at c
  by_cases h : s.timerRuns m = true
  · by_cases g : s.timerRunning m = true
    · have e : s.checkTimer m = s := by rw [State.checkTimer, if_pos h, if_pos g]
      exact ⟨fun w => absurd (c.mpr h) w, fun _ w => absurd w (r.mp g), fun _ _ => by rw [e], fun _ _ => by rw [e]⟩
    · have e : s.checkTimer m = (s.clearCounters m).roundStart m true := by
        rw [State.checkTimer, if_pos h, if_neg g]
      have n : (s.timer m).remaining = none := not_not.mp fun w => g (r.mpr w)
      refine ⟨fun w => absurd (c.mpr h) w, fun _ _ => ?_, fun _ w => absurd n w, fun w _ => ?_⟩
      · rw [e]
        have f := s.freshRound_roundStart m true
        exact ⟨⟨fun _ => f.started.running rfl, fun w => absurd trivial w, f.started.settleBase, f.started.design,
          f.started.deadband, f.started.supplyRef⟩, f.counters⟩
      · exact w.elim (absurd n) fun w => absurd (c.mpr h) w
  · have k : ¬(s.checkTimer m).RoundConditions m := fun w => h (c.mp w)
    by_cases g : s.timerRunning m = true
    · have e : s.checkTimer m = s.setTimer m (s.timer m).frozen := by
        rw [State.checkTimer, if_neg h, if_pos g]
      refine ⟨fun _ => ?_, fun w => absurd w k, fun w => absurd w k, fun _ _ => by rw [e]; rfl⟩
      rw [e, State.timer_setTimer]
      rfl
    · have e : s.checkTimer m = s := by rw [State.checkTimer, if_neg h, if_neg g]
      have n : (s.timer m).remaining = none := not_not.mp fun w => g (r.mpr w)
      refine ⟨fun _ => ?_, fun w => absurd w k, fun w => absurd w k, fun _ _ => by rw [e]⟩
      rw [e, ← n]

/-! ### What one examination of a campaign does -/

/-- The check of a timer's conditions leaves the campaigns and the drive alone. -/
theorem State.checkTimer_same (s : State) (m : Manifold) :
    (s.checkTimer m).campaigns = s.campaigns ∧ (s.checkTimer m).drive = s.drive := by
  unfold State.checkTimer
  split <;> split <;> simp [State.roundStart, State.clearCounters]

theorem State.campaign_enterRounds (s : State) (m : Manifold) :
    (s.enterRounds m).campaign m = { s.campaign m with state := .rounds, resume := none } := by
  have h : (s.enterRounds m).campaigns =
      (s.setCampaign m { s.campaign m with state := .rounds, resume := none }).campaigns := by
    simp [State.enterRounds, State.roundsEntered, State.roundStart, State.clearCounters]
  rw [State.campaign, h]
  exact s.campaign_setCampaign m _

theorem State.drive_enterRounds (s : State) (m : Manifold) : (s.enterRounds m).drive = s.drive := by
  simp [State.enterRounds, State.roundsEntered, State.roundStart, State.clearCounters]

theorem State.campaign_suspend (s : State) (m : Manifold) (r : ResumeState) :
    (s.suspend m r).campaign m = { s.campaign m with state := .suspended, resume := some r } := by
  have h : (s.suspend m r).campaigns =
      (s.setCampaign m { s.campaign m with state := .suspended, resume := some r }).campaigns := by
    unfold State.suspend State.checkTimerIf
    split
    · exact (State.checkTimer_same _ m).1
    · rfl
  rw [State.campaign, h]
  exact s.campaign_setCampaign m _

theorem State.drive_suspend (s : State) (m : Manifold) (r : ResumeState) : (s.suspend m r).drive = s.drive := by
  unfold State.suspend State.checkTimerIf
  split
  · exact (State.checkTimer_same _ m).2
  · rfl

/-- A resumption: to ROUNDS, or to OPENING, from which it passes on where opening has ended. -/
theorem State.campaign_resumed (s : State) (m : Manifold) :
    (s.resumed m).campaign m = { s.campaign m with
      state := if (s.campaign m).resume = some .rounds ∨ s.openingOver m = true then .rounds else .opening, resume := none } := by
  unfold State.resumed
  by_cases h : (s.campaign m).resume = some .rounds
  · rw [if_pos h, if_pos (.inl h)]
    exact s.campaign_enterRounds m
  · rw [if_neg h, State.endOpening]
    have e : (s.setCampaign m { s.campaign m with state := .opening, resume := none }).openingOver m = s.openingOver m :=
      rfl
    by_cases g : s.openingOver m = true
    · rw [e, if_pos g, if_pos (.inr g), State.campaign_enterRounds,
        State.campaign_setCampaign]
    · rw [e, if_neg g, if_neg fun w => w.elim h g, State.campaign_setCampaign]

/-- The examination of the end of opening, in the campaign's record (R152). -/
theorem State.campaign_examineOpening (s : State) (m : Manifold) :
    (s.examineOpening m).campaign m =
      if (s.campaign m).state = .opening ∧ s.openingOver m = true then
        { s.campaign m with state := .rounds, resume := none }
      else s.campaign m := by
  unfold State.examineOpening
  split
  · exact s.campaign_enterRounds m
  · rfl

/-- The end of a HOME ends OPENING where the campaign is to hear of it and nothing else is wanted (R82, R152). -/
theorem State.campaign_homeEnded (s : State) (i : LoopIx) (b : Bool) :
    (s.homeEnded i b).campaign (manifoldOf i) =
      if b = true ∧ (s.campaign (manifoldOf i)).state = .opening ∧ (s.endWant i).openingOver (manifoldOf i) = true then
        { s.campaign (manifoldOf i) with state := .rounds, resume := none }
      else s.campaign (manifoldOf i) := by
  have told : ∀ t : State, (t.tellWork s i).campaign (manifoldOf i) = t.campaign (manifoldOf i) := fun t => by
    unfold State.tellWork State.markLoopIf
    split <;> split <;> rfl
  have same : ((s.endWant i).recount i).campaign (manifoldOf i) = s.campaign (manifoldOf i) ∧
      ((s.endWant i).recount i).drive = (s.endWant i).drive := by
    unfold State.recount
    split <;> exact ⟨rfl, rfl⟩
  have still : ((s.endWant i).recount i).openingOver (manifoldOf i) = (s.endWant i).openingOver (manifoldOf i) := by
    have w : ∀ j, (((s.endWant i).recount i).loop j).want = ((s.endWant i).loop j).want := fun j => by
      rcases State.counted_recount (s.endWant i) i j with e | e <;> rw [e]
      rfl
    simp only [State.openingOver, State.named, State.queued, State.movingLoop, w, same.2]
  unfold State.homeEnded State.examineOpeningIf
  rw [told]
  cases b
  · simpa using same.1
  · simp [State.campaign_examineOpening, same.1, still]

theorem State.drive_resumed (s : State) (m : Manifold) : (s.resumed m).drive = s.drive := by
  unfold State.resumed State.endOpening
  split
  · exact s.drive_enterRounds m
  · split
    · exact State.drive_enterRounds _ m
    · rfl

theorem State.drive_checkCampaign (s : State) (m : Manifold) : (s.checkCampaign m).drive = s.drive := by
  unfold State.checkCampaign
  split
  · rfl
  · split
    · exact s.drive_suspend m _
    · rfl
  · split
    · exact s.drive_suspend m _
    · rfl
  · split
    · rfl
    · exact s.drive_resumed m

theorem State.suspends_checkCampaign (s : State) (m : Manifold) : (s.checkCampaign m).Suspends m ↔ s.Suspends m := by
  have h := s.mild_checkCampaign m
  simp only [State.Suspends, State.channel, h.house, h.channels, h.state]

theorem State.still_checkCampaign (s : State) (m : Manifold) : (s.checkCampaign m).Still m ↔ s.Still m := by
  have w : ∀ i, ((s.checkCampaign m).loop i).want = (s.loop i).want := fun i => by
    rcases s.counted_checkCampaign m i with e | e <;> rw [e]
    rfl
  simp only [State.Still, w, s.drive_checkCampaign m]

/-- The examination of a campaign, said whole (R156, R157, R152). -/
theorem State.examined_checkCampaign (s : State) (m : Manifold) : s.Examined m (s.checkCampaign m) := by
  have sus := s.suspends_checkCampaign m
  have still := (s.still_checkCampaign m).trans (s.openingOver_iff m).symm
  have held := s.held_iff m
  have told : ∀ (t : State) (c : Campaign), t.campaign m = c → (t.markHouse true).campaign m = c := fun _ _ h => h
  rcases hc : (s.campaign m).state with _ | _ | _ | _
  all_goals refine ⟨fun a => ?_, fun a b => ?_, fun a b => ?_, fun a b => ?_, fun a b => ?_, fun a b => ?_,
    fun a b d => ?_, fun a b d => ?_, fun a b d e _ _ => ?_⟩
  all_goals first | (rw [hc] at a; exact CampaignState.noConfusion a) | skip
  · rw [State.checkCampaign, hc]
  · left
    rw [State.checkCampaign, hc]
    exact congrArg (State.campaign · m) (if_neg fun w => b (sus.mpr (held.mp w)))
  · rw [State.checkCampaign, hc]
    exact (congrArg (State.campaign · m) (if_pos (held.mpr (sus.mp b)))).trans (told _ _ (s.campaign_suspend m _))
  · rw [State.checkCampaign, hc]
    exact congrArg (State.campaign · m) (if_neg fun w => b (sus.mpr (held.mp w)))
  · rw [State.checkCampaign, hc]
    exact (congrArg (State.campaign · m) (if_pos (held.mpr (sus.mp b)))).trans (told _ _ (s.campaign_suspend m _))
  · rw [State.checkCampaign, hc]
    exact congrArg (State.campaign · m) (if_pos (held.mpr (sus.mp b)))
  all_goals
    have r : (s.checkCampaign m).campaign m = { s.campaign m with
        state := if (s.campaign m).resume = some .rounds ∨ s.openingOver m = true then .rounds else .opening,
        resume := none } := by
      rw [State.checkCampaign, hc]
      exact (congrArg (State.campaign · m) (if_neg fun w => b (sus.mpr (held.mp w)))).trans
        (told _ _ (s.campaign_resumed m))
  · rw [r, if_pos (d.imp id still.mp)]
  · rw [r]
    split
    · exact ⟨.rounds, by simp, rfl⟩
    · exact ⟨.opening, by simp, rfl⟩
  · rw [r, if_neg fun w => w.elim (fun w => by rw [d] at w; cases w) fun w => e (still.mpr w)]

end Sys2Proof.Machine
end

