-- ==== Sys2Proof/Laws/Storage.lean ====
section
/-! SUPPORT. The checks of the stored image as statements (R56), what the image keeps of a loop (R53), and the checks of
the valve exercise and of a round's claims. -/

namespace Sys2Proof.Machine

theorem within_iff (lo n hi : Nat) : within lo n hi = true ↔ lo ≤ n ∧ n ≤ hi := by simp [within]

theorem lengthOk_iff (x : Option Nat) : lengthOk x = true ↔ ∀ n, x = some n → 5 ≤ n ∧ n ≤ 200 := by
  cases x <;> simp [lengthOk, within_iff]

theorem ImageRoom.lawful_iff (x : ImageRoom) :
    x.lawful = true ↔ 1 ≤ x.leaseLength ∧ x.leaseLength ≤ 15 ∧ x.fallback ≤ 100 := by
  simp [ImageRoom.lawful, within_iff, and_assoc]

theorem ImageLoop.lawful_vacant {l : ImageLoop} (h : l.life = .vacant) : l.lawful = true ↔ l = .vacant := by
  simp [ImageLoop.lawful, h]

theorem ImageLoop.lawful_enrolled {l : ImageLoop} (h : l.life = .enrolled) :
    l.lawful = true ↔ (∀ n, l.length = some n → 5 ≤ n ∧ n ≤ 200) ∧ (1 ≤ l.covering ∧ l.covering ≤ 3) ∧
      (80 ≤ l.ceiling ∧ l.ceiling ≤ 1000) := by
  simp [ImageLoop.lawful, h, lengthOk_iff, within_iff, Config.minCeiling, Config.fullStroke, and_assoc]

theorem Loop.storedVacant_iff (l : Loop) : l.storedVacant = true ↔ l.life = .vacant ∨ l.life = .retiring := by
  simp [Loop.storedVacant]

theorem Loop.image_vacant {l : Loop} (h : l.life = .vacant ∨ l.life = .retiring) : l.image = .vacant := by
  simp [Loop.image, (l.storedVacant_iff).2 h]

theorem Loop.image_enrolled {l : Loop} (h : l.life ≠ .vacant) (k : l.life ≠ .retiring) :
    l.image = ⟨.enrolled, l.room, l.length, l.covering, l.ceiling, l.balance⟩ := by
  simp [Loop.image, Loop.storedVacant, h, k]

/-- The valve exercise chooses the loops that are due (R166). -/
theorem Loop.chosen_iff (l : Loop) : l.chosen = true ↔ l.ExerciseDue := by
  simp only [Loop.chosen, Bool.and_eq_true, decide_eq_true_eq, and_assoc]
  exact Iff.rfl

theorem mem_loopsOf (m : Manifold) (i : LoopIx) : i ∈ loopsOf m ↔ manifoldOf i = m := by simp [loopsOf, allLoops]

/-- The claim of a READY AUTO loop is that of its evaluation, where R136 admits it. -/
theorem State.claimOn_ready {s : State} (m : Manifold) {i : LoopIx} (h : (s.loop i).life = .ready)
    (k : (s.loop i).owner = .auto) :
    s.claimOn m i =
      if (s.channel (loopChannel i)).state = .ok ∧
          (s.timer m).settleBase * (s.loop i).covering ≤ (s.loop i).openCounter then
        (s.loop i).deltaT.bind fun dt =>
          (judge (s.loop i).ceiling (s.loop i).inBand dt (s.timer m).design (s.timer m).deadband).claim
      else none := by
  unfold State.claimOn State.verdict State.sensorFault
  cases d : (s.loop i).deltaT <;> cases c : (s.channel (loopChannel i)).state <;>
    by_cases b : (s.loop i).balance = .excluded <;>
      by_cases n : (s.timer m).settleBase * (s.loop i).covering ≤ (s.loop i).openCounter <;> simp [h, k, d, b, n]

/-- A claim is taken at a round expiry exactly where a loop claims (R27, R140). -/
theorem State.claimTaken_iff (s : State) (m : Manifold) : s.claimTaken m = true ↔ ∃ i, s.Claims m i := by
  simp only [State.claimTaken, List.any_eq_true, mem_loopsOf, Bool.and_eq_true, decide_eq_true_eq]
  refine exists_congr fun i => and_congr_right fun _ => ⟨?_, ?_⟩
  · rintro ⟨⟨c, h⟩, k⟩
    rw [State.claimOn_ready m h k] at c
    split at c <;> simp_all [Option.isSome_iff_ne_none]
  · rintro ⟨h, k, o, n, dt, d, c⟩
    rw [State.claimOn_ready m h k]
    simp_all [Option.isSome_iff_ne_none]

end Sys2Proof.Machine
end

