-- ==== Sys2Proof/Tests/Slice0.lean ====
section
/-! SUPPORT. Tests on small states: what the check of a command refuses, numbers the manual works out, and, for each
statement with hypotheses, operands that meet them together with what one command then does. -/

namespace Sys2Proof.Tests

set_option Elab.async false

open Sys2Proof Sys2Proof.Machine

/-! ### The check of a command -/

theorem test_wf_join_address :
    (Instr.join .room 0).wf = false ∧ (Instr.join .room 63).wf = false ∧ (Instr.join .room 1).wf = true ∧
      (Instr.join .room 62).wf = true := by decide +kernel

theorem test_wf_unknownRequest_kind :
    (Instr.unknownRequest 0x10 []).wf = false ∧ (Instr.unknownRequest 0x61 []).wf = false ∧
      (Instr.unknownRequest 0x13 []).wf = true := by decide +kernel

theorem test_wf_payload_length :
    (Instr.unknownRequest 0x13 (List.replicate 64 0)).wf = false ∧ (Instr.look (List.replicate 64 0)).wf = false ∧
      (Instr.stop (List.replicate 64 0) 0).wf = false ∧ (Instr.watchSet (List.replicate 63 0)).wf = false ∧
      (Instr.amendLoop (List.replicate 63 0)).wf = false ∧ (Instr.amendLoop (List.replicate 62 0)).wf = true ∧
      (Instr.amendOfDriveOrRoster (List.replicate 64 5)).wf = false := by decide +kernel

theorem test_wf_every_request_is_bounded :
    ∀ c ∈ [Instr.describe, .claim, .demand, .release, .enrol, .retire, .preset, .campaignStart, .campaignCancel, .hold,
        .resume, .store, .restart],
      (c (List.replicate 64 0)).wf = false ∧ (c []).wf = true := by decide +kernel

theorem test_wf_every_watch_and_amend_is_bounded :
    ∀ c ∈ [Instr.watchSet, .watchClear, .amendLoop, .amendRoom, .amendFloor, .amendHouse],
      (c (List.replicate 63 0)).wf = false ∧ (c []).wf = true := by decide +kernel

theorem test_wf_motor_steps :
    (Instr.stop [] 1201).wf = false ∧ (Instr.stop [] 1200).wf = true ∧ (Instr.stall 1301).wf = false ∧
      (Instr.endStopReached .openEnd 1301).wf = false ∧ (Instr.endStopReached .openEnd 1300).wf = true := by
  decide +kernel

theorem test_wf_amend_of_a_known_table :
    ∀ t ∈ [(1 : Byte), 2, 3, 4], (Instr.amendOfDriveOrRoster [t, 0]).wf = false ∧
      (Instr.amendOfDriveOrRoster [5, 0]).wf = true := by decide +kernel

/-! ### Numbers the manual works out -/

theorem test_crc_of_the_check_string :
    crc [0x31, 0x32, 0x33, 0x34, 0x35, 0x36, 0x37, 0x38, 0x39] = 0x29B1 := by decide +kernel

theorem test_steps_and_strokes : stepOf 437 217 = 94 ∧ strokeOf 437 94 = 215 := by decide +kernel

theorem test_trim_steps : trimStep 12 5 = 20 ∧ trimStep 9 5 = 10 ∧ trimStep 30 5 = 50 ∧ trimStep 31 5 = 50 := by
  decide +kernel

/-! ### States to test on -/

/-- The state a command leaves. -/
def after (c : Instr) (s : State) : State :=
  match exec c s with
  | .next t => t
  | .fault _ => s
  | .refused _ => s

/-- The station of slot `k`. -/
def station (k : SlotIx) : Slot := ⟨k.val + 1, 0, [], none⟩

/-- A state in which the reply window of slot `k` is open. -/
def polledBy (k : SlotIx) (s : State) : State :=
  { s with link := { s.link with window := .slot k, roster := s.link.roster.set k (some (station k)) } }

/-- The status code of the last answer, after sync, address, kind and length. -/
def answered (s : State) : Option Nat := (s.link.sent[4]?).map BitVec.toNat

/-- The hypotheses of a statement about an event, as one check. -/
def calm (s : State) : Bool :=
  s.powered && decide (s.reports = []) && !s.canStart &&
    allLoops.all fun i => !(s.loop i).restartMark || s.movingLoop i

/-- The hypotheses of a statement about a request, as one check. -/
def asks (k : SlotIx) (s : State) : Bool :=
  calm s && decide (s.link.lineBreak = .clear) && decide (s.link.window = .slot k) &&
    decide (s.slot k = some (station k))

theorem calm_means {s : State} (h : calm s = true) : s.powered = true ∧ s.ReportLaw ∧ s.StartLaw ∧ s.MarkLaw := by
  simp only [calm, Bool.and_eq_true, Bool.not_eq_true', List.all_eq_true, Bool.or_eq_true, decide_eq_true_eq] at h
  refine ⟨h.1.1.1, h.1.1.2, h.1.2, fun i hi => ?_⟩
  rcases h.2 i (List.mem_finRange i) with hm | hm
  · rw [hi] at hm; cases hm
  · exact hm

theorem asks_means {k : SlotIx} {s : State} (h : asks k s = true) :
    s.Polled k (station k) ∧ s.ReportLaw ∧ s.StartLaw ∧ s.MarkLaw := by
  simp only [asks, Bool.and_eq_true, decide_eq_true_eq] at h
  obtain ⟨⟨⟨hc, hb⟩, hw⟩, hs⟩ := h
  obtain ⟨hp, hr, ht, hm⟩ := calm_means hc
  exact ⟨⟨hp, hb, hw, hs⟩, hr, ht, hm⟩

/-- The driver can start no move, as a check. -/
def busy (s : State) : Bool :=
  decide (s.drive.moving ≠ none) || decide (s.drive.dwell ≠ none) || decide (s.drive.state ≠ .running)

theorem busy_means {s : State} (h : busy s = true) : s.DriverBusy := by
  simp only [busy, Bool.or_eq_true, decide_eq_true_eq, or_assoc] at h
  exact h

/-- A homed head at step 94 of 437, on a loop in a lifecycle state. -/
def homedLoop (x : Lifecycle) : Loop :=
  { Loop.vacant with
    life := x, present := true, homed := true, capacity := some 437, stepPos := some 94, position := some 215,
    ceiling := 640, length := some 55 }

/-- A head being homed, on a loop in a lifecycle state. -/
def homingLoop (x : Lifecycle) : Loop := { Loop.vacant with life := x, present := true, want := some .home }

/-- A state with one loop's record. -/
def withLoop (i : LoopIx) (l : Loop) : State := State.reset.setLoop i l

/-- A state with a running move. -/
def moving (m : Move) (s : State) : State := s.setMoving (some m)

/-- A move in a leg. -/
def move (kind : MoveKind) (target : Option Nat) (leg : Leg) : Move := ⟨3, kind, target, leg, none, false⟩

/-- The drive HELD: the driver starts nothing. -/
def stopped (s : State) : State := s.putDriveState .held

/-- A room held by slot 2. -/
def held2 : Room := ⟨.claimed, some 2, 50, 10, 7, 20⟩

/-! ### The step, reset and supply -/

theorem test_step :
    step { State.reset with pending := [.minuteTick, .poll] } =
        exec .minuteTick { State.reset with pending := [.poll] } ∧
      (∀ n ∈ [(1 : Nat), 2],
        step { State.reset with drive := ⟨none, [], some ⟨0, .park, .done, none, n⟩, .running⟩ } =
          .next { State.reset with drive := ⟨none, [], some ⟨0, .park, .done, none, 1⟩, .running⟩ }) ∧
      step { State.reset with powered := false } = .next { State.reset with powered := false } :=
  ⟨rfl, by intro n hn; fin_cases hn <;> rfl, rfl⟩

/-- An image with loop 3 enrolled. -/
def image : Image := (withLoop 3 (homedLoop .ready)).snapshot

theorem test_power_up_without_an_image :
    (⟨.blank, .valid, none, false⟩ : Storage).afterLoss.examine = (.blank, none) ∧
      (⟨.sound image, .valid, some image, false⟩ : Storage).afterLoss.examine = (.bad, none) ∧
      (⟨.sound { image with deadband := 2 }, .valid, none, false⟩ : Storage).afterLoss.examine = (.bad, none) ∧
      ((after (.powerUp (Vector.replicate 24 true) true) { State.reset with powered := false }).loop 3).present = true := by
  decide +kernel

theorem test_loss_of_supply :
    State.reset.powered = true ∧ (after .lossOfSupply State.reset).powered = false ∧
      after .poll { State.reset with powered := false } = { State.reset with powered := false } := by decide +kernel

/-- The memory holds that image. -/
def stored : State := { State.reset with storage := ⟨.sound image, .valid, none, false⟩ }

theorem test_power_up_with_an_image :
    stored.storage.afterLoss = .sound image ∧ image.lawful = true ∧
      ((after (.powerUp (Vector.replicate 24 true) false) stored).loop 3).life = .homing ∧
      (after (.powerUp (Vector.replicate 24 true) false) stored).drive.moving =
        some ⟨3, .home, none, .first, none, false⟩ ∧
      ((after (.powerUp (Vector.replicate 24 false) false) stored).loop 3).life = .enrolled ∧
      (after (.powerUp (Vector.replicate 24 false) false) stored).drive.moving = none := by decide +kernel

/-! ### The House Link -/

/-- The window is shut; slots 0 and 17 are occupied and the pass stands at slot `n`. -/
def pass (n : Nat) : State :=
  { (((polledBy 0 State.reset).setSlot 17 (some (station 17))).setWindow .shut) with
    link := { (((polledBy 0 State.reset).setSlot 17 (some (station 17))).setWindow .shut).link with cursor := n } }

theorem test_polls_of_a_pass :
    calm (pass 0) = true ∧ (pass 0).link.window = .shut ∧ (pass 0).link.lineBreak = .clear ∧
      (∀ j : SlotIx, 1 ≤ j.val → j < 17 → (pass 1).slot j = none) ∧
      (after .poll (pass 0)).link.window = .slot 0 ∧ (after .poll (pass 1)).link.window = .slot 17 ∧
      (∀ j : SlotIx, 18 ≤ j.val → (pass 18).slot j = none) ∧ (after .poll (pass 18)).link.window = .openCall ∧
      (polledBy 0 State.reset).link.window ≠ .shut ∧
      after .poll (polledBy 0 State.reset) = polledBy 0 State.reset := by decide +kernel

theorem test_replies_that_are_no_request :
    asks 2 (polledBy 2 State.reset) = true ∧
      ∀ c ∈ [(Instr.noneReply, 0), (.corruptReply, 9), (.openCallReplyDiscarded, 9), (.join .room 5, 9)],
        answered (after c.1 (polledBy 2 State.reset)) = some c.2 := by decide +kernel

/-- The open call's window is open; slot 0 is occupied, by address 1. -/
def openCall : State := (polledBy 0 State.reset).setWindow .openCall

theorem test_join :
    openCall.powered = true ∧ openCall.link.lineBreak = .clear ∧ openCall.link.window = .openCall ∧
      (∀ (j : SlotIx) (y : Slot), openCall.slot j = some y → j = 0) ∧ slotKind 2 = .room ∧ openCall.slot 2 = none ∧
      (after (.join .room 9) openCall).slot 2 = some ⟨9, 0, [], none⟩ ∧
      openCall.slot 0 = some (station 0) ∧ (station 0).address = 1 ∧ (after (.join .room 1) openCall).slot 2 = none ∧
      (∀ k : SlotIx, slotKind k = .service → openCall.slot k ≠ none) ∧
      (after (.join .service 9) openCall).link.window = .shut ∧
      (after .openCallReplyDiscarded openCall).link.window = .shut := by
  refine ⟨rfl, rfl, rfl, ?_, ?_⟩
  · intro j y h
    by_contra hj
    have : ∀ j : SlotIx, j ≠ 0 → openCall.slot j = none := by decide +kernel
    rw [this j hj] at h
    cases h
  · decide +kernel

/-- Slot 2 has missed `n` polls and holds room 5; its window is open. -/
def missed (n : Nat) : State :=
  ((polledBy 2 State.reset).setSlot 2 (some ⟨3, n, [], none⟩)).setRoom 4 held2

theorem test_window_expiry :
    (∀ n ∈ [(0 : Nat), 1, 2], calm (missed n) = true ∧ (missed n).link.window = .slot 2 ∧
        (missed n).slot 2 = some ⟨3, n, [], none⟩) ∧
      (after .windowExpiry (missed 1)).slot 2 = some ⟨3, 2, [], none⟩ ∧
      (after .windowExpiry (missed 2)).slot 2 = none ∧ ((after .windowExpiry (missed 2)).room 4).state = .lapsed ∧
      calm openCall = true ∧ (after .windowExpiry openCall).link.window = .shut ∧
      (after .windowExpiry (stopped ((missed 2).setWindow (.slot 0) |>.setSlot 0 (some ⟨1, 2, [], none⟩)))).drive.state =
        .running := by decide +kernel

theorem test_link_restart :
    calm ((missed 0).setBreak .timing) = true ∧
      (after .linkRestart ((missed 0).setBreak .timing)).link.lineBreak = .restarted ∧
      ((after .linkRestart ((missed 0).setBreak .timing)).room 4).state = .lapsed ∧
      after .linkRestart ((missed 0).setBreak .restarted) = (missed 0).setBreak .restarted ∧
      (after .breakOnset (missed 0)).link.lineBreak = .timing ∧
      (after .breakEnd ((missed 0).setBreak .restarted)).link.lineBreak = .clear := by decide +kernel

theorem test_unknown_and_denied :
    (∀ k ∈ [(0 : SlotIx), 1, 2], asks k (polledBy k State.reset) = true) ∧ slotKind 0 = .service ∧
      slotKind 1 = .source ∧ slotKind 2 = .room ∧ slotKind 17 = .room ∧
      answered (after (.unknownRequest 0x13 []) (polledBy 2 State.reset)) = some 10 ∧
      answered (after (.claim [1]) (polledBy 1 State.reset)) = some 2 ∧
      answered (after (.release [1]) (polledBy 1 State.reset)) = some 2 ∧
      answered (after (.amendHouse []) (polledBy 2 State.reset)) = some 2 ∧
      answered (after (.stop [] 0) (polledBy 1 State.reset)) = some 2 ∧
      answered (after (.amendOfDriveOrRoster [5]) (polledBy 0 State.reset)) = some 2 ∧
      answered (after (.amendOfDriveOrRoster [6, 0]) (polledBy 0 State.reset)) = some 2 := by decide +kernel

theorem test_range_and_nosuch :
    (∀ c ∈ [Instr.look [1, 0], .look [1, 0, 1, 0], .watchSet [1, 0, 1, 0], .describe [0], .release [], .release [1, 1],
        .enrol [3, 255, 255], .enrol [3, 255, 255, 255, 0], .hold [0], .amendLoop [3, 1, 1, 0], .amendLoop [],
        .amendFloor [0, 1, 1]],
      answered (after c (polledBy 0 State.reset)) = some 5) ∧
    (∀ b ∈ [(0 : Byte), 17, 255], b.toNat = 0 ∨ 16 < b.toNat) ∧
    (∀ b ∈ [(0 : Byte), 17], ∀ c ∈ [Instr.claim [b], .demand [b, 0], .release [b]],
      answered (after c (polledBy 2 State.reset)) = some 6) ∧
    amendForm roomFields [17, 1, 1, 0, 5] = some (17, [⟨1, 5⟩]) ∧
    answered (after (.amendRoom [17, 1, 1, 0, 5]) (polledBy 0 State.reset)) = some 6 ∧
    answered (after (.amendRoom [16, 1, 1, 0, 5]) (polledBy 0 State.reset)) = some 0 := by decide +kernel

/-- The manual's LOOK of two loops: 63 payload bytes, with two records; and from index 20, also two. -/
theorem test_look_of_two_loops :
    tableOf 1 = some .loop ∧ (after (.look [1, 22, 4]) (polledBy 0 State.reset)).link.sent.length = 63 + 6 ∧
      ((after (.look [1, 22, 4]) (polledBy 0 State.reset)).link.sent.drop 4).take 7 = [0, 0, 255, 255, 1, 22, 2] ∧
      ((after (.look [1, 20, 4]) (polledBy 0 State.reset)).link.sent.drop 8).take 3 = [1, 20, 2] ∧
      ((polledBy 0 State.reset).heard 0 (station 0)).recordAt .loop 24 = none ∧
      answered (after (.look [1, 24, 1]) (polledBy 0 State.reset)) = some 6 := by decide +kernel

/-- A status and a marker of the last answer: status, marker code, table and index. -/
def answeredWith (s : State) : List Nat := ((s.link.sent.drop 4).take 4).map BitVec.toNat

/-- The service station has missed a poll and has a marker pending. -/
def marked : State := (polledBy 0 State.reset).setSlot 0 (some ⟨1, 1, [], some ⟨.loop, 4, true⟩⟩)

theorem test_pending_marker_rides_on_the_answer :
    marked.Polled 0 ⟨1, 1, [], some ⟨.loop, 4, true⟩⟩ ∧ marked.reports = [] ∧
      ∀ c ∈ [(Instr.noneReply, 0), (.unknownRequest 0x13 [], 10), (.claim [1], 2), (.describe [0], 5), (.release [0], 6),
          (.preset [4], 5), (.campaignStart [0], 5), (.campaignStart [4], 5), (.watchSet [1, 24, 1, 0, 0], 5),
          (.watchSet [2, 0, 1, 0, 2], 5), (.watchClear [2, 0, 8, 1, 0], 5), (.look [7, 0, 1], 5), (.look [6, 18, 1], 6)],
        answeredWith (after c.1 marked) = [c.2, 2, 1, 4] ∧ (after c.1 marked).slot 0 = some ⟨1, 0, [], none⟩ := by
  exact ⟨⟨rfl, rfl, rfl, rfl⟩, by decide +kernel⟩

/-- The indices of the tables at their ends, and records of three of them. -/
theorem test_records :
    (State.reset.recordAt .loop 23).isSome = true ∧ State.reset.recordAt .room 0 = none ∧
      (State.reset.recordAt .room 16).isSome = true ∧ State.reset.recordAt .room 17 = none ∧
      State.reset.recordAt .house 3 = none ∧ State.reset.recordAt .floor 1 = none ∧
      (State.reset.recordAt .drive 16).isSome = true ∧ State.reset.recordAt .drive 17 = none ∧
      State.reset.recordAt .roster 18 = none ∧
      (moving (move .position (some 640) .first) State.reset).recordAt .drive 0 =
        some [1, 3, 2, 2, 128, 1, 255, 255, 255, 255, 255] ∧
      { State.reset with drive := ⟨none, [⟨4, .park, none⟩], some ⟨3, .home, .failed, some .travel, 10⟩, .running⟩ }.recordAt
        .drive 1 = some [3, 4, 3, 255, 255, 255, 255, 255, 255, 255, 255] ∧
      marked.recordAt .roster 0 = some [1, 1, 0, 1, 1, 0, 255, 255, 255, 255, 255, 255, 255, 255, 255, 255] := by
  decide +kernel

/-- Slot 2 holds a list of watches. -/
def watching (ws : List Watch) : State := (polledBy 2 State.reset).setSlot 2 (some ⟨3, 0, ws, none⟩)

theorem test_watching_is_polled (ws : List Watch) : (watching ws).Polled 2 ⟨3, 0, ws, none⟩ := ⟨rfl, rfl, rfl, rfl⟩

theorem test_watches :
    watchForm [1, 8, 8, 1, 0] = some ⟨.loop, 8, 8, true, .any⟩ ∧ watchForm [1, 4, 8, 0, 0] = none ∧
      watchForm [2, 16, 1, 0, 1] = some ⟨.room, 16, 1, false, .state⟩ ∧ watchForm [2, 0, 1, 0, 1] = none ∧
      answered (after (.watchSet [1, 8, 8, 1, 0]) (watching [])) = some 0 ∧
      answered (after (.watchSet [1, 8, 8, 1, 0]) (watching [⟨.loop, 8, 8, true, .any⟩])) = some 0 ∧
      answered (after (.watchSet [1, 8, 8, 1, 0]) (watching [⟨.loop, 0, 1, false, .any⟩, ⟨.room, 1, 1, false, .any⟩])) =
        some 4 ∧
      answered (after (.watchClear [1, 8, 8, 1, 0]) (watching [⟨.loop, 8, 8, true, .any⟩])) = some 0 ∧
      answered (after (.watchClear [1, 8, 8, 1, 0]) (watching [])) = some 6 := by decide +kernel

theorem test_describe :
    asks 1 (polledBy 1 (withLoop 12 (homedLoop .ready))) = true ∧
      ((after (.describe []) (polledBy 1 (withLoop 12 (homedLoop .ready)))).link.sent.drop 8).take 9 =
        [0x55, 0x43, 1, 12, 0, 0, 1, 1, 1] := by decide +kernel

/-! ### Rooms, the Floor List and the House Record -/

/-- Slot 2 is polled; room 5 is as given. -/
def roomAs (x : Room) : State := (polledBy 2 State.reset).setRoom 4 x

/-- Rooms 1 and 2 are slot 2's too. -/
def twoClaims : State := ((roomAs Room.initial).setRoom 0 held2).setRoom 1 held2

theorem test_claim :
    (∀ s ∈ [roomAs held2, roomAs { held2 with claimant := some 3 }, roomAs Room.initial, twoClaims], asks 2 s = true) ∧
      (5 : Byte).toNat = (4 : RoomIx).val + 1 ∧ ((roomAs held2).room 4).claimant = some 2 ∧
      ((after (.claim [5]) (roomAs held2)).room 4).leaseRemaining = 10 ∧
      answered (after (.claim [5]) (roomAs { held2 with claimant := some 3 })) = some 3 ∧
      (roomAs Room.initial).claims 2 = 0 ∧ ((after (.claim [5]) (roomAs Room.initial)).room 4).claimant = some 2 ∧
      twoClaims.claims 2 = 2 ∧ answered (after (.claim [5]) twoClaims) = some 4 := by decide +kernel

theorem test_demand :
    answered (after (.demand [5, 101]) (roomAs held2)) = some 5 ∧
      ((after (.demand [5, 100]) (roomAs held2)).room 4).demand = 100 ∧
      answered (after (.demand [5, 100]) (roomAs { held2 with claimant := some 3 })) = some 2 ∧
      answered (after (.demand [5, 100]) (roomAs Room.initial)) = some 7 := by decide +kernel

theorem test_release :
    ((after (.release [5]) (roomAs held2)).room 4).state = .free ∧
      answered (after (.release [5]) (roomAs { held2 with claimant := some 3 })) = some 2 ∧
      answered (after (.release [5]) (roomAs Room.initial)) = some 7 := by decide +kernel

theorem test_service_rooms :
    asks 0 (polledBy 0 (roomAs held2)) = true ∧
      ((after (.release [5]) (polledBy 0 (roomAs held2))).room 4).state = .free ∧
      amendForm roomFields [5, 2, 1, 0, 15, 2, 0, 100] = some ((4 : RoomIx).val + 1, [⟨1, 15⟩, ⟨2, 100⟩]) ∧
      roomAmend [⟨1, 15⟩, ⟨2, 100⟩] = some ⟨some 15, some 100⟩ ∧ roomAmend [⟨1, 16⟩] = none ∧
      ((after (.amendRoom [5, 2, 1, 0, 15, 2, 0, 100]) (polledBy 0 (roomAs held2))).room 4).fallback = 100 ∧
      answered (after (.amendRoom [5, 1, 1, 0, 16]) (polledBy 0 (roomAs held2))) = some 5 := by decide +kernel

/-- Slot 2, polled, watches room 5, which it holds; loop 3 is READY in that room and the drive HELD. -/
def demanding : State :=
  (((stopped (withLoop 3 { homedLoop .ready with room := some 4, commanded := 320 })).setRoom 4 held2).setSlot 2
    (some ⟨3, 0, [⟨.room, 5, 1, false, .any⟩], none⟩)).setWindow (.slot 2)

theorem test_room_changes_are_handed_on :
    demanding.Polled 2 ⟨3, 0, [⟨.room, 5, 1, false, .any⟩], none⟩ ∧ calm demanding = true ∧ busy demanding = true ∧
      answeredWith (after (.claim [5]) demanding) = [0, 1, 2, 5] ∧
      answeredWith (after (.demand [5, 100]) demanding) = [0, 1, 2, 5] ∧
      ((after (.demand [5, 100]) demanding).loop 3).commanded = 640 ∧
      ((after (.demand [5, 100]) demanding).loop 3).want = some .position ∧
      answeredWith (after (.demand [5, 50]) demanding) = [0, 1, 2, 5] ∧
      (after (.demand [5, 50]) demanding).loops = demanding.loops ∧
      ((after (.release [5]) demanding).loop 3).commanded = 128 ∧
      (after (.leaseExpiry 4) (demanding.setRoom 4 { held2 with leaseRemaining := 0 })).slot 2 =
        some ⟨3, 0, [⟨.room, 5, 1, false, .any⟩], some ⟨.room, 5, false⟩⟩ ∧
      ((after .windowExpiry ((demanding.setSlot 3 (some ⟨4, 2, [], none⟩)).setRoom 4 { held2 with claimant := some 3 }
        |>.setWindow (.slot 3))).slot 2).bind Slot.marker = some ⟨.room, 5, false⟩ ∧
      ((after .linkRestart demanding).loop 3).commanded = 128 := by
  exact ⟨⟨rfl, rfl, rfl, rfl⟩, by decide +kernel⟩

/-- The manual's floor walk: loops 0, 1, 2, 6, 12, 14, 19 and 20, the flow floor `n`. -/
def floorExample (n : Nat) : State :=
  let loop := fun (o : Owner) (ceiling : Nat) (r : Option RoomIx) => { homedLoop .ready with owner := o, ceiling := ceiling, room := r, override := 300 }
  let room := fun (d : Nat) => ({ held2 with demand := d } : Room)
  { stopped State.reset with
    loops := (((((((State.reset.loops.set 0 (loop .auto 363 (some 2))).set 1 (loop .auto 1000 (some 2))).set 2
      (loop .auto 163 (some 4))).set 6 (loop .auto 700 (some 7))).set 12 (loop .auto 900 (some 9))).set 14
      (loop .auto 820 (some 10))).set 19 (loop .service 540 (some 11))).set 20 (loop .auto 80 none)
    rooms := ((((State.reset.rooms.set 2 (room 0)).set 7 (room 10)).set 9 (room 30)).set 10 (room 0)).set 11 (room 0)
    floorList := [6, 2, 14, 19]
    house := { House.default with flowFloor := n } }

/-- Every loop is enrolled and none has a head; the service station is polled. -/
def allEnrolled : State := polledBy 0 (State.reset.mapLoops fun _ l => l.setLife .enrolled)

theorem test_amend_floor :
    asks 0 allEnrolled = true ∧
      (after (.amendFloor [0, 1, 1, 8, 6, 2, 14, 19, 0, 1, 3, 4]) allEnrolled).floorList = [6, 2, 14, 19, 0, 1, 3, 4] ∧
      answered (after (.amendFloor [0, 1, 1, 9, 6, 2, 14, 19, 0, 1, 3, 4, 5]) allEnrolled) = some 5 ∧
      answered (after (.amendFloor [0, 1, 1, 2, 6, 6]) allEnrolled) = some 5 ∧
      answered (after (.amendFloor [0, 1, 1, 1, 6]) (polledBy 0 State.reset)) = some 5 ∧
      answered (after (.amendFloor [0, 1, 1, 1, 24]) allEnrolled) = some 5 ∧
      answered (after (.amendFloor [1, 1, 1, 1, 6]) allEnrolled) = some 6 ∧
      answered (after (.amendFloor [1, 1, 1, 9, 6, 2, 14, 19, 0, 1, 3, 4, 5]) allEnrolled) = some 6 ∧
      ((after (.amendFloor [0, 1, 1, 1, 14]) (polledBy 0 (floorExample 2000))).loop 14).commanded = 820 ∧
      ((after (.amendFloor [0, 1, 1, 1, 14]) (polledBy 0 (floorExample 2000))).loop 6).commanded = 70 := by decide +kernel

theorem test_amend_house :
    amendForm (houseAmendable ++ houseReadOnly) [0, 1, 4, 0, 20] = some (0, [⟨4, 20⟩]) ∧
      (State.reset.house.setAll [⟨4, 20⟩]).map House.deadband = some 20 ∧
      (after (.amendHouse [0, 1, 4, 0, 20]) (polledBy 0 State.reset)).house.deadband = 20 ∧
      State.reset.house.setAll [⟨4, 21⟩] = none ∧
      (∀ c ∈ [(Instr.amendHouse [1, 1, 4, 0, 20], 2), (.amendHouse [2, 1, 4, 0, 20], 2),
          (.amendHouse [3, 1, 4, 0, 20], 6), (.amendHouse [0, 2, 4, 0, 20, 4, 0, 20], 5),
          (.amendHouse [0, 1, 0x10, 0, 0], 2), (.amendHouse [0, 1, 4, 0, 21], 5)],
        answered (after c.1 (polledBy 0 State.reset)) = some c.2) ∧
      mayAmend .source 4 = false ∧ answered (after (.amendHouse [0, 1, 4, 0, 20]) (polledBy 1 State.reset)) = some 2 ∧
      (State.reset.house.setAll [⟨1, 1⟩]).map House.season = some .standby := by decide +kernel

/-- The ends of the range of every field of the House Record that may be amended. -/
theorem test_house_ranges :
    (∀ q ∈ [(1, 1), (2, 30), (3, 100), (4, 3), (5, 60), (6, 0), (7, 24000), (8, 1), (9, 5), (10, 10079), (11, 0), (12, 48)],
      answered (after (.amendHouse ([0, 1, byte q.1] ++ [byte (q.2 / 256), byte q.2])) (polledBy 0 State.reset)) = some 0) ∧
    (∀ q ∈ [(1, 2), (2, 29), (3, 101), (4, 2), (5, 61), (6, 2), (7, 24001), (8, 2), (9, 3), (10, 10080), (11, 10080),
        (12, 0)],
      answered (after (.amendHouse ([0, 1, byte q.1] ++ [byte (q.2 / 256), byte q.2])) (polledBy 0 State.reset)) = some 5) ∧
    HouseAmendable .service 12 ∧ ¬HouseAmendable .source 2 ∧ HouseInRange 5 60 ∧ ¬HouseInRange 9 3 ∧
      (House.default.amendedBy [⟨10, 0⟩]).timeSet = true := by
  refine ⟨by decide +kernel, by decide +kernel, ?_, ?_, ?_, ?_, rfl⟩ <;> simp [HouseAmendable, HouseInRange]

/-- A campaign in ROUNDS on manifold A, both supply channels OK, the pause line as given. -/
def inRounds (line : Bool) : State :=
  { State.reset with
    house := { House.default with pauseLine := line }
    channels := (State.reset.channels.set 24 ⟨.ok, some 350, 0, 0⟩).set 25 ⟨.ok, some 350, 0, 0⟩
    timers := ⟨⟨some 7, 20, 50, 5⟩, ⟨some 7, 20, 50, 5⟩⟩
    campaigns := ⟨⟨.rounds, none, 3, .none, none⟩, Campaign.initial⟩ }

/-- That campaign SUSPENDED by a pause. -/
def paused : State :=
  { inRounds true with
    timers := ⟨⟨none, 20, 50, 5⟩, ⟨none, 20, 50, 5⟩⟩
    campaigns := ⟨⟨.suspended, some .rounds, 3, .none, none⟩, Campaign.initial⟩ }

theorem test_pause_line :
    calm (inRounds false) = true ∧ calm paused = true ∧ (inRounds false).house.pauseFlag = false ∧
      (after .pauseLineAssertion (inRounds false)).campaign .a = ⟨.suspended, some .rounds, 3, .none, none⟩ ∧
      ((after .pauseLineAssertion (inRounds false)).timer .b).remaining = none ∧
      paused.house.pauseLine = true ∧ (after .pauseLineRelease paused).campaign .a = ⟨.rounds, none, 3, .none, none⟩ ∧
      ((after .pauseLineRelease paused).timer .a).remaining = some 20 ∧
      (after .pauseLineAssertion paused).house = paused.house ∧
      (after .pauseLineRelease (inRounds false)).house = (inRounds false).house := by decide +kernel

/-- A campaign SUSPENDED in OPENING by the pause line alone, its manifold still, or with a move of loop 3 running. -/
def pausedInOpening : State :=
  { paused with campaigns := ⟨⟨.suspended, some .opening, 0, .none, none⟩, Campaign.initial⟩ }

theorem test_resumption_to_opening :
    calm pausedInOpening = true ∧
      (after .pauseLineRelease pausedInOpening).campaign .a = ⟨.rounds, none, 0, .none, none⟩ ∧
      ((after .pauseLineRelease pausedInOpening).timer .a).remaining = some 20 ∧
      calm (moving (move .position (some 1000) .first) pausedInOpening) = true ∧
      (after .pauseLineRelease (moving (move .position (some 1000) .first) pausedInOpening)).campaign .a =
        ⟨.opening, none, 0, .none, none⟩ ∧
      ((after .pauseLineRelease (moving (move .position (some 1000) .first) pausedInOpening)).timer .a).remaining = some 20 ∧
      pausedInOpening.Still .a ∧ ¬(moving (move .position (some 1000) .first) pausedInOpening).Still .a := by
  refine ⟨by decide +kernel, by decide +kernel, by decide +kernel, by decide +kernel, by decide +kernel, by decide +kernel,
    fun i _ => ⟨?_, fun e he => ?_, fun r hr => ?_⟩, fun h => (h 3 rfl).2.2 _ rfl rfl⟩
  · revert i; decide +kernel
  · cases he
  · cases hr

/-! ### The Loop Table -/

/-- Loop 3 as given, the drive HELD, the service station polled. -/
def atLoop (l : Loop) : State := polledBy 0 (stopped (withLoop 3 l))

theorem test_enrol :
    asks 0 (atLoop Loop.vacant) = true ∧ busy (atLoop Loop.vacant) = true ∧
      (24 : Byte).toNat = 24 ∧ answered (after (.enrol [24, 255, 255, 255]) (atLoop Loop.vacant)) = some 6 ∧
      answered (after (.enrol [3, 255, 255, 255]) (atLoop (homedLoop .ready))) = some 3 ∧
      (∀ p ∈ [[(3 : Byte), 0, 255, 255], [3, 17, 255, 255], [3, 255, 4, 255], [3, 255, 201, 255], [3, 255, 255, 0],
          [3, 255, 255, 4]], answered (after (.enrol p) (atLoop Loop.vacant)) = some 5) ∧
      (∀ p ∈ [[(3 : Byte), 1, 5, 1], [3, 16, 200, 3], [3, 255, 255, 255]],
        answered (after (.enrol p) (atLoop Loop.vacant)) = some 0) ∧
      ((after (.enrol [3, 1, 5, 1]) (atLoop { Loop.vacant with present := true })).loop 3).life = .homing ∧
      ((after (.enrol [3, 1, 5, 1]) (atLoop { Loop.vacant with present := true })).loop 3).want = some .home := by
  decide +kernel

/-- Room 1 has six loops; loop 3 is VACANT. -/
def fullRoom : State :=
  (atLoop Loop.vacant).mapLoops fun i l => if 4 ≤ i.val ∧ i.val ≤ 9 then { l with life := .enrolled, room := some 0 } else l

theorem test_enrol_in_a_full_room :
    asks 0 fullRoom = true ∧ (1 : Byte).toNat = (0 : RoomIx).val + 1 ∧ (fullRoom.roomLoops 0).length = 6 ∧
      answered (after (.enrol [3, 1, 5, 1]) fullRoom) = some 4 := by decide +kernel

/-- The manual's three loops of manifold A: the third's ceiling is 163, and PRESET gives the first 363. -/
theorem test_ceilings_by_length :
    1000 * 18 / 110 = 163 ∧
      ((after (.enrol [2, 3, 18, 255]) (polledBy 0 ((withLoop 0 { Loop.vacant with life := .homing, present := true, want := some .home, length := some 40 }).setLoop 1
        { Loop.vacant with life := .enrolled, length := some 110 } |> stopped))).loop 2).ceiling = 163 ∧
      ((after (.preset [1]) (polledBy 0 ((withLoop 0 { Loop.vacant with life := .enrolled, length := some 40 }).setLoop 1
        { Loop.vacant with life := .enrolled, length := some 110 }))).loop 0).ceiling = 363 := by decide +kernel

theorem test_retire :
    (∀ l ∈ [homedLoop .ready, homingLoop .homing, homedLoop .retiring, homedLoop .enrolled], asks 0 (atLoop l) = true) ∧
      busy (atLoop (homedLoop .ready)) = true ∧
      answered (after (.retire [24]) (atLoop Loop.vacant)) = some 6 ∧
      answered (after (.retire [3]) (atLoop Loop.vacant)) = some 6 ∧
      answered (after (.retire [3]) (atLoop (homedLoop .retiring))) = some 3 ∧
      ((after (.retire [3]) (atLoop { Loop.vacant with life := .enrolled })).loop 3).life = .vacant ∧
      ((after (.retire [3]) (atLoop (homedLoop .ready))).loop 3).want = some .park ∧
      ((after (.retire [3]) (atLoop (homingLoop .homing))).loop 3).life = .retiring := by decide +kernel

theorem test_amend_loop :
    asks 0 (atLoop (homedLoop .ready)) = true ∧
      amendForm loopFields [3, 2, 4, 3, 232, 5, 0, 1] = some ((3 : LoopIx).val, [⟨4, 1000⟩, ⟨5, 1⟩]) ∧
      (loopAmend [⟨4, 1000⟩, ⟨5, 1⟩]).isSome = true ∧ loopAmend [⟨4, 79⟩] = none ∧
      ((after (.amendLoop [3, 2, 4, 3, 232, 5, 0, 1]) (atLoop (homedLoop .ready))).loop 3).balance = .excluded ∧
      answered (after (.amendLoop [3, 1, 4, 0, 79]) (atLoop (homedLoop .ready))) = some 5 ∧
      answered (after (.amendLoop [24, 1, 4, 0, 80]) (atLoop (homedLoop .ready))) = some 6 ∧
      answered (after (.amendLoop [3, 1, 4, 0, 80]) (atLoop (homedLoop .retiring))) = some 3 ∧
      answered (after (.amendLoop [3, 1, 4, 0, 80]) (atLoop Loop.vacant)) = some 6 ∧
      ((after (.amendLoop [3, 1, 7, 0, 2]) (atLoop { Loop.vacant with life := .enrolled, present := true })).loop 3).life =
        .homing := by decide +kernel

/-- The ends of the range of every field of a loop that may be amended. -/
theorem test_loop_ranges :
    (∀ q ∈ [(1, 16), (1, 65535), (2, 5), (2, 200), (2, 65535), (3, 3), (4, 80), (4, 1000), (5, 1), (6, 1000), (7, 1), (7, 15)],
      answered (after (.amendLoop ([3, 1, byte q.1] ++ [byte (q.2 / 256), byte q.2])) (atLoop (homedLoop .ready))) = some 0) ∧
    (∀ q ∈ [(1, 0), (1, 17), (2, 4), (2, 201), (3, 0), (3, 4), (4, 79), (4, 1001), (5, 2), (6, 1001), (7, 0), (7, 16)],
      answered (after (.amendLoop ([3, 1, byte q.1] ++ [byte (q.2 / 256), byte q.2])) (atLoop (homedLoop .ready))) = some 5) ∧
    LoopInRange 1 65535 ∧ ¬LoopInRange 4 79 ∧ (loopAsked [⟨1, 65535⟩, ⟨4, 80⟩]).room = some none := by
  refine ⟨by decide +kernel, by decide +kernel, ?_, ?_, rfl⟩ <;> simp [LoopInRange]

theorem test_amend_loop_into_a_full_room :
    asks 0 (fullRoom.setLoop 3 (homedLoop .ready)) = true ∧
      ((loopAmend [⟨1, 1⟩]).map LoopAmend.room) = some (some (some 0)) ∧
      ((fullRoom.setLoop 3 (homedLoop .ready)).roomLoops 0).length = 6 ∧
      answered (after (.amendLoop [3, 1, 1, 0, 1]) (fullRoom.setLoop 3 (homedLoop .ready))) = some 4 := by decide +kernel

theorem longest_of_loop_3 : (atLoop (homedLoop .ready)).IsLongest .a 55 := by
  have h : ∀ j : LoopIx, ((atLoop (homedLoop .ready)).loop j).length = if j = 3 then some 55 else none := by decide +kernel
  refine ⟨fun j l _ _ hl => ?_, Or.inl ⟨3, by decide +kernel, by decide +kernel, by decide +kernel⟩⟩
  rw [h j] at hl
  split at hl <;> cases hl
  exact Nat.le_refl _

theorem test_preset :
    answered (after (.preset [3]) (atLoop (homedLoop .ready))) = some 5 ∧
      answered (after (.preset [2]) (atLoop (homedLoop .ready))) = some 6 ∧
      answered (after (.preset [1]) (polledBy 0 (inRounds false))) = some 3 ∧
      answered (after (.preset [1]) (atLoop (homedLoop .ready))) = some 0 ∧
      ((after (.preset [1]) (atLoop (homedLoop .ready))).loop 3).ceiling = 1000 := by decide +kernel

/-! ### Campaigns -/

/-- Loop 3 is READY and AUTO, with the channels of `inRounds` and no campaign open. -/
def campaignBase : State :=
  { (inRounds false).setLoop 3 { homedLoop .ready with position := some 0, stepPos := some 0 } with
    campaigns := ⟨Campaign.initial, Campaign.initial⟩ }

theorem test_campaign_start :
    asks 0 (polledBy 0 campaignBase) = true ∧ asks 0 (atLoop (homedLoop .ready)) = true ∧
      busy (atLoop (homedLoop .ready)) = true ∧ manifoldsOf 1 = some [.a] ∧ manifoldsOf 3 = some [.a, .b] ∧
      answered (after (.campaignStart [1]) (polledBy 0 campaignBase)) = some 1 ∧
      (after (.campaignStart [1]) (polledBy 0 campaignBase)).campaign .a = ⟨.opening, none, 0, .none, none⟩ ∧
      (after (.campaignStart [1]) (atLoop (homedLoop .ready))).campaign .a = ⟨.suspended, some .opening, 0, .none, none⟩ ∧
      answered (after (.campaignStart [3]) (polledBy 0 campaignBase)) = some 6 ∧
      answered (after (.campaignStart [1]) (polledBy 0 (inRounds false))) = some 3 := by decide +kernel

/-- Both manifolds have a READY loop; the service station watches the House Record. -/
def watchedCampaigns : State :=
  ((campaignBase.setLoop 14 { homedLoop .ready with owner := .service, override := 215, commanded := 215 }).setSlot 0
    (some ⟨1, 0, [⟨.house, 0, 1, false, .state⟩], none⟩)).setWindow (.slot 0)

/-- Each manifold's start is its own reported change; B, whose SERVICE loop stands at its override, passes to ROUNDS at once. -/
theorem test_campaign_start_of_both :
    watchedCampaigns.Polled 0 ⟨1, 0, [⟨.house, 0, 1, false, .state⟩], none⟩ ∧ calm watchedCampaigns = true ∧
      answeredWith (after (.campaignStart [3]) watchedCampaigns) = [1, 2, 3, 0] ∧
      answeredWith (after (.campaignStart [2]) watchedCampaigns) = [1, 1, 3, 0] ∧
      (after (.campaignStart [3]) watchedCampaigns).campaign .a = ⟨.opening, none, 0, .none, none⟩ ∧
      (after (.campaignStart [3]) watchedCampaigns).campaign .b = ⟨.rounds, none, 0, .none, none⟩ := by
  exact ⟨⟨rfl, rfl, rfl, rfl⟩, by decide +kernel⟩

theorem test_campaign_cancel :
    asks 0 (polledBy 0 (inRounds false)) = true ∧
      answered (after (.campaignCancel [1]) (polledBy 1 (inRounds false))) = some 2 ∧
      answered (after (.campaignCancel [4]) (polledBy 0 (inRounds false))) = some 5 ∧
      answered (after (.campaignCancel [2]) (polledBy 0 (inRounds false))) = some 6 ∧
      (after (.campaignCancel [3]) (polledBy 0 (inRounds false))).campaign .a =
        ⟨.idle, none, 3, .abandoned, some .cancelled⟩ ∧
      (after (.campaignCancel [3]) (polledBy 0 (inRounds false))).campaign .b = Campaign.initial := by decide +kernel

/-! ### The Drive Queue -/

/-- A POSITION of loop 3 to 1000 runs. -/
def opening : State := moving (move .position (some 1000) .first) (withLoop 3 { homedLoop .ready with position := none })

theorem test_hold :
    (∀ s ∈ [polledBy 0 State.reset, polledBy 0 opening, polledBy 0 (opening.putDriveState .holding),
        polledBy 0 (stopped State.reset)], asks 0 s = true) ∧
      (after (.hold []) (polledBy 0 State.reset)).drive.state = .held ∧
      answered (after (.hold []) (polledBy 0 opening)) = some 1 ∧
      answered (after (.hold []) (polledBy 0 (opening.putDriveState .holding))) = some 1 ∧
      answered (after (.hold []) (polledBy 0 (stopped State.reset))) = some 0 ∧
      ((after (.hold []) (polledBy 0 (inRounds false))).campaign .a).state = .suspended := by decide +kernel

theorem test_stop :
    asks 0 (polledBy 0 opening) = true ∧ stepOf 437 (move .position (some 1000) .first).aimedAt = 437 ∧
      (∀ step ∈ [(94 : Nat), 300, 437],
        ((after (.stop [] step) (polledBy 0 opening)).loop 3).stepPos = some step) ∧
      (after (.stop [] 300) (polledBy 0 opening)).drive.dwell = some ⟨3, .position, .aborted, some .stop, 2⟩ ∧
      (after (.stop [] 300) (polledBy 0 opening)).drive.state = .held ∧
      (after (.stop [] 0) (polledBy 0 State.reset)).drive.state = .held ∧
      answered (after (.stop [] 0) (polledBy 0 (moving (move .home none .first) (withLoop 3 (homingLoop .homing))))) =
        some 8 := by decide +kernel

/-- A POSITION of loop 3 waits; the driver is free but for the drive state. -/
def waiting (d : DriveState) : State :=
  { withLoop 3 { homedLoop .ready with commanded := 640, want := some .position } with
    drive := ⟨none, [⟨3, .position, some 640⟩], none, d⟩ }

theorem test_resume :
    asks 0 (polledBy 0 (waiting .held)) = true ∧
      (after (.resume []) (polledBy 0 (waiting .held))).drive.moving = some (move .position (some 640) .first) ∧
      (after (.resume []) (polledBy 0 (opening.putDriveState .holding))).drive.state = .running ∧
      asks 0 (polledBy 0 opening) = true ∧ answered (after (.resume []) (polledBy 0 opening)) = some 0 := by decide +kernel

/-- The hypotheses of a statement about a move that can start, as one check. -/
def startable (s : State) : Bool :=
  s.powered && decide (s.reports = []) && s.canStart &&
    allLoops.all fun i => !(s.loop i).restartMark || s.movingLoop i

theorem test_move_start :
    startable (waiting .running) = true ∧
      (after .moveStart (waiting .running)).drive.moving = some (move .position (some 640) .first) ∧
      ((after .moveStart (waiting .running)).loop 3).position = none ∧
      startable { waiting .running with drive := ⟨none, [⟨3, .position, some 217⟩], none, .running⟩ } = true ∧
      (after .moveStart { waiting .running with drive := ⟨none, [⟨3, .position, some 217⟩], none, .running⟩ }).drive.dwell =
        some ⟨3, .position, .done, none, 2⟩ ∧
      (waiting .held).canStart = false ∧ after .moveStart (waiting .held) = waiting .held := by decide +kernel

theorem test_dwell_expiry :
    (after .dwellExpiry ((waiting .held).setDwell (some ⟨0, .park, .done, none, 1⟩))).drive = (waiting .held).drive ∧
      calm ((waiting .running).setDwell (some ⟨0, .park, .done, none, 1⟩)) = true ∧
      (after .dwellExpiry ((waiting .running).setDwell (some ⟨0, .park, .done, none, 1⟩))).drive.moving =
        some (move .position (some 640) .first) := by decide +kernel

theorem test_restart :
    asks 0 (polledBy 0 (opening.setLoop 4 (homedLoop .ready))) = true ∧
      ((after (.restart []) (polledBy 0 (opening.setLoop 4 (homedLoop .ready)))).loop 3).restartMark = true ∧
      ((after (.restart []) (polledBy 0 (opening.setLoop 4 (homedLoop .ready)))).loop 4).life = .homing ∧
      ((after (.restart []) (polledBy 0 (inRounds false))).campaign .a).reason = some .restart := by decide +kernel

/-- The move of loop 3 runs under a restart mark, the loop in a lifecycle state. -/
def rehomed (k : MoveKind) (leg : Leg) (x : Lifecycle) : State :=
  polledBy 0 (moving (move k none leg) (withLoop 3
    { (if k = .home then homingLoop x else { homedLoop x with position := none }) with restartMark := true }))

/-- The restart mark is taken at an end of each kind: the loop is to be homed afresh, unless it has become VACANT. -/
theorem test_restart_mark_is_taken :
    (∀ s ∈ [rehomed .park .first .ready, rehomed .exercise .second .ready, rehomed .home .second .homing], asks 0 s = true) ∧
      (∀ s ∈ [after .legReached (rehomed .park .first .ready), after .legReached (rehomed .exercise .second .ready),
          after (.stall 0) (rehomed .park .first .ready), after (.stop [] 50) (rehomed .park .first .ready),
          after (.endStopReached .openEnd 200) (rehomed .home .second .homing),
          after (.endStopReached .openEnd 199) (rehomed .home .second .homing),
          after .homingTravelLimit (rehomed .home .first .homing), after (.stall 0) (rehomed .home .first .homing)],
        (s.loop 3).restartMark = false ∧ (s.loop 3).want = some .home ∧ (s.loop 3).life = .homing ∧
          (s.loop 3).homed = false ∧ s.drive.queue = [⟨3, .home, none⟩]) ∧
      ((after (.stall 0) (rehomed .park .first .retiring)).loop 3).life = .retiring ∧
      ((after (.stall 0) (rehomed .park .first .retiring)).loop 3).want = some .home ∧
      ∀ s ∈ [after .legReached (rehomed .park .first .retiring), after .homingTravelLimit (rehomed .home .first .retiring)],
        (s.loop 3).life = .vacant ∧ (s.loop 3).restartMark = false ∧ (s.loop 3).want = none := by decide +kernel

theorem test_store :
    answered (after (.store []) (polledBy 0 State.reset)) = some 1 ∧
      answered (after (.store []) (polledBy 0 { State.reset with storage := ⟨.blank, .blank, some image, false⟩ })) =
        some 3 ∧
      calm { State.reset with storage := ⟨.blank, .blank, some image, true⟩ } = true ∧
      (after (.storeCompletion true) { State.reset with storage := ⟨.blank, .blank, some image, false⟩ }).storage =
        ⟨.sound image, .valid, none, false⟩ ∧
      (after (.storeCompletion false) { State.reset with storage := ⟨.blank, .blank, some image, true⟩ }).storage.status =
        .bad ∧
      (after (.storeCompletion false)
        { State.reset with storage := ⟨.blank, .blank, some image, true⟩ }).storage.running.isSome = true ∧
      after (.storeCompletion true) State.reset = State.reset := by decide +kernel

/-! ### Head Ports -/

theorem test_insertion :
    calm (stopped (withLoop 3 { Loop.vacant with life := .enrolled })) = true ∧
      ((after (.insertion 3) (stopped (withLoop 3 { Loop.vacant with life := .enrolled }))).loop 3).life = .homing ∧
      ((after (.insertion 3) State.reset).loop 3).present = true ∧ ((after (.insertion 3) State.reset).loop 3).life = .vacant ∧
      after (.insertion 3) (withLoop 3 (homedLoop .ready)) = withLoop 3 (homedLoop .ready) := by decide +kernel

theorem test_removal :
    (∀ l ∈ [homedLoop .ready, homedLoop .retiring, homingLoop .homing], calm (stopped (withLoop 3 l)) = true ∧
        busy (stopped (withLoop 3 l)) = true) ∧
      ((after (.removal 3) (stopped (withLoop 3 (homedLoop .ready)))).loop 3).life = .enrolled ∧
      ((after (.removal 3) (stopped (withLoop 3 (homedLoop .retiring)))).loop 3).life = .vacant ∧
      calm opening = true ∧
      (after (.removal 3) opening).drive.dwell = some ⟨3, .position, .aborted, some .headLost, 2⟩ ∧
      after (.removal 3) State.reset = State.reset := by decide +kernel

/-- Loops 1 to 16 wait, loop 20's want is outstanding, and loop 10 alone is held for a flow floor that loop 0 is next for. -/
def crowded : State :=
  { stopped (State.reset.mapLoops fun i _ =>
      { homedLoop .ready with
        commanded := if i = 10 then 640 else 0
        floorHeld := decide (i = 10)
        want := if 1 ≤ i.val ∧ i.val ≤ 16 then some .position else if i = 20 then some .exercise else none }) with
    floorList := [10, 0]
    house := { House.default with flowFloor := 500 }
    drive := ⟨none, ((allLoops.drop 1).take 16).map fun i => ⟨i, .position, some (if i = 10 then 640 else 0)⟩, none, .held⟩ }

/-- The place that a removal frees is filled when the removal has been taken in full: by the lowest loop that waits then,
which its recompute has given a want (R81). -/
theorem test_removal_frees_a_place :
    calm crowded = true ∧ busy crowded = true ∧ crowded.outstanding 20 = true ∧ crowded.recompute.loops = crowded.loops ∧
      (after (.removal 10) crowded).drive.queue.length = 16 ∧
      (after (.removal 10) crowded).drive.queue.getLast? = some ⟨0, .position, some 640⟩ ∧
      (after (.removal 10) crowded).outstanding 20 = true := by decide +kernel

/-- A move of loop 3 runs, the loop in a lifecycle state. -/
def running (k : MoveKind) (target : Option Nat) (leg : Leg) (x : Lifecycle) : State :=
  moving (move k target leg) (withLoop 3 { homedLoop x with position := none })

theorem test_leg_reached :
    (∀ s ∈ [running .position (some 1000) .first .ready, running .park none .first .retiring,
        running .exercise none .second .ready, running .exercise none .first .ready], calm s = true) ∧
      ((after .legReached (running .position (some 1000) .first .ready)).loop 3).position = some 1000 ∧
      ((after .legReached (running .park none .first .retiring)).loop 3).life = .vacant ∧
      ((after .legReached (running .exercise none .second .ready)).loop 3).position = some 0 ∧
      stepOf 437 ((running .exercise none .first .ready).loop 3).commanded ≠ stepOf 437 1000 ∧
      (after .legReached (running .exercise none .first .ready)).drive.moving =
        some ⟨3, .exercise, none, .second, some 0, true⟩ := by decide +kernel

/-- A HOME of loop 3 runs. -/
def homing (leg : Leg) (x : Lifecycle) : State := moving (move .home none leg) (withLoop 3 (homingLoop x))

theorem test_end_stops :
    (∀ s ∈ [homing .first .homing, homing .second .homing, homing .second .retiring], calm s = true) ∧
      (after (.endStopReached .closedEnd 1300) (homing .first .homing)).drive.moving =
        some ⟨3, .home, none, .second, none, true⟩ ∧
      (∀ n ∈ [(200 : Nat), 437, 1200],
        ((after (.endStopReached .openEnd n) (homing .second .homing)).loop 3).life = .ready ∧
          ((after (.endStopReached .openEnd n) (homing .second .homing)).loop 3).capacity = some n ∧
          ((after (.endStopReached .openEnd n) (homing .second .retiring)).loop 3).want = some .park) ∧
      ((after (.endStopReached .openEnd 0) (running .position (some 1000) .first .ready)).loop 3).stepPos = some 437 ∧
      stepOf 437 (move .position (some 0) .first).aimedAt < 94 ∧
      ((after (.endStopReached .closedEnd 0) (running .position (some 0) .first .ready)).loop 3).stepPos = some 0 := by
  decide +kernel

/-- End-stops in a PARK and in both legs of an EXERCISE. -/
theorem test_end_stops_of_park_and_exercise :
    (after (.endStopReached .closedEnd 94) (running .park none .first .ready)).drive.dwell =
        some ⟨3, .park, .done, none, 2⟩ ∧
      ((after (.endStopReached .closedEnd 94) (running .park none .first .ready)).loop 3).stepPos = some 0 ∧
      ((after (.endStopReached .closedEnd 94) (running .park none .first .retiring)).loop 3).life = .vacant ∧
      ((after (.endStopReached .closedEnd 94) (running .exercise none .second .ready)).loop 3).position = some 0 ∧
      (after (.endStopReached .openEnd 343) (running .exercise none .first .ready)).drive.moving =
        some ⟨3, .exercise, none, .second, some 0, true⟩ ∧
      ((after (.endStopReached .openEnd 343) (running .exercise none .first .ready)).loop 3).stepPos = some 437 := by
  decide +kernel

/-- What the statements about a running move ask of one. -/
theorem test_moves_under_way :
    opening.drive.moving = some (move .position (some 1000) .first) ∧ (opening.loop 3).capacity = some 437 ∧
      (opening.loop 3).stepPos = some 94 ∧ (opening.loop 3).restartMark = false ∧
      (running .park none .first .retiring).drive.moving = some (move .park none .first) ∧
      ((running .park none .first .retiring).loop 3).life = .retiring ∧
      (homing .second .homing).drive.moving = some (move .home none .second) ∧
      ((homing .second .homing).loop 3).life = .homing ∧ ((homing .second .retiring).loop 3).life = .retiring ∧
      (running .exercise none .first .ready).drive.moving = some (move .exercise none .first) ∧
      ((running .exercise none .first .ready).loop 3).capacity = some 437 := by decide +kernel

theorem test_failed_homing :
    (∀ c ∈ [(Instr.homingTravelLimit, EndReason.travel), (.stall 1300, .stall), (.endStopReached .openEnd 199, .travel)],
      (after c.1 (homing .second .homing)).drive.dwell = some ⟨3, .home, .failed, some c.2, 10⟩ ∧
        ((after c.1 (homing .second .homing)).loop 3).life = .enrolled ∧
        ((after c.1 (homing .second .retiring)).loop 3).life = .vacant) := by decide +kernel

/-- A POSITION to 1000 of loop 3, after `n` stalls. -/
def stalledBefore (n : Nat) : State :=
  moving (move .position (some 1000) .first) (withLoop 3 { homedLoop .ready with position := none, stallCount := n })

theorem test_stalls :
    (∀ n ∈ [(0 : Nat), 1, 2], calm (stalledBefore n) = true) ∧
      ((after (.stall 94) (stalledBefore 1)).loop 3).stallCount = 2 ∧
      ((after (.stall 437) (stalledBefore 1)).loop 3).position = some 1000 ∧
      ((after (.stall 300) (stalledBefore 2)).loop 3).life = .homing ∧
      ((after (.stall 300) (stalledBefore 2)).loop 3).faults.headStall = true := by decide +kernel

/-! ### Clocks and sensors -/

theorem test_samples :
    filter (some (-30)) (-31) = -31 + 1 ∧ validSample (some (-100)) = some (-100) ∧ validSample (some 950) = some 950 ∧
      validSample (some 951) = none ∧ validSample (some (-101)) = none ∧
      (⟨.unknown, none, 2, 0⟩ : Channel).sample none = ⟨.fault, none, 0, 0⟩ ∧
      (⟨.fault, some 300, 0, 2⟩ : Channel).sample (some 300) = ⟨.ok, some 300, 0, 0⟩ := by decide +kernel

/-- Every channel reads 300, and the next sample makes loop channel 3 fail. -/
def warm : State :=
  { withLoop 3 (homedLoop .ready) with
    channels := (Vector.replicate 28 ⟨.ok, some 300, 0, 0⟩).set 3 ⟨.ok, some 300, 2, 0⟩
    supplyRefs := ⟨some 280, some 300⟩ }

theorem test_scan :
    calm warm = true ∧
      ((after (.scanCompletion ((Vector.replicate 28 (some 300)).set 3 none)) warm).channel 3).state = .fault ∧
      ((after (.scanCompletion ((Vector.replicate 28 (some 300)).set 3 none)) warm).loop 3).balance = .excluded ∧
      (after (.scanCompletion (Vector.replicate 28 (some 300))) warm).supplyRefs = ⟨some 300, some 300⟩ ∧
      ((after (.scanCompletion (Vector.replicate 28 (some 300))) warm).loop 4).deltaT = some 0 := by decide +kernel

theorem test_minute_tick :
    ((after .minuteTick (roomAs held2)).room 4).leaseRemaining = 6 ∧
      ((after .minuteTick (inRounds false)).timer .a).remaining = some 6 ∧
      (after .minuteTick { State.reset with house := { House.default with timeSet := true, houseTime := 10079 } }).house =
        { House.default with timeSet := true, midnightDue := true } ∧
      ((after .minuteTick (withLoop 3 { homedLoop .ready with position := some 640, openCounter := 255 })).loop
        3).openCounter = 255 ∧
      ((after .minuteTick (withLoop 3 { homedLoop .ready with position := some 640 })).loop 3).openCounter = 1 := by
  decide +kernel

theorem test_lease_expiry :
    calm (roomAs { held2 with leaseRemaining := 0 }) = true ∧
      ((after (.leaseExpiry 4) (roomAs { held2 with leaseRemaining := 0 })).room 4).state = .lapsed ∧
      after (.leaseExpiry 4) (roomAs held2) = roomAs held2 ∧ after (.leaseExpiry 5) (roomAs held2) = roomAs held2 := by
  decide +kernel

/-- A READY loop commanded 0 whose head has stood for `n` days, at its exercise minute, the drive HELD. -/
def idleFor (n : Nat) (midnight : Bool) : State :=
  { stopped (withLoop 3 { homedLoop .ready with position := some 0, stepPos := some 0, idleDays := n }) with
    house := { House.default with exerciseDue := true, midnightDue := midnight } }

theorem test_midnight_and_exercise_minute :
    calm (idleFor 7 true) = true ∧ calm (idleFor 7 false) = true ∧ busy (idleFor 7 false) = true ∧
      ((after .midnight (idleFor 255 true)).loop 3).idleDays = 255 ∧ ((after .midnight (idleFor 6 true)).loop 3).idleDays = 7 ∧
      after .midnight (idleFor 7 false) = idleFor 7 false ∧ after .exerciseMinute (idleFor 7 true) = idleFor 7 true ∧
      ((after .exerciseMinute (idleFor 7 false)).loop 3).want = some .exercise ∧
      ((after .exerciseMinute (idleFor 6 false)).loop 3).want = none := by decide +kernel

/-- The manual's round: loop 0 at 363 with ΔT 62 is raised to 383; the limits and the third judgement in band. -/
theorem test_evaluation :
    judge 363 0 62 50 5 = ⟨0, .trimming, some 383⟩ ∧ judge 163 0 41 50 5 = ⟨0, .trimming, some 153⟩ ∧
      judge 1000 0 56 50 5 = ⟨0, .limitedHigh, none⟩ ∧ judge 80 0 44 50 5 = ⟨0, .limitedLow, none⟩ ∧
      judge 400 1 55 50 5 = ⟨2, .trimming, none⟩ ∧ judge 400 2 45 50 5 = ⟨3, .balanced, none⟩ := by decide +kernel

/-- Manifold A's round has run out; loop 3 has stood open 20 minutes with a ΔT, and a campaign record is given. -/
def roundOver (dt : Int) (c : Campaign) : State :=
  { State.reset with
    loops := State.reset.loops.set 3 { homedLoop .ready with position := some 640, openCounter := 20, deltaT := some dt, inBand := 2 }
    channels := (State.reset.channels.set 24 ⟨.ok, some 350, 0, 0⟩).set 3 ⟨.ok, some 300, 0, 0⟩
    timers := ⟨⟨some 0, 20, 50, 5⟩, ⟨none, 20, 50, 5⟩⟩
    campaigns := ⟨c, Campaign.initial⟩
    drive := ⟨none, [], some ⟨0, .park, .done, none, 1⟩, .running⟩ }

theorem test_round_expiry :
    calm (roundOver 62 Campaign.initial) = true ∧
      ((after (.roundExpiry .a) (roundOver 62 Campaign.initial)).loop 3).ceiling = 660 ∧
      ((after (.roundExpiry .a) (roundOver 62 Campaign.initial)).timer .a).remaining = some 20 ∧
      ((after (.roundExpiry .a) (roundOver 50 Campaign.initial)).loop 3).balance = .balanced ∧
      after (.roundExpiry .b) (roundOver 62 Campaign.initial) = roundOver 62 Campaign.initial := by decide +kernel

theorem test_campaign_rounds_are_over :
    (∀ n ∈ [(3 : Nat), 22, 23], calm (roundOver 62 ⟨.rounds, none, n, .none, none⟩) = true) ∧
      ((roundOver 62 ⟨.rounds, none, 3, .none, none⟩).timer .a).remaining = some 0 ∧
      ((roundOver 62 ⟨.rounds, none, 3, .none, none⟩).loop 3).owner = .auto ∧
      ((roundOver 62 ⟨.rounds, none, 3, .none, none⟩).channel (loopChannel 3)).state = .ok := by decide +kernel

theorem test_round_expiry_of_a_campaign :
    (after (.roundExpiry .a) (roundOver 50 ⟨.rounds, none, 3, .none, none⟩)).campaign .a = ⟨.idle, none, 4, .complete, none⟩ ∧
      (after (.roundExpiry .a) (roundOver 62 ⟨.rounds, none, 23, .none, none⟩)).campaign .a = ⟨.idle, none, 24, .partly, none⟩ ∧
      (after (.roundExpiry .a) (roundOver 62 ⟨.rounds, none, 22, .none, none⟩)).campaign .a = ⟨.rounds, none, 23, .none, none⟩ ∧
      (after (.roundExpiry .a) { roundOver 62 ⟨.rounds, none, 22, .none, none⟩ with loops := State.reset.loops }).campaign .a =
        ⟨.idle, none, 23, .abandoned, some .noLoops⟩ := by decide +kernel

/-! ### What a move's end leaves wanted and tells -/

/-- A move of loop 3 runs, a READY loop with a commanded stroke, or a RETIRING one. -/
def bound (k : MoveKind) (target : Option Nat) (leg : Leg) (x : Lifecycle) (commanded : Nat) : State :=
  moving (move k target leg) (withLoop 3 { homedLoop x with position := none, commanded := commanded })

/-- A READY loop away from its commanded stroke wants POSITION, one at it nothing (R87); a RETIRING loop wants its PARK
again (R19), and HOME at the stall limit (R12). -/
theorem test_wants_after_a_move :
    (∀ s ∈ [after (.stop [] 300) (polledBy 0 (bound .position (some 1000) .first .ready 1000)),
        after (.stall 300) (bound .position (some 1000) .first .ready 1000),
        after .legReached (bound .position (some 1000) .first .ready 640),
        after (.endStopReached .closedEnd 94) (bound .park none .first .ready 640)],
      (s.loop 3).want = some .position ∧ s.drive.queue.length = 1) ∧
      (∀ s ∈ [after (.stop [] 437) (polledBy 0 (bound .position (some 1000) .first .ready 1000)),
          after (.stall 437) (bound .position (some 1000) .first .ready 1000),
          after .legReached (bound .position (some 1000) .first .ready 1000),
          after (.endStopReached .closedEnd 94) (bound .park none .first .ready 0)],
        (s.loop 3).want = none ∧ s.drive.queue = []) ∧
      (∀ s ∈ [after (.stop [] 50) (polledBy 0 (bound .park none .first .retiring 0)),
          after (.stall 50) (bound .park none .first .retiring 0)], (s.loop 3).want = some .park) ∧
      ((after (.stall 50) (moving (move .park none .first) (withLoop 3 { homedLoop .retiring with position := none, stallCount := 2 }))).loop
        3).want = some .home ∧
      ((after (.endStopReached .openEnd 437) (homing .second .homing)).loop 3).want = some .position := by decide +kernel

/-- Slot 0 watches one table from an index on. -/
def watched (t : WatchTable) (base : Nat) (s : State) : State :=
  s.setSlot 0 (some ⟨1, 0, [⟨t, base, 1, false, .any⟩], none⟩)

/-- The marker pending for slot 0. -/
def markerOf (s : State) : Option Marker := (s.slot 0).bind Slot.marker

/-- Drive idle is no from a move's start to its dwell's end, so an entry that the end appends tells the house nothing
(R82, R95); the end of a HOLDING drive tells HELD; a place that a recompute fills tells its loop nothing (R182). -/
theorem test_markers_of_a_move_end :
    markerOf (after .legReached (watched .house 0 (bound .position (some 1000) .first .ready 640))) = none ∧
      markerOf (after (.endStopReached .openEnd 437) (watched .house 0 (homing .second .homing))) = none ∧
      markerOf (after (.stall 50) (watched .house 0 (bound .park none .first .retiring 0))) = none ∧
      markerOf (after .legReached (watched .house 0 ((bound .position (some 1000) .first .ready 1000).putDriveState .holding))) =
        some ⟨.house, 0, false⟩ ∧
      markerOf (after .dwellExpiry (watched .house 0 (after .legReached (bound .position (some 1000) .first .ready 1000)))) =
        some ⟨.house, 0, false⟩ ∧
      markerOf (after .legReached (watched .loop 3 (bound .position (some 1000) .first .ready 1000))) =
        some ⟨.loop, 3, false⟩ ∧
      markerOf (after (.removal 10) (watched .loop 20 crowded)) = none ∧
      (after (.removal 10) (crowded.setLoop 0 ((crowded.loop 0).setLife .enrolled))).queued 20 = true ∧
      markerOf (after (.removal 10) (watched .loop 20 (crowded.setLoop 0 ((crowded.loop 0).setLife .enrolled)))) = none := by
  decide +kernel

/-- Loop 3 at its ceiling, in the dwell of a move of it. -/
def afterMove (k : MoveKind) : State :=
  (withLoop 3 { homedLoop .ready with position := some 640, commanded := 640 }).setDwell (some ⟨3, k, .done, none, 2⟩)

/-- The counter of an exercised loop stays 0 until the dwell is over too (R167). -/
theorem test_counter_in_a_dwell :
    ((after .minuteTick (afterMove .exercise)).loop 3).openCounter = 0 ∧
      ((after .minuteTick (afterMove .position)).loop 3).openCounter = 1 := by decide +kernel

/-! ### Rounds -/

/-- The round timers run, 7 minutes from their ends, with settings that the House Record no longer has; every loop has an
open counter of 9. -/
def measuring (s : State) : State :=
  { s.mapLoops fun _ l => { l with openCounter := 9 } with
    house := { s.house with settleBase := 30, designA := 60, designB := 60 }
    channels := (s.channels.set 24 ⟨.ok, some 350, 0, 0⟩).set 25 ⟨.ok, some 360, 0, 0⟩
    timers := ⟨⟨some 7, 20, 50, 5⟩, ⟨some 7, 20, 50, 5⟩⟩ }

/-- Loop 3's manifold has started a round at a coupling event; the other's round runs on. -/
def coupled (s : State) : Bool :=
  decide (s.timers = ⟨⟨some 30, 30, 60, 5⟩, ⟨some 7, 20, 50, 5⟩⟩ ∧ s.supplyRefs.get .a = some 350 ∧
    (s.loop 2).openCounter = 0 ∧ (s.loop 14).openCounter = 9)

theorem test_coupling_events_start_a_round :
    (∀ s ∈ [after (.enrol [3, 255, 255, 255]) (measuring (atLoop Loop.vacant)),
        after (.amendLoop [3, 1, 4, 3, 232]) (measuring (atLoop (homedLoop .ready))),
        after (.retire [3]) (measuring (atLoop (homedLoop .ready))),
        after (.preset [1]) (measuring (atLoop (homedLoop .ready))),
        after (.removal 3) (measuring (withLoop 3 (homedLoop .ready))),
        after (.endStopReached .openEnd 437) (measuring (homing .second .homing)),
        after (.stall 300) (measuring (stalledBefore 2))], coupled s = true) ∧
      (after (.amendLoop [3, 1, 6, 3, 232]) (measuring (atLoop (homedLoop .ready)))).timers =
        (measuring State.reset).timers ∧
      (after (.scanCompletion ((Vector.replicate 28 none).set 24 (some 350)))
        { measuring State.reset with supplyRefs := ⟨some 330, some 355⟩ }).timers =
          ⟨⟨some 30, 30, 60, 5⟩, ⟨some 7, 20, 50, 5⟩⟩ ∧
      (after (.removal 3) (measuring (opening.putDriveState .holding))).timers =
        ⟨⟨none, 30, 60, 5⟩, ⟨none, 20, 50, 5⟩⟩ := by decide +kernel

/-- A want, an entry that a recompute retargets and the start of a move return the loop's counter to 0 (R133). -/
theorem test_counters_return_to_zero :
    ((((measuring (atLoop (homedLoop .ready))).want 3 .exercise).loop 3).openCounter = 0 ∧
      ((measuring demanding).loop 3).openCounter = 9 ∧
      ((after (.demand [5, 100]) (measuring demanding)).loop 3).openCounter = 0 ∧
      ((after (.demand [5, 100]) (measuring demanding)).loop 4).openCounter = 9 ∧
      ((after .moveStart (measuring (waiting .running))).loop 3).openCounter = 0) := by decide +kernel

/-- A supply channel at its third invalid sample freezes the timer and suspends the campaign; its recovery releases and
resumes them (R107, R130, R156, R157). -/
theorem test_supply_state_changes :
    (∀ s ∈ [after (.scanCompletion (Vector.replicate 28 none))
        { inRounds false with channels := (inRounds false).channels.set 24 ⟨.ok, some 350, 2, 0⟩ }],
      s.timers = ⟨⟨none, 20, 50, 5⟩, ⟨some 7, 20, 50, 5⟩⟩ ∧ s.supplyRefs.get .a = none ∧
        s.campaign .a = ⟨.suspended, some .rounds, 3, .none, none⟩) ∧
      ∀ s ∈ [after (.scanCompletion (Vector.replicate 28 (some 350)))
          { paused with
            house := House.default
            channels := (inRounds false).channels.set 24 ⟨.fault, some 350, 0, 2⟩ }],
        (s.timer .a).remaining = some 20 ∧ s.supplyRefs.get .a = some 350 ∧
          s.campaign .a = ⟨.rounds, none, 3, .none, none⟩ := by decide +kernel

/-- Consequences of AMEND of HOUSE: the pause flag, the trimming enable, the season and the flow floor (R48, R49, R130). -/
theorem test_amend_house_consequences :
    (∀ s ∈ [after (.amendHouse [0, 1, 8, 0, 1]) (polledBy 0 (inRounds false))],
      s.timers = ⟨⟨none, 20, 50, 5⟩, ⟨none, 20, 50, 5⟩⟩ ∧
        s.campaign .a = ⟨.suspended, some .rounds, 3, .none, none⟩) ∧
      (∀ s ∈ [after (.amendHouse [0, 1, 8, 0, 0])
          (polledBy 0 { paused with house := { House.default with pauseFlag := true } })],
        (s.timer .a).remaining = some 20 ∧ s.campaign .a = ⟨.rounds, none, 3, .none, none⟩) ∧
      (∀ s ∈ [after (.amendHouse [0, 1, 6, 0, 0]) (polledBy 0 (inRounds false))],
        (s.timer .a).remaining = some 7 ∧ (s.timer .b).remaining = none) ∧
      ((after (.amendHouse [0, 1, 6, 0, 1]) (polledBy 0
        { inRounds false with
          house := { House.default with trimEnable := false }
          timers := ⟨⟨some 7, 20, 50, 5⟩, ⟨none, 20, 50, 5⟩⟩ })).timer .b).remaining = some 20 ∧
      (∀ s ∈ [after (.amendHouse [0, 1, 1, 0, 1]) (polledBy 0 (inRounds false))],
        s.timers = ⟨⟨none, 20, 50, 5⟩, ⟨none, 20, 50, 5⟩⟩ ∧
          s.campaign .a = ⟨.idle, none, 3, .abandoned, some .season⟩) ∧
      ((after (.amendHouse [0, 1, 1, 0, 1]) (demanding.setWindow (.slot 0) |> polledBy 0)).loop 3).commanded = 0 ∧
      ((floorExample 2000).recompute.loop 14).commanded ≠ 0 ∧ busy (floorExample 0) = true ∧
      ((after (.amendHouse [0, 1, 7, 7, 208]) (polledBy 0 (floorExample 0))).loop 14).commanded = 820 := by
  decide +kernel

/-- The drive HELD in the rounds of manifold A's campaign, or in its OPENING. -/
def heldIn (r : ResumeState) : State :=
  { stopped (inRounds false) with
    timers := ⟨⟨none, 20, 50, 5⟩, ⟨none, 20, 50, 5⟩⟩
    campaigns := ⟨⟨.suspended, some r, 3, .none, none⟩, Campaign.initial⟩ }

/-- RESUME releases the timers and resumes the campaign, in OPENING where work of its manifold is left (R130, R157). -/
theorem test_resume_resumes_rounds :
    (∀ r ∈ [ResumeState.rounds, .opening],
      (after (.resume []) (polledBy 0 (heldIn r))).campaign .a = ⟨.rounds, none, 3, .none, none⟩ ∧
        ((after (.resume []) (polledBy 0 (heldIn r))).timer .a).remaining = some 20 ∧
        ((after (.resume []) (polledBy 0 (heldIn r))).timer .b).remaining = some 20) ∧
      ((after (.resume []) (polledBy 0 { heldIn .opening with
        loops := (waiting .held).loops, drive := (waiting .held).drive })).campaign .a).state = .opening := by
  decide +kernel

/-- What the start, the cancelling and the end of a campaign make of the rounds and the strokes (R145, R149, R161). -/
theorem test_campaigns_and_rounds :
    (∀ s ∈ [after (.campaignStart [2]) (measuring watchedCampaigns)],
      (s.campaign .b).state = .rounds ∧ s.timers = ⟨⟨some 7, 20, 50, 5⟩, ⟨some 30, 30, 60, 5⟩⟩ ∧
        (s.loop 14).openCounter = 0 ∧ (s.loop 4).openCounter = 9) ∧
      (∀ s ∈ [after (.campaignStart [1]) (measuring watchedCampaigns)],
        (s.campaign .a).state = .opening ∧ (s.timer .a).remaining = some 7) ∧
      (∀ s ∈ [after (.campaignStart [1]) (atLoop (homedLoop .ready))], (s.loop 3).commanded = 640) ∧
      ((after (.campaignCancel [1]) (polledBy 0 (inRounds false))).timer .a).remaining = some 7 ∧
      ((after (.campaignCancel [1]) (polledBy 0
        { inRounds false with house := { House.default with trimEnable := false } })).timer .a).remaining = none ∧
      ((after (.campaignCancel [1]) (polledBy 0
        { inRounds false with
          loops := (withLoop 3 { homedLoop .ready with commanded := 640 }).loops
          drive := ⟨none, [], some ⟨0, .park, .done, none, 1⟩, .running⟩ })).loop 3).commanded = 0 ∧
      (∀ q ∈ [(true, 22, CampaignState.rounds, some 20), (false, 22, .rounds, some 20), (true, 23, .idle, some 20),
          (false, 23, .idle, none)],
        ((after (.roundExpiry .a) { roundOver 62 ⟨.rounds, none, q.2.1, .none, none⟩ with
          house := { House.default with trimEnable := q.1 } }).campaign .a).state = q.2.2.1 ∧
        ((after (.roundExpiry .a) { roundOver 62 ⟨.rounds, none, q.2.1, .none, none⟩ with
          house := { House.default with trimEnable := q.1 } }).timer .a).remaining = q.2.2.2) := by decide +kernel

/-! ### Starts, the image and the order of reports -/

/-- An entry of loop 3 waits at the head, one of loop 4 behind it; the driver is free. -/
def starting (k : MoveKind) (target : Option Nat) (l : Loop) : State :=
  { withLoop 3 { l with want := some k } with drive := ⟨none, [⟨3, k, target⟩, ⟨4, .park, none⟩], none, .running⟩ }

/-- A state after each of the commands that start the entry at the head: RESUME, DWELL_EXPIRY and MOVE_START. -/
def starts (s : State) : List State :=
  [after (.resume []) (polledBy 0 (stopped s)), after .dwellExpiry (s.setDwell (some ⟨0, .park, .done, none, 1⟩)),
    after .moveStart s]

/-- What the start of a driven leg leaves: the move, loop 4's entry, and a want. -/
def driven (m : Move) (want : Option MoveKind) (s : State) : Bool :=
  decide (s.drive = ⟨some m, [⟨4, .park, none⟩], none, .running⟩ ∧ (s.loop 3).position = none ∧ (s.loop 3).want = want)

/-- What a move that starts and is DONE at once leaves: its dwell, loop 4's entry, and a position. -/
def atOnce (k : MoveKind) (position : Nat) (s : State) : Bool :=
  decide (s.drive.moving = none ∧ s.drive.dwell = some ⟨3, k, .done, none, 2⟩ ∧ s.drive.queue.head? = some ⟨4, .park, none⟩ ∧
    (s.loop 3).position = some position)

/-- The entry at the head starts: a HOME, legs with steps to drive, and an EXERCISE that stands open already. -/
theorem test_head_entry_starts :
    asks 0 (polledBy 0 (stopped (starting .park none (homedLoop .ready)))) = true ∧
      calm ((starting .park none (homedLoop .ready)).setDwell (some ⟨0, .park, .done, none, 1⟩)) = true ∧
      startable (starting .park none (homedLoop .ready)) = true ∧
      (∀ s ∈ starts (starting .home none (homingLoop .homing)), driven (move .home none .first) (some .home) s = true) ∧
      (∀ s ∈ starts (starting .position (some 640) (homedLoop .ready)),
        driven (move .position (some 640) .first) none s = true) ∧
      (∀ s ∈ starts (starting .park none (homedLoop .retiring)), driven (move .park none .first) none s = true) ∧
      (∀ s ∈ starts (starting .exercise none (homedLoop .ready)), driven (move .exercise none .first) none s = true) ∧
      ∀ s ∈ starts (starting .exercise none { homedLoop .ready with stepPos := some 437 }),
        driven ⟨3, .exercise, none, .second, some 0, false⟩ none s = true := by decide +kernel

/-- The manual's POSITION from 216 to 217 has no step to drive (R63); nor has a PARK at step 0, which makes a RETIRING loop
VACANT, or an EXERCISE of a head that stands open and is commanded open. -/
theorem test_head_entry_is_done_at_once :
    (∀ s ∈ starts (starting .position (some 217) (homedLoop .ready)),
      atOnce .position 217 s = true ∧ (s.loop 3).want = some .position) ∧
      (∀ s ∈ starts (starting .park none { homedLoop .ready with stepPos := some 0 }),
        atOnce .park 0 s = true ∧ (s.loop 3).want = none) ∧
      (∀ s ∈ starts (starting .park none { homedLoop .retiring with stepPos := some 0 }),
        atOnce .park 0 s = true ∧ (s.loop 3).life = .vacant) ∧
      ∀ s ∈ starts (starting .exercise none { homedLoop .ready with stepPos := some 437, commanded := 1000 }),
        atOnce .exercise 1000 s = true ∧ (s.loop 3).want = none := by decide +kernel

/-- The image of a RETIRING loop is that of a VACANT one, outside the stored Floor List; a READY one is ENROLLED (R53). -/
theorem test_snapshot :
    image.loops[(3 : LoopIx)] = ⟨.enrolled, none, some 55, 1, 640, .unmeasured⟩ ∧
      ({ (withLoop 3 (homedLoop .retiring)).setLoop 4 (homedLoop .ready) with floorList := [3, 4] } : State).snapshot.loops[
        (3 : LoopIx)] = ImageLoop.vacant ∧
      ({ (withLoop 3 (homedLoop .retiring)).setLoop 4 (homedLoop .ready) with floorList := [3, 4] } : State).snapshot.floorList =
        [4] := by decide +kernel

/-- Contents that break a range or a law at its edge, and contents that do not (R56). -/
theorem test_lawful_images :
    (∀ g ∈ [image, { image with designA := 30 }, { image with leaseUnit := 5 }, { image with exerciseMinute := 10079 },
        { image with floorList := [3] }, { image with rooms := image.rooms.set 0 ⟨15, 100⟩ },
        { image with loops := image.loops.set 4 ⟨.enrolled, some 0, some 5, 3, 80, .excluded⟩ }], g.lawful = true) ∧
      ∀ g ∈ [{ image with designA := 29 }, { image with leaseUnit := 2 }, { image with exerciseMinute := 10080 },
          { image with floorList := [4] }, { image with floorList := [3, 3] },
          { image with rooms := image.rooms.set 0 ⟨16, 100⟩ },
          { image with loops := image.loops.set 4 ⟨.enrolled, some 0, some 4, 3, 80, .excluded⟩ },
          { image with loops := image.loops.set 4 ⟨.ready, some 0, some 5, 3, 80, .excluded⟩ },
          { image with loops := image.loops.set 4 ⟨.vacant, some 0, none, 1, 1000, .unmeasured⟩ },
          { image with loops := image.loops.map fun _ => ⟨.enrolled, some 0, some 5, 3, 80, .excluded⟩ }],
        g.lawful = false := by decide +kernel

/-- At power-up with every loop stored ENROLLED, loop 0 is homed, loops 1 to 16 wait and the others' wants are
outstanding; the round timers are FROZEN (R97, R147). -/
theorem test_power_up_queue :
    ∀ s ∈ [after (.powerUp (Vector.replicate 24 true) false)
        { State.reset with storage := ⟨.sound { image with
          settleBase := 33, designB := 61, loops := Vector.replicate 24 ⟨.enrolled, none, none, 1, 500, .balanced⟩ },
          .valid, none, false⟩ }],
      s.drive.moving = some ⟨0, .home, none, .first, none, false⟩ ∧
        s.drive.queue = ((allLoops.drop 1).take 16).map (fun i => ⟨i, .home, none⟩) ∧ s.outstanding 17 = true ∧
        s.timers = ⟨⟨none, 33, 50, 5⟩, ⟨none, 33, 61, 5⟩⟩ := by decide +kernel

/-- A STOP taken in RUNNING freezes the timers and suspends a campaign, with a move running or none (R130, R156). -/
theorem test_stop_stops_the_measurement :
    ∀ q ∈ [(CampaignState.rounds, ResumeState.rounds), (.opening, .opening)],
      ∀ s ∈ [inRounds false, { inRounds false with loops := opening.loops, drive := opening.drive }],
        ∀ t ∈ [after (.stop [] 300) (polledBy 0 (measuring (s.setCampaign .a ⟨q.1, none, 3, .none, none⟩)))],
          t.drive.state = .held ∧ t.timers = ⟨⟨none, 20, 50, 5⟩, ⟨none, 20, 50, 5⟩⟩ ∧ (t.loop 4).openCounter = 0 ∧
            t.campaign .a = ⟨.suspended, some q.2, 3, .none, none⟩ := by decide +kernel

/-- Loops 3 to 20 are due at their exercise minute and the driver is free: loop 3's EXERCISE starts, the next 16 wait. -/
theorem test_exercise_with_a_free_driver :
    ∀ s ∈ [{ (idleFor 7 false).mapLoops (fun i l =>
        if 3 ≤ i.val ∧ i.val ≤ 20 then (idleFor 7 false).loop 3 else l) with drive := ⟨none, [], none, .running⟩ }],
      calm s = true ∧
        (after .exerciseMinute s).drive.moving = some ⟨3, .exercise, none, .first, none, false⟩ ∧
        (after .exerciseMinute s).drive.queue = ((allLoops.drop 4).take 16).map (fun i => ⟨i, .exercise, none⟩) ∧
        ((after .exerciseMinute s).loop 3).want = none ∧ (after .exerciseMinute s).outstanding 20 = true ∧
        ((after .exerciseMinute s).loop 21).want = none := by decide +kernel

/-- A claim that is taken is a coupling event and a recompute; with none the open counters run on (R27, R134, R140). -/
theorem test_claims_are_one_coupling_event :
    (∀ s ∈ [after (.roundExpiry .a) ((roundOver 62 Campaign.initial).setLoop 4 { homedLoop .ready with openCounter := 9 })],
      (s.loop 3).openCounter = 0 ∧ (s.loop 4).openCounter = 0 ∧ (s.loop 3).ceiling = 660) ∧
      (∀ s ∈ [after (.roundExpiry .a) ((roundOver 50 Campaign.initial).setLoop 4 { homedLoop .ready with openCounter := 9 })],
        (s.loop 3).openCounter = 20 ∧ (s.loop 4).openCounter = 9) ∧
      (roundOver 62 Campaign.initial).claimTaken .a = true ∧ (roundOver 50 Campaign.initial).claimTaken .a = false := by
  decide +kernel

/-- Manifold A's campaign is in OPENING, its supply OK; slot 0 watches loop 3 and the House Record. -/
def watchedOpening (s : State) : State :=
  ({ s with
    channels := (inRounds false).channels
    timers := (inRounds false).timers
    campaigns := ⟨⟨.opening, none, 0, .none, none⟩, Campaign.initial⟩ }).setSlot 0
      (some ⟨1, 0, [⟨.loop, 3, 1, false, .any⟩, ⟨.house, 0, 1, false, .any⟩], none⟩)

/-- Where the loss of a loop's work ends OPENING, the watches hear of the campaign before they hear of the work (R82): at
a HOME that failed, at one of a HOMING loop that succeeded, at the last leg of a move with a pending target, and at a removal. -/
theorem test_campaign_hears_before_the_watches :
    (∀ s ∈ [after .homingTravelLimit (watchedOpening (homing .first .homing)),
        after .homingTravelLimit (watchedOpening (homing .first .retiring)),
        after (.endStopReached .openEnd 437) (watchedOpening (homing .second .homing)),
        after .legReached (watchedOpening ((bound .position (some 640) .first .ready 640).modLoop 3 fun l =>
          l.setPending (some 640))),
        after (.removal 3) (watchedOpening ((waiting .running).setDwell (some ⟨0, .park, .done, none, 1⟩)))],
      markerOf s = some ⟨.house, 0, true⟩ ∧ (s.campaign .a).state = .rounds) := by decide +kernel

/-- A HOMING loop holds OPENING until its HOME ends, though its entry into READY raises a POSITION; a RETIRING loop holds it
beyond, for its PARK (R152, log 17). -/
theorem test_opening_at_the_end_of_a_home :
    (∀ x ∈ [Lifecycle.homing, .retiring], calm (watchedOpening (homing .second x)) = true ∧
        (watchedOpening (homing .second x)).drive.state = .running ∧ (watchedOpening (homing .second x)).drive.queue = [] ∧
        ∀ j, j ≠ 3 → ((watchedOpening (homing .second x)).loop j).want = none) ∧
      (∀ s ∈ [after (.endStopReached .openEnd 437) (watchedOpening (homing .second .homing))],
        s.campaign .a = ⟨.rounds, none, 0, .none, none⟩ ∧ (s.loop 3).want = some .position) ∧
      (∀ s ∈ [after (.endStopReached .openEnd 437) (watchedOpening (homing .second .retiring))],
        s.campaign .a = ⟨.opening, none, 0, .none, none⟩ ∧ (s.loop 3).want = some .park) := by decide +kernel

/-- A CANCEL of both open campaigns ends both (R160); RESTART clears the stall count of an absent head (R74; log 34). -/
theorem test_cancel_of_both_and_restart_of_an_absent_head :
    (∀ s ∈ [after (.campaignCancel [3]) (polledBy 0 ((inRounds false).setCampaign .b ⟨.opening, none, 1, .none, none⟩))],
      s.campaign .a = ⟨.idle, none, 3, .abandoned, some .cancelled⟩ ∧
        s.campaign .b = ⟨.idle, none, 1, .abandoned, some .cancelled⟩) ∧
      ((after (.restart []) (polledBy 0 (withLoop 3 { Loop.vacant with life := .enrolled, stallCount := 2 }))).loop
        3).stallCount = 0 := by decide +kernel

/-! ### Rules of the blocks, and invariants -/

theorem test_floor_walk :
    (floorExample 2000).floorList.Nodup ∧ (floorExample 2000).strokeSum = 672 ∧
      (floorExample 2000).floorWalk = ([6, 2, 14], false) ∧ (floorExample 1400).floorWalk = ([6, 2], false) ∧
      (floorExample 1300).floorWalk = ([6], false) ∧ (floorExample 3000).floorWalk = ([6, 2, 14], true) ∧
      ((floorExample 2000).recompute.loop 14).commanded = 820 ∧
      (floorExample 1400).floorList = [6] ++ 2 :: [14, 19] ∧ 672 + (700 - 70) = 1302 ∧
      ((floorExample 1303).recompute.loop 2).floorHeld = true ∧ ((floorExample 1302).recompute.loop 2).floorHeld = false := by
  decide +kernel

/-- A changed stroke is a want, or a pending target while the loop's move runs. -/
theorem test_changed_strokes :
    ((demanding.setRoom 4 { held2 with demand := 100 }).recompute.loop 3).want = some .position ∧
      ((moving (move .position (some 0) .first) (demanding.setRoom 4 { held2 with demand := 100 })).recompute.loop
        3).pendingTarget = some 640 ∧
      ((moving (move .position (some 0) .first) (demanding.setRoom 4 { held2 with demand := 100 })).recompute.loop 3).want =
        none := by decide +kernel

theorem test_wants :
    supersede ((waiting .running).loop 3).want .exercise = .position ∧ supersede ((waiting .running).loop 3).want .home = .home ∧
      ((waiting .running).want 3 .home).drive.queue = [⟨3, .home, none⟩] ∧
      ((waiting .running).want 3 .position).reports = [⟨.loop, 3, false⟩] ∧
      ((waiting .running).want 3 .exercise).reports = [] ∧
      (State.reset.want 3 .park).reports = [⟨.loop, 3, false⟩, ⟨.house, 0, false⟩] ∧
      ((waiting .running).want 4 .home).drive.queue = [⟨3, .position, some 640⟩, ⟨4, .home, none⟩] ∧
      (crowded.want 0 .park).drive.queue = crowded.drive.queue ∧
      ((crowded.setQueue []).fill.drive.queue.take 2 = [⟨1, .position, some 0⟩, ⟨2, .position, some 0⟩]) ∧
      (crowded.setQueue []).fill.outstanding 20 = true ∧
      ((crowded.setQueue []).want 22 .park).drive.queue = [] := by decide +kernel

theorem test_markers :
    (⟨1, 0, [⟨.loop, 0, 4, true, .state⟩], none⟩ : Slot).told [⟨.loop, 14, true⟩] =
        ⟨1, 0, [⟨.loop, 0, 4, true, .state⟩], some ⟨.loop, 14, false⟩⟩ ∧
      (⟨1, 0, [⟨.loop, 0, 4, true, .state⟩], none⟩ : Slot).told [⟨.loop, 14, false⟩] =
        ⟨1, 0, [⟨.loop, 0, 4, true, .state⟩], none⟩ ∧
      (⟨1, 0, [⟨.room, 5, 1, false, .any⟩], some ⟨.loop, 1, false⟩⟩ : Slot).told [⟨.room, 5, false⟩] =
        ⟨1, 0, [⟨.room, 5, 1, false, .any⟩], some ⟨.loop, 1, true⟩⟩ := by decide +kernel

/-- A state that meets every invariant is stepped: reset with a claimed room, an enrolled member of the Floor List, an
open campaign and a station. -/
theorem test_invariants_are_met :
    ∃ s t : State, (s.QueueLaw ∧ s.CeilingLaw ∧ s.RoomLaw ∧ s.FloorLaw ∧ s.CampaignLaw) ∧
      (s.ReportLaw ∧ s.drive.Lawful ∧ s.MarkLaw ∧ s.StartLaw) ∧ step s = .next t ∧ (t.room 4).state = .lapsed := by
  refine ⟨{ roomAs { held2 with leaseRemaining := 0 } with
    floorList := [3], loops := State.reset.loops.set 3 (homedLoop .ready),
    campaigns := ⟨⟨.rounds, none, 3, .none, none⟩, Campaign.initial⟩, pending := [.leaseExpiry 4] }, _, ⟨?_, ?_, ?_, ?_, ?_⟩,
    ⟨?_, ?_, ?_, ?_⟩, rfl, ?_⟩
  · unfold State.QueueLaw; decide +kernel
  · unfold State.CeilingLaw; decide +kernel
  · unfold State.RoomLaw Room.Lawful; decide +kernel
  · unfold State.FloorLaw; decide +kernel
  · refine ⟨fun m => ?_, fun h => ?_⟩
    · cases m <;> (unfold Campaign.Lawful; decide +kernel)
    · exact absurd h (by decide +kernel)
  · unfold State.ReportLaw; decide +kernel
  · unfold Drive.Lawful; decide +kernel
  · unfold State.MarkLaw; decide +kernel
  · unfold State.StartLaw; decide +kernel
  · decide +kernel

theorem test_roster_law : (polledBy 2 State.reset).RosterLaw := by
  intro j k x y hj hk _
  have h : ∀ j : SlotIx, j ≠ 2 → (polledBy 2 State.reset).slot j = none := by decide +kernel
  have hj2 : j = 2 := by
    by_contra hn
    rw [h j hn] at hj
    cases hj
  have hk2 : k = 2 := by
    by_contra hn
    rw [h k hn] at hk
    cases hk
  rw [hj2, hk2]

end Sys2Proof.Tests
end

section
/-! PROOF. The requests of a room unit about the room it holds, DEMAND (R34) and RELEASE (R35): what such a request comes
to once its sender, its form and its room are right, and its owner's checks one by one. -/

namespace Sys2Proof.Machine

/-! ### The checks before the owner's -/

/-- A request whose sender may make it and whose payload has the form of its kind is taken by its owner (R179). -/
theorem State.Polled.taken {s : State} {k : SlotIx} {x : Slot} (h : s.Polled k x) {allowed : StationKind → Bool}
    (a : allowed (slotKind k) = true) {α : Type} {form : List Byte → Option α} {p : List Byte} {y : α}
    (f : form p = some y) (take : SlotIx → State → α → Taken) :
    Sys2Proof.Machine.request s allowed (fun k t => checked form p t (take k t)) =
      .next ((take k (s.heard k x) y).finish k) := by
  rw [h.allowed a]
  simp only [checked, f]

/-- The byte that names a room (R30). -/
theorem roomNumber_of_room {n : Nat} {r : RoomIx} (h : n = r.val + 1) : roomNumber n = some r := by
  have bound : 1 ≤ n ∧ n ≤ 16 := by omega
  rw [roomNumber, dif_pos bound]
  exact congrArg some (Fin.ext (by simp [h]))

/-- A room request for a room in 1 to 16 is taken for that room. -/
theorem State.onRoom_of_room (s : State) {n : Nat} {r : RoomIx} (h : n = r.val + 1) (take : RoomIx → Taken) :
    s.onRoom n take = take r := by
  simp only [State.onRoom, roomNumber_of_room h]

/-- A room unit's DEMAND comes to the checks of R34 for the room it names. -/
theorem State.Polled.exec_demand {s : State} {k : SlotIx} {x : Slot} (h : s.Polled k x) (a : slotKind k = .room)
    {b : Byte} {r : RoomIx} (n : b.toNat = r.val + 1) (d : Byte) :
    exec (.demand [b, d]) s = .next (((s.heard k x).postDemand k r d.toNat).finish k) := by
  have e := h.taken (allowed := roomUnit) (form := twoBytes) (p := [b, d]) (decide_eq_true a) rfl
    fun k t p => t.onRoom p.1.toNat fun r => t.postDemand k r p.2.toNat
  rwa [State.onRoom_of_room _ n] at e

/-- A room unit's RELEASE comes to the rows of R35 for the room it names. -/
theorem State.Polled.exec_release {s : State} {k : SlotIx} {x : Slot} (h : s.Polled k x) (a : slotKind k = .room)
    {b : Byte} {r : RoomIx} (n : b.toNat = r.val + 1) :
    exec (.release [b]) s = .next (((s.heard k x).releaseRoom k r).finish k) := by
  have e := h.taken (allowed := notSource) (form := oneByte) (p := [b])
    (decide_eq_true (by rw [a]; exact StationKind.noConfusion)) rfl
    fun k t b => t.onRoom b.toNat fun r => t.releaseRoom k r
  rwa [State.onRoom_of_room _ n] at e

/-- A request that its owner refuses is answered and does no more. -/
theorem onlyAnswers_of_refused {s : State} {k : SlotIx} {x : Slot} {c : Instr} {r : Taken} {st : Status}
    (e : exec c s = .next (r.finish k)) (h : r = (s.heard k x).refuse st) :
    ∃ t, exec c s = .next t ∧ s.OnlyAnswers k x st [] t :=
  ⟨_, e, h ▸ s.refused_onlyAnswers k x st⟩

/-- A request that its owner answers with a change of a room is answered DONE and serves that room. -/
theorem servesRoom_of_changed {s : State} {k : SlotIx} {x : Slot} {c : Instr} {r : RoomIx} {new : Room} {y : Taken}
    (m : s.MarkLaw) (e : exec c s = .next (y.finish k))
    (h : y = ⟨.done, [], ((s.heard k x).changeRoom r new).serve⟩) :
    ∃ t, exec c s = .next t ∧ s.ServesRoom k x r new t :=
  ⟨_, e, h ▸ s.servesRoom_finish m k x r new⟩

/-! ### The owner's checks, row by row -/

section
variable {s : State} {k : SlotIx} {r : RoomIx}

theorem State.postDemand_over {d : Nat} (h : 100 < d) : s.postDemand k r d = s.refuse .range := if_pos h

theorem State.postDemand_of_other {d : Nat} (h : d ≤ 100) (c : (s.room r).state = .claimed)
    (o : (s.room r).claimant ≠ some k) : s.postDemand k r d = s.refuse .denied := by
  rw [State.postDemand, if_neg (by omega), if_pos c, if_neg o]

theorem State.postDemand_unclaimed {d : Nat} (h : d ≤ 100) (c : (s.room r).state ≠ .claimed) :
    s.postDemand k r d = s.refuse .stale := by
  rw [State.postDemand, if_neg (by omega), if_neg c]

theorem State.postDemand_of_claimant {d : Nat} (h : d ≤ 100) (c : (s.room r).state = .claimed)
    (o : (s.room r).claimant = some k) :
    s.postDemand k r d = ⟨.done, [], (s.changeRoom r ((s.room r).posted d (s.leaseMinutes r))).serve⟩ := by
  rw [State.postDemand, if_neg (by omega), if_pos c, if_pos o]

theorem State.releaseRoom_of_other (a : slotKind k = .room) (c : (s.room r).state = .claimed)
    (o : (s.room r).claimant ≠ some k) : s.releaseRoom k r = s.refuse .denied := by
  rw [State.releaseRoom, if_neg (by simp [a]), if_pos c, if_neg o]

theorem State.releaseRoom_unclaimed (a : slotKind k = .room) (c : (s.room r).state ≠ .claimed) :
    s.releaseRoom k r = s.refuse .stale := by
  rw [State.releaseRoom, if_neg (by simp [a]), if_neg c]

theorem State.releaseRoom_of_claimant (a : slotKind k = .room) (c : (s.room r).state = .claimed)
    (o : (s.room r).claimant = some k) :
    s.releaseRoom k r = ⟨.done, [], (s.changeRoom r ((s.room r).unclaimed .free)).serve⟩ := by
  rw [State.releaseRoom, if_neg (by simp [a]), if_pos c, if_pos o]
  rfl

end

/-! ### What a change of a room leaves in the rooms and in the claims -/

/-- The rooms once a room's record has become `new`: what the Demand Unit and the Drive Queue make of it touches none. -/
theorem State.TakesRoom.rooms {s t : State} {r : RoomIx} {new : Room} (h : s.TakesRoom r new t) :
    t.rooms = (s.setRoom r new).rooms := h.follows.drive.rooms

/-- A demand that repeats the one held only restarts the lease. -/
theorem Room.posted_demand (y : Room) (m : Nat) : y.posted y.demand m = y.leased m := rfl

theorem Room.effective_leased (y : Room) (m : Nat) : (y.leased m).effective = y.effective := rfl

theorem Room.effective_free (y : Room) : (y.unclaimed .free).effective = y.fallback := rfl

/-- A request served by a room that repeats the demand held: the Demand Unit does not hear of it, so where no move was
waiting to start the lease is all that changes (R32, R34). -/
theorem State.ServesRoom.repeated {s t : State} {k : SlotIx} {x : Slot} {r : RoomIx} {m : Nat}
    (h : s.ServesRoom k x r ((s.room r).posted (s.room r).demand m) t) (l : s.StartLaw) :
    (s.setRoom r ((s.room r).leased m)).SameRecords t := by
  rw [Room.posted_demand] at h
  exact h.room.silent (not_not.2 (Room.effective_leased _ _).symm) l

theorem State.claims_congr {s t : State} (h : t.rooms = s.rooms) (k : SlotIx) : t.claims k = s.claims k := by
  simp only [State.claims, State.room_congr h]

theorem nodup_allRooms : allRooms.Nodup := List.nodup_finRange 16

/-- A slot that gives up one of its rooms has one claim fewer (R35): of the rooms it holds, that one alone is gone. -/
theorem State.claims_setRoom_unclaimed {s : State} {k : SlotIx} {r : RoomIx} (c : (s.room r).state = .claimed)
    (o : (s.room r).claimant = some k) {new : Room} (u : new.state ≠ .claimed) :
    (s.setRoom r new).claims k + 1 = s.claims k := by
  have gone : (allRooms.filter fun q => ((s.setRoom r new).room q).state = .claimed ∧
        ((s.setRoom r new).room q).claimant = some k) =
      (allRooms.filter fun q => (s.room q).state = .claimed ∧ (s.room q).claimant = some k).erase r := by
    rw [(nodup_allRooms.filter _).erase_eq_filter, List.filter_filter]
    refine List.filter_congr fun q _ => ?_
    rw [State.room_setRoom]
    by_cases e : r = q
    · simp [e, u]
    · simp [e, Ne.symm e]
  have held : r ∈ allRooms.filter fun q => (s.room q).state = .claimed ∧ (s.room q).claimant = some k :=
    List.mem_filter.2 ⟨List.mem_finRange r, decide_eq_true ⟨c, o⟩⟩
  rw [State.claims, gone]
  exact List.length_erase_add_one held

end Sys2Proof.Machine

open Sys2Proof Sys2Proof.Machine

/-- Settles O17, by the checks of R34 in order. -/
theorem demandIsTakenFromTheClaimant : Obligations.DemandIsTakenFromTheClaimant := by
  intro s k x b d r polled marks unit number
  have taken := polled.exec_demand unit number d
  refine ⟨fun high => ?_, fun low claimed other => ?_, fun low unclaimed => ?_, fun low claimed own => ?_⟩
  · exact onlyAnswers_of_refused taken (State.postDemand_over high)
  · exact onlyAnswers_of_refused taken (State.postDemand_of_other low claimed other)
  · exact onlyAnswers_of_refused taken (State.postDemand_unclaimed low unclaimed)
  · obtain ⟨t, next, served⟩ := servesRoom_of_changed (new := (s.room r).posted d.toNat (s.leaseMinutes r)) marks taken
      (State.postDemand_of_claimant low claimed own)
    refine ⟨t, next, served, fun same start => ?_⟩
    rw [← same] at served
    exact served.repeated start

/-- Settles O18, by the rows of R35. -/
theorem releaseByTheClaimant : Obligations.ReleaseByTheClaimant := by
  intro s k x b r polled marks unit number
  have taken := polled.exec_release unit number
  refine ⟨fun claimed own => ?_, fun claimed other => ?_, fun unclaimed => ?_⟩
  · obtain ⟨t, next, served⟩ := servesRoom_of_changed (new := (s.room r).unclaimed .free) marks taken
      (State.releaseRoom_of_claimant unit claimed own)
    have rooms := served.room.rooms
    refine ⟨t, next, served, ?_, ?_⟩
    · rw [State.room_congr rooms, State.room_setRoom_self, Room.effective_free]
    · rw [State.claims_congr rooms]
      exact State.claims_setRoom_unclaimed claimed own RoomState.noConfusion
  · exact onlyAnswers_of_refused taken (State.releaseRoom_of_other unit claimed other)
  · exact onlyAnswers_of_refused taken (State.releaseRoom_unclaimed unit unclaimed)
end

section
/-! PROOF. One sample of a temperature channel: which samples are valid (R100), the filter (R102), and the table of R103
row by row. -/

namespace Sys2Proof.Machine

/-! ### Samples and the filter -/

theorem validSample_of_inRange {n : Int} (low : -100 ≤ n) (high : n ≤ 950) : validSample (some n) = some n :=
  if_pos ⟨low, high⟩

theorem validSample_of_outOfRange {n : Int} (out : n < -100 ∨ 950 < n) : validSample (some n) = none :=
  if_neg fun ⟨low, high⟩ => out.elim low.not_gt high.not_gt

/-- A failed conversion is invalid (R100). -/
@[simp] theorem validSample_none : validSample none = none := rfl

/-- The first sample seeds the filter (R102). -/
@[simp] theorem filter_none (n : Int) : filter none n = n := rfl

/-- The filter's division rounds towards the lower number, also below 0 (R102). -/
theorem filter_some (old n : Int) : filter (some old) n = (3 * old + n + 2).fdiv 4 :=
  (Int.fdiv_eq_ediv_of_nonneg _ (by decide)).symm

/-! ### The table of R103 -/

section
variable {c : Channel} {x : Option Int} {n : Int}

theorem Channel.sample_first_reading (v : validSample x = some n) (st : c.state = .unknown) :
    c.sample x = { c with state := .ok, filtered := some n, invalidRun := 0 } := by
  simp only [Channel.sample, st, v]

theorem Channel.sample_ok_valid (v : validSample x = some n) (st : c.state = .ok) :
    c.sample x = { c with filtered := some (filter c.filtered n), invalidRun := 0 } := by
  simp only [Channel.sample, st, v]

theorem Channel.sample_fault_seeds (v : validSample x = some n) (st : c.state = .fault) (run : c.validRun = 0) :
    c.sample x = { c with filtered := some n, validRun := 1 } := by
  simp only [Channel.sample, st, v, if_pos run]

theorem Channel.sample_fault_filters (v : validSample x = some n) (st : c.state = .fault) (begun : c.validRun ≠ 0)
    (short : c.validRun < 2) :
    c.sample x = { c with filtered := some (filter c.filtered n), validRun := c.validRun + 1 } := by
  have running : ¬Config.sampleRun ≤ c.validRun + 1 := Nat.not_le.2 (Nat.succ_lt_succ short)
  simp only [Channel.sample, st, v, if_neg begun, if_neg running]

theorem Channel.sample_recovers (v : validSample x = some n) (st : c.state = .fault) (long : 2 ≤ c.validRun) :
    c.sample x = { c with state := .ok, filtered := some (filter c.filtered n), validRun := 0 } := by
  have begun : c.validRun ≠ 0 := by omega
  have complete : Config.sampleRun ≤ c.validRun + 1 := Nat.succ_le_succ long
  simp only [Channel.sample, st, v, if_neg begun, if_pos complete]

/-- One or two invalid samples are only counted, in UNKNOWN as in OK: the filtered value stands (R103). -/
theorem Channel.sample_counts_invalid (v : validSample x = none) (st : c.state ≠ .fault) (short : c.invalidRun < 2) :
    c.sample x = { c with invalidRun := c.invalidRun + 1 } := by
  have running : ¬Config.sampleRun ≤ c.invalidRun + 1 := Nat.not_le.2 (Nat.succ_lt_succ short)
  cases known : c.state with
  | unknown => simp only [Channel.sample, known, v, if_neg running]
  | ok => simp only [Channel.sample, known, v, if_neg running]
  | fault => exact absurd known st

theorem Channel.sample_unknown_fails (v : validSample x = none) (st : c.state = .unknown) (long : 2 ≤ c.invalidRun) :
    c.sample x = { c with state := .fault, invalidRun := 0 } := by
  have complete : Config.sampleRun ≤ c.invalidRun + 1 := Nat.succ_le_succ long
  simp only [Channel.sample, st, v, if_pos complete]

theorem Channel.sample_ok_fails (v : validSample x = none) (st : c.state = .ok) (long : 2 ≤ c.invalidRun) :
    c.sample x = { c with state := .fault, filtered := none, invalidRun := 0 } := by
  have complete : Config.sampleRun ≤ c.invalidRun + 1 := Nat.succ_le_succ long
  simp only [Channel.sample, st, v, if_pos complete]

theorem Channel.sample_fault_invalid (v : validSample x = none) (st : c.state = .fault) :
    c.sample x = { c with validRun := 0 } := by
  simp only [Channel.sample, st, v]

end

end Sys2Proof.Machine

open Sys2Proof Sys2Proof.Machine

/-- Settles O41, by the filter of R102 and the table of R103 row by row. -/
theorem samplesDriveTheChannel : Obligations.SamplesDriveTheChannel := by
  refine ⟨fun old n => ⟨filter_some old n, filter_none n⟩, fun _ => validSample_of_inRange,
    fun _ => validSample_of_outOfRange, validSample_none, fun c x => ⟨fun n v => ?valid, fun v => ?invalid⟩⟩
  case valid =>
    refine ⟨Channel.sample_first_reading v, Channel.sample_ok_valid v, Channel.sample_fault_seeds v,
      fun st one => ?_, fun st two => Channel.sample_recovers v st two.ge⟩
    have filtered := Channel.sample_fault_filters v st (by omega) (by omega)
    rwa [one] at filtered
  case invalid =>
    exact ⟨fun st => Channel.sample_counts_invalid v (by simp [st]),
      fun st two => Channel.sample_unknown_fails v st two.ge,
      fun st => Channel.sample_counts_invalid v (by simp [st]),
      fun st two => Channel.sample_ok_fails v st two.ge, Channel.sample_fault_invalid v⟩
end

section
/-! PROOF. CAMPAIGN CANCEL (R160): the recompute that a return to IDLE makes, the abandonment of one campaign and of
several, and the start of a move after it, which leaves the manifold of an IDLE campaign alone. -/

namespace Sys2Proof.Machine

/-! ### The strokes of a recompute -/

/-- What the Demand Unit decides is the same in two states: strokes, floor-held marks and the floor-short indication. -/
structure State.SameStrokes (s t : State) : Prop where
  stroke : ∀ i, (t.loop i).commanded = (s.loop i).commanded
  held : ∀ i, (t.loop i).floorHeld = (s.loop i).floorHeld
  short : t.floorShort = s.floorShort

theorem State.SameStrokes.refl (s : State) : s.SameStrokes s := ⟨fun _ => rfl, fun _ => rfl, rfl⟩

theorem State.SameStrokes.trans {s t u : State} (h : s.SameStrokes t) (g : t.SameStrokes u) : s.SameStrokes u :=
  ⟨fun i => (g.stroke i).trans (h.stroke i), fun i => (g.held i).trans (h.held i), g.short.trans h.short⟩

theorem State.SameStrokes.symm {s t : State} (h : s.SameStrokes t) : t.SameStrokes s :=
  ⟨fun i => (h.stroke i).symm, fun i => (h.held i).symm, h.short.symm⟩

theorem State.SameRecords.strokes {s t : State} (h : s.SameRecords t) : s.SameStrokes t :=
  ⟨fun i => by rw [h.loop i], fun i => by rw [h.loop i], h.floorShort⟩

theorem State.sameStrokes_ite {c : Prop} [Decidable c] {s t u : State} (h : s.SameStrokes t) (g : s.SameStrokes u) :
    s.SameStrokes (if c then t else u) := by split <;> assumption

theorem State.sameStrokes_modLoop (s : State) (i : LoopIx) {f : Loop → Loop}
    (stroke : ∀ l : Loop, (f l).commanded = l.commanded) (held : ∀ l : Loop, (f l).floorHeld = l.floorHeld) :
    s.SameStrokes (s.modLoop i f) := by
  refine ⟨fun j => ?_, fun j => ?_, rfl⟩ <;> rw [State.loop_modLoop] <;> split
  · next e => rw [stroke, e]
  · rfl
  · next e => rw [held, e]
  · rfl

theorem State.sameStrokes_setQueue (s : State) (q : List Entry) : s.SameStrokes (s.setQueue q) :=
  ⟨fun _ => rfl, fun _ => rfl, rfl⟩

theorem State.sameStrokes_markLoopIf (s : State) (c : Bool) (i : LoopIx) (b : Bool) :
    s.SameStrokes (s.markLoopIf c i b) := State.sameStrokes_ite (s.mark_records _ _ _).strokes (.refl s)

theorem State.sameStrokes_place (s : State) (i : LoopIx) : s.SameStrokes (s.place i) := by
  unfold State.place
  split
  · refine State.sameStrokes_ite ?_ (.refl s)
    exact (s.sameStrokes_setQueue _).trans (State.sameStrokes_ite (State.mark_records _ _ _ _).strokes (.refl _))
  · exact .refl s

theorem State.sameStrokes_want (s : State) (i : LoopIx) (k : MoveKind) : s.SameStrokes (s.want i k) := by
  unfold State.want
  refine State.sameStrokes_ite ?_ (.refl s)
  refine .trans ?_ (State.sameStrokes_ite (.refl _) (State.sameStrokes_place _ i))
  refine .trans ?_ (State.mark_records _ _ _ _).strokes
  refine .trans ?_ (State.sameStrokes_ite (.refl _) (State.sameStrokes_modLoop _ i (fun _ => rfl) fun _ => rfl))
  refine .trans ?_ (State.sameStrokes_setQueue _ _)
  exact s.sameStrokes_modLoop i (fun _ => rfl) fun _ => rfl

theorem State.sameStrokes_setPending (s : State) (i : LoopIx) (t : Option Nat) : s.SameStrokes (s.setPending i t) := by
  unfold State.setPending State.tellWork
  refine .trans ?_ (State.sameStrokes_markLoopIf _ _ i _)
  refine .trans ?_ (State.sameStrokes_markLoopIf _ _ i _)
  exact s.sameStrokes_modLoop i (fun _ => rfl) fun _ => rfl

theorem State.sameStrokes_forEach {α : Type} (s : State) (l : List α) {f : State → α → State}
    (h : ∀ t a, State.SameStrokes t (f t a)) : s.SameStrokes (s.forEach l f) :=
  State.forEach_rel State.SameStrokes.refl (fun _ _ _ => State.SameStrokes.trans) h l s

/-- Handing the differences on leaves what was evaluated. -/
theorem State.sameStrokes_recompute (s : State) : s.evaluated.SameStrokes s.recompute := by
  unfold State.recompute
  refine .trans ?_ (State.sameStrokes_forEach _ _ fun t i => t.sameStrokes_markLoopIf _ i _)
  refine .trans ?_ (State.sameStrokes_ite (.refl _) (State.mark_records _ _ _ _).strokes)
  exact State.sameStrokes_forEach _ _ fun t i => State.sameStrokes_ite
    (State.sameStrokes_ite (t.sameStrokes_setPending i _) (t.sameStrokes_want i _)) (.refl t)

theorem Loop.Steady.config {l x : Loop} (h : l.Steady x) : l.SameConfig x := by
  rcases l with ⟨⟩
  rcases x with ⟨⟩
  simp only [Loop.Steady, Loop.mk.injEq] at h
  constructor <;> simp_all

/-! A recompute reads only what it leaves alone (R113, R120, R121). -/

section
variable {s t : State} (h : s.OnlyDemand t)
include h

theorem State.OnlyDemand.life (i : LoopIx) : (t.loop i).life = (s.loop i).life := (h.loops i).kept.life

theorem State.OnlyDemand.campaignOpen (m : Manifold) : t.campaignOpen m = s.campaignOpen m := by
  rw [State.campaignOpen, State.campaign, h.campaigns]
  rfl

theorem State.OnlyDemand.baseStroke (i : LoopIx) : t.baseStroke i = s.baseStroke i := by
  have config := (h.loops i).config
  simp only [State.baseStroke, State.demandOf, h.life, config.room, config.owner, config.override, config.ceiling,
    h.house, h.campaignOpen, State.room_congr h.rooms]

theorem State.OnlyDemand.canHelp (i : LoopIx) : t.canHelp i = s.canHelp i := by
  have config := (h.loops i).config
  simp only [State.canHelp, State.onDemand, h.life, config.owner, config.ceiling, h.house, h.campaignOpen, h.baseStroke]

theorem State.OnlyDemand.walk (l : List LoopIx) (n : Nat) : t.walk l n = s.walk l n := by
  induction l generalizing n with
  | nil => rfl
  | cons i l ih => simp only [State.walk, h.house, h.canHelp, h.baseStroke, (h.loops i).config.ceiling, ih]

theorem State.OnlyDemand.floorWalk : t.floorWalk = s.floorWalk := by
  have sum : t.strokeSum = s.strokeSum := by
    simp only [State.strokeSum, h.life, funext h.baseStroke]
  simp only [State.floorWalk, h.house, h.floorList, h.walk, sum]

theorem State.OnlyDemand.evaluated : s.evaluated.SameStrokes t.evaluated := by
  refine ⟨fun i => ?_, fun i => ?_, ?_⟩
  · simp only [State.evaluated, State.loop_setFloorShort, State.loop_mapLoops, Loop.setStroke, State.newStroke,
      h.floorWalk, h.baseStroke, (h.loops i).config.ceiling]
  · simp only [State.evaluated, State.loop_setFloorShort, State.loop_mapLoops, Loop.setStroke, h.floorWalk]
  · simp only [State.evaluated, State.setFloorShort_floorShort, h.floorWalk]

theorem State.OnlyDemand.recompute : s.recompute.SameStrokes t.recompute :=
  (s.sameStrokes_recompute.symm.trans h.evaluated).trans t.sameStrokes_recompute

end

/-- The strokes after a recompute are those that one more recompute gives. -/
theorem State.commanded_recompute (s : State) : s.recompute.Commanded s.recompute := by
  have again := s.quiet_recompute.onlyDemand.recompute
  exact ⟨fun i => (again.stroke i).symm, fun i => (again.held i).symm, again.short.symm⟩

theorem State.Commanded.of_records {s t : State} (h : s.Commanded s) (g : s.SameRecords t) : t.Commanded t := by
  have kept := g.strokes
  have again := g.onlyDemand.recompute
  exact ⟨fun i => ((kept.stroke i).trans (h.stroke i)).trans (again.stroke i).symm,
    fun i => ((kept.held i).trans (h.held i)).trans (again.held i).symm,
    (kept.short.trans h.short).trans again.short.symm⟩

/-! ### What leaves one manifold's campaign and round alone -/

/-- One manifold's campaign record, its round and what the conditions of its timer read are as they were, and an open
counter of its loops that is 0 stays 0. -/
structure State.Spares (s : State) (m : Manifold) (t : State) : Prop where
  campaign : t.campaign m = s.campaign m
  round : s.SameRound m t
  house : t.house = s.house
  channels : t.channels = s.channels
  driveState : t.drive.state = s.drive.state
  counters : ∀ i, (s.loop i).openCounter = 0 → (t.loop i).openCounter = 0

theorem State.Spares.refl (s : State) (m : Manifold) : s.Spares m s := ⟨rfl, ⟨rfl, rfl⟩, rfl, rfl, rfl, fun _ => id⟩

theorem State.Spares.trans {s t u : State} {m : Manifold} (h : s.Spares m t) (g : t.Spares m u) : s.Spares m u :=
  ⟨g.campaign.trans h.campaign, ⟨g.round.timer.trans h.round.timer, g.round.supplyRef.trans h.round.supplyRef⟩,
    g.house.trans h.house, g.channels.trans h.channels, g.driveState.trans h.driveState,
    fun i z => g.counters i (h.counters i z)⟩

theorem State.SameRecords.spares {s t : State} (h : s.SameRecords t) (m : Manifold) : s.Spares m t :=
  ⟨congrArg (PerManifold.get · m) h.campaigns,
    ⟨congrArg (PerManifold.get · m) h.timers, congrArg (PerManifold.get · m) h.supplyRefs⟩, h.house, h.channels,
    congrArg Drive.state h.drive, fun i z => by rw [h.loop i, z]⟩

/-- A quiet chain of edits touches no campaign and no round. -/
theorem State.Quiet.spares {s t : State} (h : s.Quiet t) (steps : s.Steps t) (m : Manifold) : s.Spares m t :=
  ⟨congrArg (PerManifold.get · m) h.campaigns,
    ⟨congrArg (PerManifold.get · m) h.timers, congrArg (PerManifold.get · m) h.supplyRefs⟩, h.house, h.channels,
    h.state, fun i => steps.counter i⟩

theorem State.Spares.roundConditions {s t : State} {m : Manifold} (h : s.Spares m t) :
    t.RoundConditions m ↔ s.RoundConditions m := by
  simp only [State.RoundConditions, h.house, h.campaign, h.driveState, State.channel_congr h.channels]

theorem State.FreshRound.of_spares {s t : State} {m : Manifold} {runs : Prop} (h : s.FreshRound m runs)
    (g : s.Spares m t) : t.FreshRound m runs := by
  obtain ⟨⟨running, frozen, settleBase, design, deadband, supplyRef⟩, counters⟩ := h
  refine ⟨?_, fun i w => g.counters i (counters i w)⟩
  constructor <;> simpa only [g.round.timer, g.round.supplyRef, g.house, State.channel_congr g.channels]

/-- A check of the conditions of a round timer still stands after what leaves that round alone. -/
theorem State.Checked.of_spares {s t u : State} {m : Manifold} (h : s.Checked m t) (g : t.Spares m u) :
    s.Checked m u := by
  have conditions := g.roundConditions
  refine ⟨fun w => ?_, fun w n => ?_, fun w n => ?_, fun w c => ?_⟩
  · exact g.round.timer.trans (h.freezes fun v => w (conditions.2 v))
  · exact (h.released (conditions.1 w) n).of_spares g
  · exact g.round.timer.trans (h.runsOn (conditions.1 w) n)
  · rw [g.round.supplyRef]
    refine h.supplyRef (w.imp id fun v z => v (conditions.2 z)) ?_
    rwa [State.channel_congr g.channels] at c

/-- What leaves a round alone before the check of its conditions changes nothing of what the check says. -/
theorem State.Spares.checked {s t u : State} {m : Manifold} (h : s.Spares m t) (g : t.Checked m u) : s.Checked m u := by
  obtain ⟨freezes, released, runsOn, supplyRef⟩ := g
  rw [h.round.timer] at freezes released runsOn supplyRef
  rw [State.channel_congr h.channels, h.round.supplyRef] at supplyRef
  exact ⟨freezes, released, runsOn, supplyRef⟩

/-! ### The abandonment of a campaign -/

theorem State.campaignOpen_iff (s : State) (m : Manifold) : s.campaignOpen m = true ↔ (s.campaign m).state ≠ .idle :=
  decide_eq_true_iff

section
variable (s : State) {m n : Manifold} (h : m ≠ n)
include h

theorem State.spares_setCampaign (c : Campaign) : s.Spares n (s.setCampaign m c) :=
  ⟨PerManifold.get_set_ne _ h c, ⟨rfl, rfl⟩, rfl, rfl, rfl, fun _ => id⟩

theorem State.spares_setTimer (x : RoundTimer) : s.Spares n (s.setTimer m x) :=
  ⟨rfl, ⟨PerManifold.get_set_ne _ h x, rfl⟩, rfl, rfl, rfl, fun _ => id⟩

theorem State.spares_roundStart (b : Bool) : s.Spares n (s.roundStart m b) :=
  (s.spares_setTimer h _).trans ⟨rfl, ⟨rfl, PerManifold.get_set_ne _ h _⟩, rfl, rfl, rfl, fun _ => id⟩

theorem State.spares_enterRounds : s.Spares n (s.enterRounds m) :=
  ((s.spares_setCampaign h { s.campaign m with state := .rounds, resume := none }).trans
    ((State.quiet_clearCounters _ m).spares (State.steps_clearCounters _ m) n)).trans (State.spares_roundStart _ h _)

/-- The check of one manifold's timer leaves the other's round alone. -/
theorem State.spares_checkTimer : s.Spares n (s.checkTimer m) := by
  unfold State.checkTimer
  split
  · split
    · exact .refl s n
    · exact ((s.quiet_clearCounters m).spares (s.steps_clearCounters m) n).trans (State.spares_roundStart _ h _)
  · split
    · exact s.spares_setTimer h _
    · exact .refl s n

end

/-- The Demand Unit touches no campaign and no round. -/
theorem State.spares_recompute (s : State) (m : Manifold) : s.Spares m s.recompute :=
  s.quiet_recompute.spares s.steps_recompute m

/-- An abandonment of one manifold's campaign leaves the other's campaign and round alone. -/
theorem State.spares_abandon (s : State) {m n : Manifold} (h : m ≠ n) (r : AbandonReason) :
    s.Spares n (s.abandon m r) := by
  unfold State.abandon State.returnToIdle State.checkTimerIf
  split
  · refine .trans ?_ ((State.mark_records _ _ _ _).spares n)
    refine .trans ?_ (State.spares_recompute _ n)
    refine .trans (s.spares_setCampaign h ((s.campaign m).closed .abandoned (some r))) ?_
    split
    · exact State.spares_checkTimer _ h
    · exact .refl _ n
  · exact .refl s n

/-- What an abandonment makes of its own manifold (R161, R149): an open campaign is back at IDLE with its rounds done
kept, a departure from ROUNDS has the round timer's conditions checked (R130), and any other leaves the round as it
was. -/
structure State.Abandoned (s : State) (m : Manifold) (r : AbandonReason) (t : State) : Prop where
  ended : (s.campaign m).state ≠ .idle → t.campaign m = ⟨.idle, none, (s.campaign m).roundsDone, .abandoned, some r⟩
  stays : (s.campaign m).state = .idle → t.campaign m = s.campaign m
  checked : (s.campaign m).state = .rounds → s.Checked m t
  round : (s.campaign m).state ≠ .rounds → s.SameRound m t

theorem State.Abandoned.idle {s t : State} {m : Manifold} {r : AbandonReason} (h : s.Abandoned m r t) :
    (t.campaign m).state = .idle := by
  by_cases idle : (s.campaign m).state = .idle
  · rw [h.stays idle, idle]
  · rw [h.ended idle]

theorem State.Abandoned.of_spares {s t u : State} {m : Manifold} {r : AbandonReason} (h : s.Abandoned m r t)
    (g : t.Spares m u) : s.Abandoned m r u where
  ended w := g.campaign.trans (h.ended w)
  stays w := g.campaign.trans (h.stays w)
  checked w := (h.checked w).of_spares g
  round w := ⟨g.round.timer.trans (h.round w).timer, g.round.supplyRef.trans (h.round w).supplyRef⟩

theorem State.Spares.abandoned {s t u : State} {m : Manifold} {r : AbandonReason} (h : s.Spares m t)
    (g : t.Abandoned m r u) : s.Abandoned m r u := by
  obtain ⟨ended, stays, checked, round⟩ := g
  rw [h.campaign] at ended stays checked round
  exact ⟨ended, stays, fun w => h.checked (checked w), fun w =>
    ⟨(round w).timer.trans h.round.timer, (round w).supplyRef.trans h.round.supplyRef⟩⟩

theorem State.abandon_of_idle {s : State} {m : Manifold} (h : (s.campaign m).state = .idle) (r : AbandonReason) :
    s.abandon m r = s := if_neg fun w => (s.campaignOpen_iff m).1 w h

theorem State.abandon_of_open {s : State} {m : Manifold} (h : (s.campaign m).state ≠ .idle) (r : AbandonReason) :
    s.abandon m r = (s.returnToIdle m .abandoned (some r)).markHouse true := if_pos ((s.campaignOpen_iff m).2 h)

/-- The return to IDLE up to the Demand Unit's part, which touches no campaign and no round. -/
theorem State.abandoned_departure {s : State} {m : Manifold} (h : (s.campaign m).state ≠ .idle) (r : AbandonReason) :
    s.Abandoned m r ((s.setCampaign m ((s.campaign m).closed .abandoned (some r))).checkTimerIf
      (decide ((s.campaign m).state = .rounds)) m) := by
  have closed := s.campaign_setCampaign m ((s.campaign m).closed .abandoned (some r))
  by_cases rounds : (s.campaign m).state = .rounds
  · rw [State.checkTimerIf, if_pos (decide_eq_true rounds)]
    refine ⟨fun _ => ?_, fun w => absurd w h, fun _ => ?_, fun w => absurd rounds w⟩
    · exact (congrArg (PerManifold.get · m) (State.checkTimer_same _ m).1).trans closed
    · obtain ⟨freezes, released, runsOn, supplyRef⟩ := State.checked_checkTimer (s.setCampaign m _) m
      exact ⟨freezes, released, runsOn, supplyRef⟩
  · rw [State.checkTimerIf, if_neg (by simpa using rounds)]
    exact ⟨fun _ => closed, fun w => absurd w h, fun w => absurd w rounds, fun _ => ⟨rfl, rfl⟩⟩

theorem State.abandoned_abandon (s : State) (m : Manifold) (r : AbandonReason) : s.Abandoned m r (s.abandon m r) := by
  by_cases idle : (s.campaign m).state = .idle
  · rw [State.abandon_of_idle idle]
    exact ⟨fun w => absurd idle w, fun _ => rfl, fun w => CampaignState.noConfusion (idle.symm.trans w),
      fun _ => ⟨rfl, rfl⟩⟩
  · rw [State.abandon_of_open idle]
    exact (State.abandoned_departure idle r).of_spares
      ((State.spares_recompute _ m).trans ((State.mark_records _ _ _ _).spares m))

/-- The return of a campaign to IDLE recomputes (R149). -/
theorem State.commanded_abandon {s : State} {m : Manifold} (h : (s.campaign m).state ≠ .idle) (r : AbandonReason) :
    (s.abandon m r).Commanded (s.abandon m r) := by
  rw [State.abandon_of_open h]
  exact (State.commanded_recompute _).of_records (State.mark_records _ _ _ _)

/-! ### A CANCEL of several manifolds -/

/-- The named campaigns abandoned one after another, as CAMPAIGN CANCEL does (R160). -/
def State.abandonAll (s : State) (ms : List Manifold) (r : AbandonReason) : State :=
  s.forEach ms fun t m => t.abandon m r

theorem State.cancelCampaigns_of_open {s : State} {ms : List Manifold} (h : ∃ m ∈ ms, (s.campaign m).state ≠ .idle) :
    s.cancelCampaigns ms = ⟨.done, [], (s.abandonAll ms .cancelled).serve⟩ := by
  obtain ⟨m, named, opened⟩ := h
  exact if_pos (List.any_eq_true.2 ⟨m, named, (s.campaignOpen_iff m).2 opened⟩)

theorem State.cancelCampaigns_of_idle {s : State} {ms : List Manifold} (h : ∀ m ∈ ms, (s.campaign m).state = .idle) :
    s.cancelCampaigns ms = s.refuse .nosuch := by
  refine if_neg fun w => ?_
  obtain ⟨m, named, opened⟩ := List.any_eq_true.1 w
  exact (s.campaignOpen_iff m).1 opened (h m named)

theorem State.mild_abandonAll (s : State) (ms : List Manifold) (r : AbandonReason) : s.Mild (s.abandonAll ms r) :=
  State.forEach_rel State.Mild.refl (fun _ _ _ => State.Mild.trans) (fun t m => t.mild_abandon m r) ms s

theorem State.spares_abandonAll {m : Manifold} {ms : List Manifold} (h : m ∉ ms) (r : AbandonReason) (s : State) :
    s.Spares m (s.abandonAll ms r) := by
  induction ms generalizing s with
  | nil => exact .refl s m
  | cons n ms ih =>
    rw [List.mem_cons, not_or] at h
    obtain ⟨other, rest⟩ := h
    exact (s.spares_abandon (Ne.symm other) r).trans (ih rest _)

theorem State.abandoned_abandonAll {m : Manifold} {ms : List Manifold} (h : m ∈ ms) (distinct : ms.Nodup)
    (r : AbandonReason) (s : State) : s.Abandoned m r (s.abandonAll ms r) := by
  induction ms generalizing s with
  | nil => cases h
  | cons n ms ih =>
    obtain ⟨once, distinct⟩ := List.nodup_cons.1 distinct
    by_cases e : m = n
    · subst e
      exact (s.abandoned_abandon m r).of_spares (State.spares_abandonAll once r _)
    · exact (s.spares_abandon (Ne.symm e) r).abandoned (ih (List.mem_of_ne_of_mem e h) distinct _)

/-- Where one of them was open, the strokes that the abandonments leave are those of one recompute. -/
theorem State.commanded_abandonAll {ms : List Manifold} (r : AbandonReason) (s : State)
    (h : ∃ m ∈ ms, (s.campaign m).state ≠ .idle) : (s.abandonAll ms r).Commanded (s.abandonAll ms r) := by
  induction ms generalizing s with
  | nil =>
    obtain ⟨_, named, _⟩ := h
    cases named
  | cons n ms ih =>
    have later : ∀ t m, State.Commanded t t → (t.abandon m r).Commanded (t.abandon m r) := fun t m k => by
      by_cases idle : (t.campaign m).state = .idle
      · rwa [State.abandon_of_idle idle]
      · exact State.commanded_abandon idle r
    show ((s.abandon n r).abandonAll ms r).Commanded ((s.abandon n r).abandonAll ms r)
    by_cases idle : (s.campaign n).state = .idle
    · rw [State.abandon_of_idle idle]
      obtain ⟨m, named, opened⟩ := h
      exact ih s ⟨m, List.mem_of_ne_of_mem (fun e => opened (e ▸ idle)) named, opened⟩
    · exact State.forEach_keeps (P := fun t => t.Commanded t) later ms _ (State.commanded_abandon idle r)

/-! ### The start of a move leaves an IDLE campaign and its round alone -/

/-- Where the campaign of a manifold is IDLE, it and its round are left as they were: no opening ends there, and no
coupling event is raised. -/
def State.LeavesIdle (m : Manifold) (s t : State) : Prop :=
  (s.campaign m).state = .idle → t.campaign m = s.campaign m ∧ s.SameRound m t

/-- The same from a state free for the start of a move, where no restart mark is taken and a running drive stays so. -/
def State.Rests (m : Manifold) (s t : State) : Prop := s.Starts t ∧ (s.Free → State.LeavesIdle m s t)

section
variable {m : Manifold}

theorem State.Spares.leavesIdle {s t : State} (h : s.Spares m t) : State.LeavesIdle m s t := fun _ =>
  ⟨h.campaign, h.round⟩

theorem State.LeavesIdle.refl (s : State) : State.LeavesIdle m s s := (State.Spares.refl s m).leavesIdle

theorem State.LeavesIdle.trans {s t u : State} (h : State.LeavesIdle m s t) (g : State.LeavesIdle m t u) :
    State.LeavesIdle m s u := fun idle => by
  obtain ⟨same, first⟩ := h idle
  obtain ⟨again, second⟩ := g (same ▸ idle)
  exact ⟨again.trans same, second.timer.trans first.timer, second.supplyRef.trans first.supplyRef⟩

theorem State.LeavesIdle.of_eq {s t : State} (campaigns : t.campaigns = s.campaigns) (timers : t.timers = s.timers)
    (supplyRefs : t.supplyRefs = s.supplyRefs) : State.LeavesIdle m s t := fun _ =>
  ⟨congrArg (PerManifold.get · m) campaigns, congrArg (PerManifold.get · m) timers,
    congrArg (PerManifold.get · m) supplyRefs⟩

theorem State.Quiet.leavesIdle {s t : State} (h : s.Quiet t) : State.LeavesIdle m s t :=
  .of_eq h.campaigns h.timers h.supplyRefs

/-- Opening ends only where a campaign is in OPENING (R152). -/
theorem State.leavesIdle_examineOpening (s : State) (n : Manifold) : State.LeavesIdle m s (s.examineOpening n) := by
  by_cases e : n = m
  · subst e
    intro idle
    rw [State.examineOpening, if_neg fun w => CampaignState.noConfusion (idle.symm.trans w.1)]
    exact ⟨rfl, rfl, rfl⟩
  · unfold State.examineOpening
    split
    · exact (s.spares_enterRounds e).leavesIdle.trans (State.quiet_markHouse _ _).leavesIdle
    · exact .refl s

theorem State.leavesIdle_dropWork (s : State) (i : LoopIx) : State.LeavesIdle m s (s.dropWork i) := by
  unfold State.dropWork
  refine .trans ?_ (State.quiet_tellIdle _ _).leavesIdle
  refine .trans ?_ (State.quiet_tellWork _ _ _).leavesIdle
  exact (s.quiet_clearWork i).leavesIdle.trans (State.leavesIdle_examineOpening _ _)

/-- A lifecycle change that neither enters nor leaves READY raises no coupling event (R9). -/
theorem State.leavesIdle_lifeChanged {s : State} {i : LoopIx} {old : Lifecycle} (h : s.crossed i old = false) :
    State.LeavesIdle m s (s.lifeChanged i old) := by
  rw [State.lifeChanged, h]
  refine .trans ?_ (State.quiet_markLoop _ _ _).leavesIdle
  exact s.quiet_recompute.leavesIdle.trans (State.quiet_recount _ _).leavesIdle

theorem State.leavesIdle_becomeVacant {s : State} {i : LoopIx} (h : (s.loop i).life ≠ .ready) :
    State.LeavesIdle m s (s.becomeVacant i) := by
  unfold State.becomeVacant
  refine .trans ?_ (State.quiet_fill _).leavesIdle
  refine .trans ?_ (State.quiet_markRoomOf _ _).leavesIdle
  refine .trans ?_ (State.leavesIdle_lifeChanged ?_)
  · exact (s.leavesIdle_dropWork i).trans (.of_eq rfl rfl rfl)
  · rw [State.crossed, State.loop_modLoop_self, decide_eq_false h]
    rfl

theorem State.LeavesIdle.rests {s t : State} (h : State.LeavesIdle m s t) (g : s.Starts t) : State.Rests m s t :=
  ⟨g, fun _ => h⟩

theorem State.Quiet.rests {s t : State} (h : s.Quiet t) : State.Rests m s t := h.leavesIdle.rests h.mild.starts

theorem State.Rests.refl (s : State) : State.Rests m s s := (State.LeavesIdle.refl s).rests (.refl s)

theorem State.Rests.trans {s t u : State} (h : State.Rests m s t) (g : State.Rests m t u) : State.Rests m s u :=
  ⟨h.1.trans g.1, fun free => (h.2 free).trans (g.2 (h.1 free).1)⟩

theorem State.rests_ite {c : Prop} [Decidable c] {s t u : State} (h : c → State.Rests m s t)
    (g : ¬c → State.Rests m s u) : State.Rests m s (if c then t else u) := by
  split
  · next w => exact h w
  · next w => exact g w

theorem State.rests_setMoving (s : State) (x : Option Move) : State.Rests m s (s.setMoving x) :=
  State.LeavesIdle.rests (.of_eq rfl rfl rfl) (s.starts_setMoving x)

theorem State.rests_stopRunning (s : State) (v : Move) (e : MoveEnd) (r : Option EndReason) :
    State.Rests m s (s.stopRunning v e r) := State.LeavesIdle.rests (.of_eq rfl rfl rfl) (s.starts_stopRunning v e r)

theorem State.rests_modLoop (s : State) (i : LoopIx) {f : Loop → Loop} (h : ∀ l : Loop, l.Kept (f l)) :
    State.Rests m s (s.modLoop i f) := State.LeavesIdle.rests (.of_eq rfl rfl rfl) (s.starts_modLoop i h)

theorem State.rests_retireAtEnd (s : State) (v : Move) : State.Rests m s (s.retireAtEnd v) := by
  refine State.LeavesIdle.rests ?_ (s.starts_retireAtEnd v)
  unfold State.retireAtEnd
  split
  · next w => exact State.leavesIdle_becomeVacant (by rw [w.1]; exact Lifecycle.noConfusion)
  · exact .refl s

theorem State.rests_takeRestartMark (s : State) (i : LoopIx) : State.Rests m s (s.takeRestartMark i) := by
  refine ⟨s.starts_takeRestartMark i, fun free => ?_⟩
  rw [State.takeRestartMark, if_neg (by simp [free.marks i])]
  exact .refl s

/-- A running drive is not held at a move's end. -/
theorem State.holdAtEnd_of_free {s : State} (h : s.Free) : s.holdAtEnd false = s :=
  if_neg fun w => w.elim Bool.noConfusion fun v => DriveState.noConfusion (h.state.symm.trans v)

theorem State.quiet_aim (s : State) (i : LoopIx) : s.Quiet (s.aim i) := by
  refine .trans ?_ (State.quiet_modLoop _ i (f := fun l => l.setPending none) fun _ => rfl)
  unfold State.wantAim
  split
  · exact State.quiet_ite (s.quiet_want i _) (.refl s)
  · exact .refl s

theorem State.rests_takeEnd (s : State) (v : Move) (e : MoveEnd) (r : Option EndReason) :
    State.Rests m s (s.takeEnd v e r false) := by
  refine ⟨s.starts_takeEnd v e r, fun free => ?_⟩
  rw [State.takeEnd, State.holdAtEnd_of_free (s.starts_stopRunning v e r free).1]
  refine .trans ?_ (State.quiet_markLoopIf _ _ _ _).leavesIdle
  refine .trans ?_ (State.leavesIdle_examineOpening _ _)
  exact ((s.rests_stopRunning v e r).2 free).trans (State.quiet_aim _ _).leavesIdle

theorem State.rests_moveDone (s : State) (v : Move) (n : Nat) : State.Rests m s (s.moveDone v n false) := by
  unfold State.moveDone
  refine .trans ?_ (State.quiet_tellHead _ _ _).rests
  refine .trans ?_ (State.rests_takeEnd _ _ _ _)
  refine .trans ?_ (State.rests_takeRestartMark _ _)
  refine .trans ?_ (State.rests_retireAtEnd _ _)
  refine .trans ?_ (State.quiet_recount _ _).rests
  exact (s.rests_stopRunning v _ _).trans (State.rests_modLoop _ _ (f := fun l => l.arrived n false) fun _ => rfl)

theorem State.rests_beginReturn (s : State) (v : Move) : State.Rests m s (s.beginReturn v false) := by
  unfold State.beginReturn
  dsimp only
  split
  · exact (s.rests_setMoving _).trans (State.rests_moveDone _ _ _)
  · exact s.rests_setMoving _

theorem State.rests_legDone (s : State) (v : Move) (n : Nat) : State.Rests m s (s.legDone v n false) := by
  unfold State.legDone
  split
  · exact s.rests_beginReturn v
  · exact s.rests_moveDone v n

theorem State.rests_beginMove (s : State) (v : Move) : State.Rests m s (s.beginMove v) := by
  unfold State.beginMove
  refine .trans ?_ (State.rests_ite (fun _ => State.rests_legDone _ v _) (fun _ => .refl _))
  refine .trans ?_ (State.quiet_fill _).rests
  refine .trans ?_ (State.quiet_recount _ _).rests
  refine .trans ?_ (State.rests_modLoop _ _ (f := fun l => l.setPosition none) fun _ => rfl)
  exact (s.rests_setMoving _).trans (State.rests_ite (fun _ => .refl _) fun _ => (State.quiet_unwant _ _).rests)

theorem State.rests_startMove (s : State) : State.Rests m s s.startMove := by
  unfold State.startMove
  split
  · exact .refl s
  · exact (s.quiet_setQueue _).rests.trans (State.rests_beginMove _ _)

/-- The start of the next move, where one may start, leaves an IDLE campaign's manifold alone. -/
theorem State.spares_serve {s : State} (marks : s.MarkLaw) (idle : (s.campaign m).state = .idle) :
    s.Spares m s.serve := by
  have kept : s.serve.campaign m = s.campaign m ∧ s.SameRound m s.serve := by
    unfold State.serve
    split
    · next start => exact s.rests_startMove.2 (marks.free start) idle
    · exact ⟨rfl, rfl, rfl⟩
  exact ⟨kept.1, kept.2, s.steps_serve.calm.house, s.steps_serve.calm.channels,
    (State.onlyDrive_serve marks).driveState, fun i => s.steps_serve.counter i⟩

end

/-! ### The request -/

/-- The bytes that name manifolds: 1 for A, 2 for B and 3 for both (11.4). -/
theorem campaignForm_of_named {b : Byte} {ms : List Manifold}
    (h : (b, ms) ∈ [((1 : Byte), [Manifold.a]), (2, [.b]), (3, [.a, .b])]) : campaignForm [b] = some ms := by
  simp only [List.mem_cons, Prod.mk.injEq, List.not_mem_nil, or_false] at h
  obtain ⟨rfl, rfl⟩ | ⟨rfl, rfl⟩ | ⟨rfl, rfl⟩ := h <;> rfl

theorem nodup_of_named {b : Byte} {ms : List Manifold}
    (h : (b, ms) ∈ [((1 : Byte), [Manifold.a]), (2, [.b]), (3, [.a, .b])]) : ms.Nodup := by
  simp only [List.mem_cons, Prod.mk.injEq, List.not_mem_nil, or_false] at h
  obtain ⟨-, rfl⟩ | ⟨-, rfl⟩ | ⟨-, rfl⟩ := h <;> decide

/-- A payload that is not one of the three bytes has no form. -/
theorem campaignForm_of_unnamed {p : List Byte} (h : ∀ b ∈ [(1 : Byte), 2, 3], p ≠ [b]) : campaignForm p = none := by
  unfold campaignForm
  split
  · next b =>
    have other : ∀ c ∈ [(1 : Byte), 2, 3], b.toNat ≠ c.toNat := fun c w e =>
      h c w (congrArg (fun b => [b]) (BitVec.eq_of_toNat_eq e))
    have not1 : b.toNat ≠ 1 := other 1 (by decide)
    have not2 : b.toNat ≠ 2 := other 2 (by decide)
    have not3 : b.toNat ≠ 3 := other 3 (by decide)
    unfold manifoldsOf
    split
    · next e => exact absurd e not1
    · next e => exact absurd e not2
    · next e => exact absurd e not3
    · rfl
  · rfl

/-- CAMPAIGN CANCEL is a request of the service station, with its form and its owner (R160, R179). -/
theorem exec_campaignCancel_eq (p : List Byte) (s : State) : exec (.campaignCancel p) s =
    request s serviceStation fun _ t => checked campaignForm p t fun ms => t.cancelCampaigns ms := by
  rfl

/-- The service station's CAMPAIGN CANCEL comes to the cancel of the manifolds it names (R160). -/
theorem State.Polled.exec_campaignCancel {s : State} {k : SlotIx} {x : Slot} (h : s.Polled k x)
    (service : slotKind k = .service) {p : List Byte} {ms : List Manifold} (form : campaignForm p = some ms) :
    exec (.campaignCancel p) s = .next (((s.heard k x).cancelCampaigns ms).finish k) := by
  rw [exec_campaignCancel_eq]
  exact h.taken (decide_eq_true service) form fun _ t ms => t.cancelCampaigns ms

section
variable {s : State} {k : SlotIx} {x : Slot} {ms : List Manifold}

/-- The state after a CAMPAIGN CANCEL that finds an open campaign: the campaigns abandoned, the next move started where
one may, and the answer DONE. -/
def State.cancelled (s : State) (k : SlotIx) (x : Slot) (ms : List Manifold) : State :=
  Taken.finish ⟨.done, [], ((s.heard k x).abandonAll ms .cancelled).serve⟩ k

/-- What a CANCEL makes of a manifold that it names. -/
theorem State.abandoned_cancelled (marks : s.MarkLaw) {m : Manifold} (named : m ∈ ms) (distinct : ms.Nodup) :
    s.Abandoned m .cancelled (s.cancelled k x ms) := by
  have heard := s.heard_records k x
  have abandoned := State.abandoned_abandonAll named distinct .cancelled (s.heard k x)
  have marks := ((s.heard k x).mild_abandonAll ms .cancelled).markLaw (heard.markLaw marks)
  exact (heard.spares m).abandoned ((abandoned.of_spares (State.spares_serve marks abandoned.idle)).of_spares
    ((Taken.finish_records ⟨.done, [], _⟩ k).spares m))

/-- The answer and the frame of a CANCEL that finds an open campaign; while the driver is busy no move starts, so the
records are those that the abandonments leave. -/
theorem State.served_cancelled (marks : s.MarkLaw) :
    s.Replies k x .done [] (s.cancelled k x ms) ∧ State.OnlyDrive [] s (s.cancelled k x ms) ∧
      (s.DriverBusy → ((s.heard k x).abandonAll ms .cancelled).SameRecords (s.cancelled k x ms)) := by
  have mild := (s.heard k x).mild_abandonAll ms .cancelled
  obtain ⟨replies, drive, -, busy⟩ :=
    State.served_finish [] .done mild.link (mild.markLaw ((s.heard_records k x).markLaw marks)) mild.onlyDrive
  exact ⟨replies, drive, fun b => busy (mild.busy ((s.heard_records k x).busy b))⟩

end

end Sys2Proof.Machine

open Sys2Proof Sys2Proof.Machine

/-- Settles O28, by the rows of R160: each named campaign's abandonment, then the start of a move, which leaves the
manifold of an IDLE campaign alone. -/
theorem campaignCancelFollowsItsTable : Obligations.CampaignCancelFollowsItsTable := by
  intro s k x p polled marks
  refine ⟨fun other => ?_, fun service => ⟨fun unnamed => ?_, ?_⟩⟩
  · rw [exec_campaignCancel_eq]
    exact polled.onlyDenied (decide_eq_false other) _
  · rw [exec_campaignCancel_eq]
    exact polled.onlyRange (decide_eq_true service) (campaignForm_of_unnamed unnamed)
      fun _ t ms => t.cancelCampaigns ms
  · rintro ⟨b, ms⟩ row rfl
    have taken := polled.exec_campaignCancel service (campaignForm_of_named row)
    refine ⟨fun idle => onlyAnswers_of_refused taken (State.cancelCampaigns_of_idle idle), fun opened => ?_⟩
    rw [State.cancelCampaigns_of_open (s := s.heard k x) opened] at taken
    obtain ⟨replies, drive, busy⟩ := State.served_cancelled (k := k) (x := x) (ms := ms) marks
    refine ⟨s.cancelled k x ms, taken, replies, drive, fun b => ?_, fun m named => ?_, fun b m unnamed => ?_⟩
    · exact (State.commanded_abandonAll .cancelled (s.heard k x) opened).of_records (busy b)
    · have abandoned := State.abandoned_cancelled (k := k) (x := x) marks named (nodup_of_named row)
      exact ⟨abandoned.ended, abandoned.stays, abandoned.checked, abandoned.round⟩
    · have spared := (((s.heard_records k x).spares m).trans (State.spares_abandonAll unnamed .cancelled _)).trans
        ((busy b).spares m)
      exact ⟨spared.campaign, spared.round⟩
end

section
/-! PROOF. What one command can do, said once: the acts beside the edits of `Laws/Steps.lean` (`Act`), and that every
command comes to a next state by a chain of them (`exec_comes`). An invariant that every act keeps, every step keeps. -/

namespace Sys2Proof.Machine

/-- The ceiling lies in its range (R3). -/
def Loop.CeilingInRange (l : Loop) : Prop := Config.minCeiling ≤ l.ceiling ∧ l.ceiling ≤ Config.fullStroke

/-- The laws that the records keep together between commands. -/
structure State.Laws (s : State) : Prop where
  queue : s.QueueLaw
  ceiling : s.CeilingLaw
  room : s.RoomLaw
  floor : s.FloorLaw
  campaign : s.CampaignLaw
  roster : s.RosterLaw

/-- One act of a command: an edit inside the part, or one of the changes that no edit makes. A new House Record is taken
with the edits it hands on, for an entry into STANDBY leaves no campaign open only after them (R161). -/
inductive State.Act (s : State) : State → Prop
  | edit {t : State} (e : s.Edit t) : Act s t
  | loop (i : LoopIx) (l : Loop) (c : s.CeilingLaw → l.CeilingInRange)
    (v : l.life = .vacant → (s.loop i).life = .vacant ∨ i ∉ s.floorList) : Act s (s.setLoop i l)
  | loops (f : LoopIx → Loop → Loop) (c : ∀ i, (s.loop i).CeilingInRange → (f i (s.loop i)).CeilingInRange)
    (v : ∀ i, (f i (s.loop i)).life = .vacant → (s.loop i).life = .vacant) : Act s (s.mapLoops f)
  | room (r : RoomIx) (x : Room) (h : (s.room r).Lawful → x.Lawful) : Act s (s.setRoom r x)
  | rooms (f : Room → Room) (h : ∀ x : Room, x.Lawful → (f x).Lawful) : Act s (s.mapRooms f)
  | floorList (l : List LoopIx) (short : l.length ≤ Config.floorCapacity) (distinct : l.Nodup)
    (occupied : ∀ i ∈ l, (s.loop i).life ≠ .vacant) : Act s (s.setFloorList l)
  | house (h : House) {t : State} (steps : (s.setHouse h).Steps t)
    (idle : h.season = .standby → s.house.season = .standby ∨ ∀ m, (t.campaign m).state = .idle) : Act s t
  | storage (x : Storage) : Act s (s.setStorage x)
  | channels (c : Vector Channel 28) : Act s (s.setChannels c)
  | campaign (m : Manifold) (c : Campaign) (lawful : c.Lawful) (open_heating : c.state = .idle ∨ s.house.season = .heating) :
    Act s (s.setCampaign m c)
  | link (k : Link) (h : s.RosterLaw → (s.relink k).RosterLaw) : Act s (s.relink k)
  | reports : Act s s.clearReports
  | anew {t : State} (laws : t.Laws) (pending : t.pending = s.pending) : Act s t

/-- A chain of acts. -/
def State.Acts : State → State → Prop := Relation.ReflTransGen State.Act

theorem State.Acts.refl (s : State) : s.Acts s := Relation.ReflTransGen.refl

theorem State.Acts.trans {s t u : State} (h : s.Acts t) (g : t.Acts u) : s.Acts u := Relation.ReflTransGen.trans h g

theorem State.Act.acts {s t : State} (h : s.Act t) : s.Acts t := Relation.ReflTransGen.single h

/-- What every act keeps, every chain keeps. -/
theorem State.Acts.keeps {P : State → Prop} (k : ∀ s t, P s → State.Act s t → P t) {s t : State} (h : s.Acts t)
    (p : P s) : P t := by
  induction h with
  | refl => exact p
  | tail _ a ih => exact k _ _ ih a

theorem State.Steps.acts {s t : State} (h : s.Steps t) : s.Acts t := by
  induction h with
  | refl => exact .refl s
  | step _ e ih => exact ih.trans (State.Act.edit e).acts

theorem State.acts_ite {c : Prop} [Decidable c] {s t u : State} (h : c → s.Acts t) (g : ¬c → s.Acts u) :
    s.Acts (if c then t else u) := by
  split
  · next w => exact h w
  · next w => exact g w

theorem State.acts_forEach {α : Type} (s : State) (l : List α) {f : State → α → State}
    (h : ∀ t a, State.Acts t (f t a)) : s.Acts (s.forEach l f) :=
  State.forEach_rel State.Acts.refl (fun _ _ _ => State.Acts.trans) h l s

/-- A change of one loop's record. -/
theorem State.acts_modLoop (s : State) (i : LoopIx) {f : Loop → Loop}
    (c : (s.loop i).CeilingInRange → (f (s.loop i)).CeilingInRange)
    (v : (f (s.loop i)).life = .vacant → (s.loop i).life = .vacant ∨ i ∉ s.floorList) : s.Acts (s.modLoop i f) :=
  (State.Act.loop i _ (fun laws => c (laws i)) v).acts

theorem State.acts_mapLoops (s : State) {f : LoopIx → Loop → Loop}
    (c : ∀ i (l : Loop), (f i l).ceiling = l.ceiling) (v : ∀ i (l : Loop), (f i l).life = l.life) :
    s.Acts (s.mapLoops f) :=
  (State.Act.loops f (fun i h => by rwa [Loop.CeilingInRange, c]) (fun i h => (v i _).symm.trans h)).acts

/-! ### The link -/

/-- A link whose slots hold the addresses they held, or none. -/
theorem State.RosterLaw.of_addresses {s t : State} (h : s.RosterLaw)
    (a : ∀ (k : SlotIx) (y : Slot), t.slot k = some y → ∃ x, s.slot k = some x ∧ x.address = y.address) :
    t.RosterLaw := by
  intro j k x y hj hk same
  obtain ⟨x', hx, ex⟩ := a j x hj
  obtain ⟨y', hy, ey⟩ := a k y hk
  exact h j k x' y' hx hy (ex.trans (same.trans ey.symm))

/-- A change of the link that keeps the roster. -/
theorem State.acts_relink {s : State} {k : Link} (h : k.roster = s.link.roster) : s.Acts (s.relink k) :=
  (State.Act.link k fun law => law.of_addresses fun j y hj => ⟨y, (State.slot_congr h j).symm.trans hj, rfl⟩).acts

theorem State.acts_setWindow (s : State) (w : Window) : s.Acts (s.setWindow w) := State.acts_relink rfl
theorem State.acts_setCursor (s : State) (n : Nat) : s.Acts (s.setCursor n) := State.acts_relink rfl
theorem State.acts_setBreak (s : State) (b : LineBreak) : s.Acts (s.setBreak b) := State.acts_relink rfl
theorem State.acts_setSent (s : State) (bytes : List Byte) : s.Acts (s.setSent bytes) := State.acts_relink rfl

/-- An occupied slot written with its own address. -/
theorem State.acts_setSlot {s : State} {k : SlotIx} {x y : Slot} (h : s.slot k = some x)
    (a : y.address = x.address) : s.Acts (s.setSlot k (some y)) := by
  refine (State.Act.link (s.setSlot k (some y)).link fun law => law.of_addresses fun j z hj => ?_).acts
  change (s.setSlot k (some y)).slot j = some z at hj
  rw [State.slot_setSlot] at hj
  split at hj
  · next e =>
    cases hj
    exact ⟨x, e ▸ h, a.symm⟩
  · exact ⟨z, hj, rfl⟩

/-- A slot freed. -/
theorem State.acts_clearSlot (s : State) (k : SlotIx) : s.Acts (s.setSlot k none) := by
  refine (State.Act.link (s.setSlot k none).link fun law => law.of_addresses fun j z hj => ?_).acts
  change (s.setSlot k none).slot j = some z at hj
  rw [State.slot_setSlot] at hj
  split at hj
  · cases hj
  · exact ⟨z, hj, rfl⟩

/-- Every slot changed, none of them in its address. -/
theorem State.acts_mapSlots (s : State) {f : Slot → Slot} (h : ∀ x, (f x).address = x.address) :
    s.Acts (s.mapSlots f) := by
  refine (State.Act.link (s.mapSlots f).link fun law => law.of_addresses fun j z hj => ?_).acts
  change (s.mapSlots f).slot j = some z at hj
  rw [State.slot_mapSlots, Option.map_eq_some_iff] at hj
  obtain ⟨x, hx, rfl⟩ := hj
  exact ⟨x, hx, (h x).symm⟩

theorem State.acts_emptyRoster (s : State) : s.Acts s.emptyRoster := by
  refine (State.Act.link s.emptyRoster.link fun law => law.of_addresses fun j z hj => ?_).acts
  have none : s.emptyRoster.slot j = none := by simp [State.emptyRoster, State.slot]
  exact absurd (none.symm.trans hj) (by simp)

theorem Slot.told_address (x : Slot) (l : List Report) : (x.told l).address = x.address := by
  have same := congrArg Slot.address (Slot.unmarked_told x l)
  exact same

/-- Matching the reports of a command: markers change, and the list of reports is emptied. -/
theorem State.acts_tellWatches (s : State) : s.Acts s.tellWatches :=
  (s.acts_mapSlots fun x => x.told_address _).trans State.Act.reports.acts

/-! ### Outcomes -/

/-- An outcome is a next state reached by a chain of acts, with no report left over where none was before. -/
def State.Comes (s : State) (o : Host.Outcome State Fault Refusal) : Prop :=
  ∃ t, o = .next t ∧ s.Acts t ∧ (s.ReportLaw → t.ReportLaw)

theorem State.comes_powered {s : State} {f : State → State} (h : s.Acts (f s)) (g : s.ReportLaw → (f s).ReportLaw) :
    s.Comes (Sys2Proof.Machine.powered s f) := by
  refine ⟨_, rfl, State.acts_ite (fun _ => h) (fun _ => .refl s), fun r => ?_⟩
  split
  · exact g r
  · exact r

theorem State.comes_event {s : State} {f : State → State} (h : s.Acts (f s)) : s.Comes (event s f) :=
  State.comes_powered (h.trans (State.acts_tellWatches _)) fun _ => rfl

theorem State.acts_openCallOver (s : State) : s.Acts s.openCallOver := (s.acts_setWindow _).trans (State.acts_setCursor _ _)

theorem State.comes_reply {s : State} {counts : SlotIx → Slot → State → State}
    (h : ∀ k x, s.slot k = some x → s.Acts (counts k x s))
    (g : ∀ k x, s.ReportLaw → (counts k x s).ReportLaw) : s.Comes (reply s counts) := by
  refine State.comes_powered ?_ fun r => ?_
  · refine State.acts_ite (fun _ => .refl s) (fun _ => ?_)
    split
    · exact .refl s
    · exact s.acts_openCallOver
    · split
      · next x hx => exact h _ x hx
      · exact s.acts_setWindow _
  · split
    · exact r
    · split
      · exact r
      · exact r
      · split
        · exact g _ _ r
        · exact r

theorem State.acts_answer (s : State) (k : SlotIx) (x : Status) (body : List Byte) : s.Acts (s.answer k x body) := by
  unfold State.answer
  split
  · next slot h => exact (State.acts_setSlot (y := slot.unmarked) h rfl).trans (State.acts_setSent _ _)
  · exact .refl s

theorem State.answer_reports (s : State) (k : SlotIx) (x : Status) (body : List Byte) :
    (s.answer k x body).reports = s.reports := by
  unfold State.answer
  split <;> rfl

theorem State.acts_heard {s : State} {k : SlotIx} {x : Slot} (h : s.slot k = some x) : s.Acts (s.heard k x) :=
  (State.acts_setSlot (y := x.heard) h rfl).trans (State.acts_setWindow _ _)

theorem State.comes_request {s : State} {allowed : StationKind → Bool} {take : SlotIx → State → Taken}
    (h : ∀ k t, State.Acts t (take k t).state) : s.Comes (request s allowed take) := by
  refine State.comes_reply (fun k x hx => ?_) fun k x _ => ?_
  · refine (State.acts_heard hx).trans ?_
    refine .trans ?_ ((State.acts_tellWatches _).trans (State.acts_answer _ _ _ _))
    split
    · exact h _ _
    · exact .refl _
  · exact (State.answer_reports _ _ _ _).trans rfl

theorem acts_checked {α : Type} {form : List Byte → Option α} {params : List Byte} {s : State} {take : α → Taken}
    (h : ∀ x, form params = some x → s.Acts (take x).state) : s.Acts (checked form params s take).state := by
  unfold checked
  split
  · next x e => exact h x e
  · exact .refl s

theorem State.acts_onRoom {s : State} {n : Nat} {take : RoomIx → Taken} (h : ∀ r, s.Acts (take r).state) :
    s.Acts (s.onRoom n take).state := by
  unfold State.onRoom
  split
  · exact h _
  · exact .refl s

theorem State.acts_onLoop {s : State} {n : Nat} {take : LoopIx → Taken} (h : ∀ i, s.Acts (take i).state) :
    s.Acts (s.onLoop n take).state := by
  unfold State.onLoop
  split
  · exact h _
  · exact .refl s

theorem State.acts_takenIf {c : Prop} [Decidable c] {s : State} {x y : Taken} (h : c → s.Acts x.state)
    (g : ¬c → s.Acts y.state) : s.Acts (if c then x else y).state := by
  split
  · next w => exact h w
  · next w => exact g w

theorem State.acts_done {s t : State} {x : Status} {body : List Byte} (h : s.Acts t) :
    s.Acts (Taken.mk x body t).state := h

theorem State.comes_serviceOrder {s : State} {params : List Byte} {take : State → Taken}
    (h : ∀ t, State.Acts t (take t).state) : s.Comes (serviceOrder params s take) :=
  State.comes_request fun _ t => acts_checked fun _ _ => h t

/-- An act before the start of the next move. -/
theorem State.Acts.serve {s t : State} (h : s.Acts t) : s.Acts t.serve := h.trans t.steps_serve.acts

end Sys2Proof.Machine
end

section
/-! PROOF. Every command is a chain of acts: the operations that are no chain of edits, then one lemma for the commands
of each block, and the commands together (`exec_comes`). -/

namespace Sys2Proof.Machine

/-! ### Rooms -/

theorem Room.lawful_leased {x : Room} (h : x.Lawful) (c : x.state = .claimed) (m : Nat) : (x.leased m).Lawful :=
  ⟨h.1, fun n => absurd c n, h.2.2⟩

theorem Room.lawful_claimedBy (x : Room) (k : SlotIx) (m : Nat) : (x.claimedBy k m).Lawful := by
  simp [Room.Lawful, Room.claimedBy]

theorem Room.lawful_posted {x : Room} (h : x.Lawful) (c : x.state = .claimed) {d : Nat} (low : d ≤ 100) (m : Nat) :
    (x.posted d m).Lawful := ⟨h.1, fun n => absurd c n, low⟩

theorem Room.lawful_unclaimed (x : Room) {y : RoomState} (h : y ≠ .claimed) : (x.unclaimed y).Lawful := by
  simp [Room.Lawful, Room.unclaimed, h]

theorem Room.lawful_amended {x : Room} (h : x.Lawful) (a : RoomAmend) : (a.apply x).Lawful := h

theorem Room.lawful_minute {x : Room} (h : x.Lawful) : x.minute.Lawful := by
  unfold Room.minute
  split
  · next c => exact ⟨h.1, fun n => absurd c n, h.2.2⟩
  · exact h

theorem State.acts_changeRoom (s : State) (r : RoomIx) {new : Room} (h : (s.room r).Lawful → new.Lawful) :
    s.Acts (s.changeRoom r new) := by
  refine (State.Act.room r new h).acts.trans (State.Steps.acts ?_)
  exact (State.steps_recomputeIf _ _).trans (State.steps_ite (fun _ => State.steps_markRoom _ _ _) fun _ => .refl _)

theorem State.acts_lapse (s : State) (r : RoomIx) : s.Acts (s.lapse r) :=
  s.acts_changeRoom r fun _ => Room.lawful_unclaimed _ (by decide)

theorem State.acts_free (s : State) (r : RoomIx) : s.Acts (s.free r) :=
  (s.acts_changeRoom r (new := (s.room r).unclaimed .free) fun _ => Room.lawful_unclaimed _ (by decide)).serve

theorem State.acts_claimRoom (s : State) (k : SlotIx) (r : RoomIx) : s.Acts (s.claimRoom k r).state := by
  refine State.acts_takenIf (fun c => State.acts_takenIf (fun _ => ?_) fun _ => .refl s) fun _ =>
    State.acts_takenIf (fun _ => ?_) fun _ => .refl s
  · exact (s.acts_changeRoom r fun h => Room.lawful_leased h c _).serve
  · exact (s.acts_changeRoom r fun _ => Room.lawful_claimedBy _ k _).serve

theorem State.acts_postDemand (s : State) (k : SlotIx) (r : RoomIx) (d : Nat) : s.Acts (s.postDemand k r d).state := by
  refine State.acts_takenIf (fun _ => .refl s) fun low => State.acts_takenIf (fun c => ?_) fun _ => .refl s
  refine State.acts_takenIf (fun _ => ?_) fun _ => .refl s
  exact (s.acts_changeRoom r fun h => Room.lawful_posted h c (Nat.not_lt.1 low) _).serve

theorem State.acts_releaseRoom (s : State) (k : SlotIx) (r : RoomIx) : s.Acts (s.releaseRoom k r).state :=
  State.acts_takenIf (fun _ => s.acts_free r) fun _ => State.acts_takenIf
    (fun _ => State.acts_takenIf (fun _ => s.acts_free r) fun _ => .refl s) fun _ => .refl s

theorem comes_amendRoom (p : List Byte) (s : State) : s.Comes (execAmendRoom p s) := by
  refine State.comes_request fun _ t => acts_checked fun _ _ => State.acts_onRoom fun r => ?_
  split
  · next a _ => exact (t.acts_changeRoom r fun h => Room.lawful_amended h a).serve
  · exact .refl t

/-- A list that R44 admits (R43). -/
theorem State.acts_setFloorList_of_some {s : State} {list : List Byte} {members : List LoopIx}
    (h : s.floorListOf list = some members) : s.Acts (s.setFloorList members) := by
  simp only [State.floorListOf, Option.ite_none_right_eq_some, Option.some.injEq] at h
  obtain ⟨⟨short, same, distinct, occupied⟩, rfl⟩ := h
  refine (State.Act.floorList _ (by omega) distinct fun i hi => ?_).acts
  simpa [Loop.occupied] using List.all_eq_true.1 occupied i hi

theorem comes_amendFloor (p : List Byte) (s : State) : s.Comes (execAmendFloor p s) := by
  refine State.comes_request fun _ t => acts_checked fun _ _ => State.acts_takenIf (fun _ => ?_) fun _ => .refl t
  split
  · next members h => exact ((State.acts_setFloorList_of_some h).trans (State.steps_recompute _).acts).serve
  · exact .refl t

theorem comes_leaseExpiry (r : RoomIx) (s : State) : s.Comes (execLeaseExpiry r s) :=
  State.comes_event (State.acts_ite (fun _ => (s.acts_lapse r).serve) fun _ => .refl s)

/-! ### The House Record and the clock -/

theorem State.steps_trimHouse (s : State) (old new : House) : s.Steps (s.trimHouse old new) :=
  State.steps_ite
    (fun _ => s.steps_recountAll.trans ((State.steps_pauseRound _ _).trans (State.steps_pauseRound _ _))) fun _ =>
      State.steps_ite (fun _ => (s.steps_checkTimer .a).trans (State.steps_checkTimer _ .b)) fun _ => .refl s

theorem State.steps_campaignHouse (s : State) (old new : House) : s.Steps (s.campaignHouse old new) :=
  State.steps_ite (fun _ => (s.steps_abandon .a _).trans (State.steps_abandon _ .b _)) fun _ =>
    State.steps_ite (fun _ => (s.steps_checkCampaign .a).trans (State.steps_checkCampaign _ .b)) fun _ => .refl s

/-- After an entry into STANDBY no campaign is open (R161). -/
theorem State.idle_campaignHouse (s : State) {old new : House} (h : old.season ≠ .standby) (g : new.season = .standby)
    (m : Manifold) : ((s.campaignHouse old new).campaign m).state = .idle := by
  have moves : (old.seasonMoves new && decide (new.season = .standby)) = true := by simp [House.seasonMoves, h, g]
  rw [State.campaignHouse, if_pos moves]
  have named : m ∈ [Manifold.a, .b] := by cases m <;> simp
  exact (State.abandoned_abandonAll named (by simp) .season s).idle

theorem State.acts_applyHouse (s : State) (h : House) : s.Acts (s.applyHouse h) := by
  refine (State.Act.house h (?_ : (s.setHouse h).Steps _) fun standby => ?_).acts
  · refine .trans ?_ (State.steps_markHouseIf _ _ _)
    refine .trans ?_ (State.steps_campaignHouse _ _ _)
    exact (State.steps_recomputeIf _ _).trans (State.steps_trimHouse _ _ _)
  · refine or_iff_not_imp_left.2 fun heating m => ?_
    rw [State.applyHouse, State.campaign, State.markHouseIf_campaigns]
    exact State.idle_campaignHouse _ heating standby m

/-- A House Record with the season it had. -/
theorem State.acts_setHouse (s : State) {h : House} (same : h.season = s.house.season) : s.Acts (s.setHouse h) :=
  (State.Act.house h (.refl _) fun w => .inl (same.symm.trans w)).acts

theorem State.acts_amendHouse (s : State) (k : SlotIx) (ps : List Pair) : s.Acts (s.amendHouse k ps).state := by
  refine State.acts_takenIf (fun _ => .refl s) fun _ => State.acts_takenIf (fun _ => .refl s) fun _ => ?_
  split
  · exact (s.acts_applyHouse _).serve
  · exact .refl s

theorem comes_amendHouse (p : List Byte) (s : State) : s.Comes (execAmendHouse p s) :=
  State.comes_request fun k t => acts_checked fun _ _ => State.acts_takenIf (fun _ => t.acts_amendHouse k _) fun _ =>
    State.acts_takenIf (fun _ => .refl t) fun _ => .refl t

theorem House.season_minute (h : House) : h.minute.season = h.season := by
  unfold House.minute
  split <;> rfl

theorem State.acts_leaseTick (s : State) : s.Acts s.leaseTick :=
  State.acts_ite (fun _ => (State.Act.rooms _ fun _ => Room.lawful_minute).acts) fun _ => .refl s

theorem State.acts_counterTick (s : State) : s.Acts s.counterTick :=
  s.acts_mapLoops (fun i l => by split <;> rfl) fun i l => by split <;> rfl

theorem State.acts_timerTick (s : State) (m : Manifold) : s.Acts (s.timerTick m) := (State.Edit.timer m _).steps.acts

theorem State.acts_minuteTick (s : State) : s.Acts s.minuteTick := by
  have ticks := ((s.acts_leaseTick.trans (State.acts_counterTick _)).trans (State.acts_timerTick _ .a)).trans
    (State.acts_timerTick _ .b)
  refine ticks.trans (State.acts_setHouse _ ((House.season_minute _).trans ?_))
  unfold State.leaseTick
  split <;> rfl

theorem State.acts_midnight (s : State) : s.Acts s.midnight := by
  refine (s.acts_setHouse (h := s.house.midnightTaken) rfl).trans ?_
  refine (State.acts_mapLoops _ (f := fun _ l => l.idled) (fun _ _ => rfl) fun _ _ => rfl).trans ?_
  exact (State.steps_forEach _ _ fun t i => t.steps_markLoopIf _ i _).acts

theorem State.acts_exercise (s : State) : s.Acts s.exercise :=
  (s.acts_setHouse (h := s.house.exerciseTaken) rfl).trans (State.steps_forEach _ _ fun t i =>
    State.steps_ite (fun _ => t.steps_want i _) fun _ => .refl t).acts

theorem State.acts_setStorage (s : State) (x : Storage) : s.Acts (s.setStorage x) := (State.Act.storage x).acts

theorem State.acts_takeStore (s : State) : s.Acts s.takeStore :=
  (s.acts_setStorage _).trans (State.steps_markHouse _ _).acts

theorem State.acts_automaticStore (s : State) : s.Acts s.automaticStore :=
  State.acts_ite (fun _ => s.acts_setStorage _) fun _ => s.acts_takeStore

theorem State.acts_storeCompletion (s : State) (agrees : Bool) : s.Acts (s.storeCompletion agrees) := by
  unfold State.storeCompletion
  split
  · next g _ =>
    have written := (s.acts_setStorage (.written g agrees)).trans (State.steps_markHouse _ true).acts
    exact State.acts_ite (fun _ => written.trans (State.acts_takeStore _)) fun _ => written
  · exact .refl s

theorem comes_store (p : List Byte) (s : State) : s.Comes (execStore p s) :=
  State.comes_serviceOrder fun t => State.acts_takenIf (fun _ => .refl t) fun _ => t.acts_takeStore

/-! ### Power-up and loss of supply -/

/-- Only a sound and lawful memory yields an image (R56). -/
theorem NvMemory.examine_eq_some {x : NvMemory} {g : Image} (h : x.examine.2 = some g) :
    x = .sound g ∧ g.lawful = true := by
  cases x with
  | blank => cases h
  | unsound => cases h
  | sound y =>
    simp only [NvMemory.examine] at h
    split at h
    · next lawful =>
      cases h
      exact ⟨rfl, lawful⟩
    · cases h

theorem Image.lawful_loop {g : Image} (h : g.lawful = true) (i : LoopIx) : (g.loops[i]).lawful = true := by
  simp only [Image.lawful, Bool.and_eq_true, List.all_eq_true] at h
  exact h.1.1.1.1 i (List.mem_finRange i)

theorem Image.lawful_floor {g : Image} (h : g.lawful = true) : g.floorList.length ≤ Config.floorCapacity ∧
    g.floorList.Nodup ∧ ∀ i ∈ g.floorList, (g.loops[i]).life ≠ .vacant := by
  simp only [Image.lawful, Bool.and_eq_true] at h
  simpa [Image.floorLawful, and_assoc] using h.1.2

/-- The ceiling of a stored loop lies in its range (R56). -/
theorem ImageLoop.ceiling_of_lawful {l : ImageLoop} (h : l.lawful = true) :
    Config.minCeiling ≤ l.ceiling ∧ l.ceiling ≤ Config.fullStroke := by
  cases life : l.life with
  | vacant =>
    rw [ImageLoop.lawful_vacant life] at h
    subst h
    decide
  | enrolled => exact ((ImageLoop.lawful_enrolled life).1 h).2.2
  | homing | ready | retiring =>
    rw [ImageLoop.lawful, life] at h
    cases h

theorem loadLoop_inRange {x : NvMemory} (heads : Vector Bool 24) (i : LoopIx) :
    (loadLoop x.examine.2 heads i).CeilingInRange := by
  cases found : x.examine.2 with
  | none => exact ⟨Nat.le_of_ble_eq_true rfl, Nat.le_refl _⟩
  | some g => exact ImageLoop.ceiling_of_lawful (Image.lawful_loop (NvMemory.examine_eq_some found).2 i)

theorem State.loop_loaded (s : State) (heads : Vector Bool 24) (line : Bool) (i : LoopIx) :
    (s.loaded heads line).loop i = loadLoop s.storage.afterLoss.examine.2 heads i := by
  simp [State.loop, State.loaded]

theorem State.room_loaded (s : State) (heads : Vector Bool 24) (line : Bool) (r : RoomIx) :
    (s.loaded heads line).room r = loadRoom s.storage.afterLoss.examine.2 r := by
  simp [State.room, State.loaded]

theorem State.loaded_floorLaw (s : State) (heads : Vector Bool 24) (line : Bool) : (s.loaded heads line).FloorLaw := by
  have list : (s.loaded heads line).floorList = loadFloor s.storage.afterLoss.examine.2 := rfl
  simp only [State.FloorLaw, State.loop_loaded, list]
  cases found : s.storage.afterLoss.examine.2 with
  | none => exact ⟨Nat.zero_le _, List.nodup_nil, nofun⟩
  | some g => exact Image.lawful_floor (NvMemory.examine_eq_some found).2

theorem State.queueLaw_of_nil {s : State} (h : s.drive.queue = []) : s.QueueLaw := by
  simp [State.QueueLaw, h]

theorem State.campaignLaw_of_initial {s : State} (h : s.campaigns = State.reset.campaigns) : s.CampaignLaw := by
  have initial : ∀ m, s.campaign m = Campaign.initial := fun m => by
    rw [State.campaign, h]
    cases m <;> rfl
  refine ⟨fun m => ?_, fun _ m => ?_⟩
  · rw [initial]
    simp [Campaign.Lawful, Campaign.initial]
  · rw [initial]
    rfl

theorem State.rosterLaw_of_empty {s : State} (h : s.link = State.reset.link) : s.RosterLaw := by
  intro j k x y hj
  simp [State.slot, h, State.reset] at hj

theorem Room.lawful_of_free {x : Room} (h : x.state = .free) (c : x.claimant = none) (d : x.demand = 0)
    (l : x.leaseRemaining = 0) : x.Lawful := by simp [Room.Lawful, h, c, d, l]

theorem State.loaded_laws (s : State) (heads : Vector Bool 24) (line : Bool) : (s.loaded heads line).Laws where
  queue := State.queueLaw_of_nil rfl
  ceiling i := by
    rw [State.loop_loaded]
    exact loadLoop_inRange heads i
  room r := by
    rw [State.room_loaded]
    cases s.storage.afterLoss.examine.2 <;> exact Room.lawful_of_free rfl rfl rfl rfl
  floor := s.loaded_floorLaw heads line
  campaign := State.campaignLaw_of_initial rfl
  roster := State.rosterLaw_of_empty rfl

theorem State.loop_reset (i : LoopIx) : State.reset.loop i = Loop.vacant := by simp [State.loop, State.reset]

theorem State.room_reset (r : RoomIx) : State.reset.room r = Room.initial := by simp [State.room, State.reset]

theorem State.reset_laws : State.reset.Laws where
  queue := State.queueLaw_of_nil rfl
  ceiling i := by
    rw [State.loop_reset]
    decide
  room r := by
    rw [State.room_reset]
    exact Room.lawful_of_free rfl rfl rfl rfl
  floor := ⟨Nat.zero_le _, List.nodup_nil, nofun⟩
  campaign := State.campaignLaw_of_initial rfl
  roster := State.rosterLaw_of_empty rfl

theorem State.unpowered_laws (s : State) : s.unpowered.Laws :=
  ⟨State.queueLaw_of_nil rfl, State.reset_laws.ceiling, State.reset_laws.room, State.reset_laws.floor,
    State.campaignLaw_of_initial rfl, State.rosterLaw_of_empty rfl⟩

theorem Loop.wakened_ceiling (l : Loop) : l.wakened.ceiling = l.ceiling := by
  unfold Loop.wakened
  split <;> rfl

theorem Loop.wakened_vacant {l : Loop} (h : l.wakened.life = .vacant) : l.life = .vacant := by
  unfold Loop.wakened at h
  split at h
  · cases h
  · exact h

theorem State.acts_powerUp (s : State) (heads : Vector Bool 24) (line : Bool) : s.Acts (s.powerUp heads line) := by
  refine .trans (.trans ?_ (State.steps_serve _).acts) (State.acts_tellWatches _)
  refine .trans ?_ (State.steps_recompute _).acts
  refine .trans ?_ (State.steps_fill _).acts
  refine .trans (State.Act.anew (s := s) (s.loaded_laws heads line) rfl).acts (State.Act.loops _ (fun i h => ?_) fun i => ?_).acts
  · rwa [Loop.CeilingInRange, Loop.wakened_ceiling]
  · exact Loop.wakened_vacant

theorem comes_powerUp (heads : Vector Bool 24) (line : Bool) (s : State) : s.Comes (execPowerUp heads line s) :=
  ⟨_, rfl, s.acts_powerUp heads line, fun _ => rfl⟩

theorem comes_lossOfSupply (s : State) : s.Comes (execLossOfSupply s) :=
  State.comes_powered (State.Act.anew (s := s) s.unpowered_laws rfl).acts fun _ => rfl

end Sys2Proof.Machine
end

section
/-! PROOF. Every command is a chain of acts, continued: the Loop Table, the campaigns, the Drive Queue, the Head Ports, the
scan, the round expiry and the link; then the commands together. -/

namespace Sys2Proof.Machine

/-! ### The Loop Table -/

theorem State.acts_becomeVacant (s : State) (i : LoopIx) : s.Acts (s.becomeVacant i) := by
  obtain ⟨t, before, _, left, after⟩ := s.becomeVacant_parts i
  have vacated : t.Acts (t.modLoop i Loop.vacated) :=
    t.acts_modLoop i (fun _ => ⟨Nat.le_of_ble_eq_true rfl, Nat.le_refl _⟩) fun _ => .inr left
  exact (before.acts.trans vacated).trans after.acts

/-- A lifecycle change other than to VACANT. -/
theorem State.acts_setLife (s : State) (i : LoopIx) {x : Lifecycle} (h : x ≠ .vacant) : s.Acts (s.setLife i x) :=
  (s.acts_modLoop i (f := fun l => l.setLife x) id fun v => absurd v h).trans (State.steps_lifeChanged _ _ _).acts

theorem State.acts_retireReady (s : State) (i : LoopIx) : s.Acts (s.retireReady i) := by
  have retiring : s.Acts (s.modLoop i fun l => l.setLife .retiring) := s.acts_modLoop i id fun v => by cases v
  refine (retiring.trans (State.Steps.acts ?_)).serve
  refine .trans ?_ (State.steps_markLoop _ _ _)
  refine .trans ?_ (State.steps_examineOpening _ _)
  refine .trans ?_ (State.steps_want _ _ _)
  refine .trans ?_ (State.steps_recount _ _)
  exact (State.steps_recompute _).trans (State.steps_coupling _ _)

theorem State.acts_retireLoop (s : State) (i : LoopIx) : s.Acts (s.retireLoop i).state := by
  unfold State.retireLoop
  split
  · exact .refl s
  · exact .refl s
  · exact State.acts_done (s.acts_becomeVacant i).serve
  · exact State.acts_takenIf (fun _ => State.acts_done (s.acts_setLife i (by decide)).serve) fun _ =>
      State.acts_done (s.acts_becomeVacant i).serve
  · exact State.acts_takenIf (fun _ => State.acts_done (s.acts_retireReady i)) fun _ =>
      State.acts_done (s.acts_becomeVacant i).serve

/-- A ceiling laid out by length lies in its range where the length is at most the longest (R17). -/
theorem ceilingByLength_inRange {length : Option Nat} {longest : Nat} (h : ∀ n, length = some n → n ≤ longest) :
    Config.minCeiling ≤ ceilingByLength length longest ∧ ceilingByLength length longest ≤ Config.fullStroke := by
  cases length with
  | none => exact ⟨Nat.le_of_ble_eq_true rfl, Nat.le_refl _⟩
  | some n =>
    refine ⟨le_max_left _ _, max_le (Nat.le_of_ble_eq_true rfl) (Nat.div_le_of_le_mul ?_)⟩
    rw [Nat.mul_comm]
    exact Nat.mul_le_mul_right _ (h n rfl)

theorem State.acts_enrol (s : State) (i : LoopIx) (room : Option RoomIx) (length : Option Nat) (covering : Nat) :
    s.Acts (s.enrol i room length covering) := by
  refine (State.Acts.trans (s.acts_modLoop i (f := fun l =>
    l.enrolled room length covering (ceilingByLength length (s.longestWith i length))) ?_ ?_) (State.Steps.acts ?_)).serve
  · refine fun _ => ceilingByLength_inRange fun n e => ?_
    simp [State.longestWith, e]
  · simp only [Loop.enrolled]
    split <;> nofun
  · refine .trans ?_ (State.steps_markRoomOf _ _)
    refine .trans ?_ (State.steps_tellHead _ _ _)
    refine .trans ?_ (State.steps_coupling _ _)
    refine .trans ?_ (State.steps_lifeChanged _ _ _)
    exact (State.steps_voidBalance _ _).trans (State.steps_wantHomeIf _ _ _)

theorem State.acts_enrolLoop (s : State) (x : EnrolRequest) (i : LoopIx) : s.Acts (s.enrolLoop x i).state := by
  refine State.acts_takenIf (fun _ => .refl s) fun _ => ?_
  split
  · exact .refl s
  · exact State.acts_takenIf (fun _ => State.acts_takenIf (fun _ => s.acts_enrol i _ _ _) fun _ => .refl s)
      fun _ => .refl s

/-- A number of a list is at most the greatest of them. -/
theorem le_foldl_max {n : Nat} {l : List Nat} (h : n ∈ l) (b : Nat) : n ≤ l.foldl max b := by
  induction l generalizing b with
  | nil => cases h
  | cons a l ih =>
    rcases List.mem_cons.1 h with rfl | h
    · exact (le_max_right b n).trans (List.foldl_max_le_init (max b n))
    · exact ih h _
where
  List.foldl_max_le_init {l : List Nat} (b : Nat) : b ≤ l.foldl max b := by
    induction l generalizing b with
    | nil => exact Nat.le_refl b
    | cons a l ih => exact (le_max_left b a).trans (ih _)

theorem State.le_longest {s : State} {i : LoopIx} {n : Nat} (o : (s.loop i).occupied = true)
    (h : (s.loop i).length = some n) : n ≤ s.longest (manifoldOf i) := by
  refine le_foldl_max (List.mem_map.2 ⟨i, (mem_loopsOf _ i).2 rfl, ?_⟩) 0
  simp [o, h]

theorem State.acts_layOut (s : State) (m : Manifold) : s.Acts (s.layOut m) := by
  refine (State.Act.loops _ (fun i h => ?_) fun i v => ?_).acts
  · split
    · next w =>
      obtain ⟨rfl, occupied⟩ := w
      exact ceilingByLength_inRange fun n e => State.le_longest occupied e
    · exact h
  · split at v <;> exact v

theorem State.acts_preset (s : State) (m : Manifold) : s.Acts (s.preset m) := by
  refine ((s.acts_layOut m).trans (State.Steps.acts ?_)).serve
  refine .trans ?_ (State.steps_forEach _ _ fun t i => t.steps_markLoopIf _ i _)
  exact (State.steps_recompute _).trans (State.steps_coupling _ _)

theorem State.acts_presetManifold (s : State) (m : Manifold) : s.Acts (s.presetManifold m).state :=
  State.acts_takenIf (fun _ => .refl s) fun _ => State.acts_takenIf (fun _ => s.acts_preset m) fun _ => .refl s

/-- A ceiling that the pairs of an AMEND give lies in its range (R21, R23). -/
theorem LoopAmend.ceiling_add {a b : LoopAmend} {p : Pair} (h : a.add p = some b)
    (r : ∀ n, a.ceiling = some n → Config.minCeiling ≤ n ∧ n ≤ Config.fullStroke) :
    ∀ n, b.ceiling = some n → Config.minCeiling ≤ n ∧ n ≤ Config.fullStroke := by
  intro n e
  unfold LoopAmend.add at h
  split at h
  case h_4 =>
    split at h
    · next w =>
      cases h
      cases e
      exact w
    · cases h
  all_goals
    repeat' split at h
    all_goals cases h
    all_goals exact r n e

theorem loopAmend_ceiling {ps : List Pair} {a : LoopAmend} (h : loopAmend ps = some a) :
    ∀ n, a.ceiling = some n → Config.minCeiling ≤ n ∧ n ≤ Config.fullStroke := by
  unfold loopAmend at h
  split at h
  · suffices key : ∀ (ps : List Pair) (x : Option LoopAmend),
        (∀ y, x = some y → ∀ n, y.ceiling = some n → Config.minCeiling ≤ n ∧ n ≤ Config.fullStroke) →
          ∀ y, ps.foldl (fun a p => a.bind fun x => x.add p) x = some y →
            ∀ n, y.ceiling = some n → Config.minCeiling ≤ n ∧ n ≤ Config.fullStroke from
      key ps (some .empty) (fun y e n c => by cases e; cases c) a h
    intro ps
    induction ps with
    | nil => exact fun x r => r
    | cons p ps ih =>
      refine fun x r => ih _ fun y e => ?_
      obtain ⟨z, hz, add⟩ := Option.bind_eq_some_iff.1 e
      exact LoopAmend.ceiling_add add (r z hz)
  · cases h

theorem LoopAmend.apply_inRange {a : LoopAmend}
    (r : ∀ n, a.ceiling = some n → Config.minCeiling ≤ n ∧ n ≤ Config.fullStroke) {l : Loop} (h : l.CeilingInRange) :
    (a.apply l).CeilingInRange := by
  cases e : a.ceiling with
  | none => simpa [Loop.CeilingInRange, LoopAmend.apply, e] using h
  | some n => simpa [Loop.CeilingInRange, LoopAmend.apply, e] using r n e

theorem LoopAmend.apply_vacant {a : LoopAmend} {l : Loop} (h : (a.apply l).life = .vacant) : l.life = .vacant := by
  simp only [LoopAmend.apply] at h
  split at h
  · cases h
  · exact h

theorem State.acts_amended (s : State) (i : LoopIx) {a : LoopAmend}
    (r : ∀ n, a.ceiling = some n → Config.minCeiling ≤ n ∧ n ≤ Config.fullStroke) : s.Acts (s.amended i a) := by
  have applied : s.Acts (s.setLoop i (a.apply (s.loop i))) :=
    s.acts_modLoop i (f := a.apply) (LoopAmend.apply_inRange r) fun v => .inl (LoopAmend.apply_vacant v)
  exact State.acts_ite (fun _ => applied.trans (State.steps_voidBalance _ _).acts) fun _ => applied

theorem State.acts_amendLoop (s : State) (i : LoopIx) {a : LoopAmend}
    (r : ∀ n, a.ceiling = some n → Config.minCeiling ≤ n ∧ n ≤ Config.fullStroke) : s.Acts (s.amendLoop i a) := by
  refine ((s.acts_amended i r).trans (State.Steps.acts ?_)).serve
  refine .trans ?_ (State.steps_markRooms _ _ _)
  refine .trans ?_ (State.steps_markLoopIf _ _ _ _)
  refine .trans ?_ (State.steps_recountIf _ _ _)
  refine .trans ?_ (State.steps_couplingIf _ _ _)
  exact (State.steps_wantHomeIf _ _ _).trans (State.steps_recomputeIf _ _)

theorem State.acts_amendLoopBy (s : State) (ps : List Pair) (i : LoopIx) : s.Acts (s.amendLoopBy ps i).state := by
  unfold State.amendLoopBy
  split
  · exact .refl s
  · exact .refl s
  · split
    · exact .refl s
    · next a h => exact State.acts_takenIf (fun _ => .refl s) fun _ => s.acts_amendLoop i (loopAmend_ceiling h)

/-! ### Campaigns -/

/-- The start of a campaign in HEATING (R151). -/
theorem State.acts_startCampaign {s : State} (h : s.house.season = .heating) (m : Manifold) :
    s.Acts (s.startCampaign m) := by
  have lawful : (⟨.opening, none, 0, .none, none⟩ : Campaign).Lawful := by simp [Campaign.Lawful]
  refine (State.Act.campaign m _ lawful (.inr h)).acts.trans (State.Steps.acts ?_)
  refine .trans ((State.steps_recompute _).trans ?_) (State.steps_markHouse _ _)
  have opened : ((s.setCampaign m ⟨.opening, none, 0, .none, none⟩).recompute.campaign m).state ≠ .idle := by
    rw [State.campaign, (State.quiet_recompute _).campaigns, ← State.campaign, State.campaign_setCampaign]
    nofun
  exact State.steps_ite (fun _ => State.steps_suspend _ _ _ opened) fun _ => State.steps_endOpening _ _ opened

theorem State.acts_startAll {s : State} (h : s.house.season = .heating) (ms : List Manifold) :
    s.Acts (s.forEach ms State.startCampaign) := by
  have pass := State.forEach_keeps (P := fun t => s.Acts t ∧ t.house.season = .heating) (f := State.startCampaign)
    (fun t m p => ⟨p.1.trans (State.acts_startCampaign p.2 m), by rw [(t.mild_startCampaign m).house, p.2]⟩) ms s
    ⟨.refl s, h⟩
  exact pass.1

theorem State.acts_startCampaigns (s : State) (ms : List Manifold) : s.Acts (s.startCampaigns ms).state := by
  refine State.acts_takenIf (fun _ => .refl s) fun free => State.acts_takenIf (fun _ => ?_) fun _ => .refl s
  have heating : s.house.season = .heating := by
    cases season : s.house.season with
    | heating => rfl
    | standby => exact absurd (Or.inl season) free
  exact (State.acts_startAll heating ms).serve

theorem State.acts_cancelCampaigns (s : State) (ms : List Manifold) : s.Acts (s.cancelCampaigns ms).state :=
  State.acts_takenIf (fun _ => (State.steps_forEach _ _ fun t m => t.steps_abandon m _).acts.serve) fun _ => .refl s

/-! ### The Drive Queue -/

theorem State.acts_hold (s : State) : s.Acts s.hold.state := by
  unfold State.hold
  split
  · exact State.acts_takenIf (fun _ => (s.steps_setDriveState _).acts) fun _ => (s.steps_setDriveState _).acts
  · exact .refl s
  · exact .refl s

theorem State.acts_stop (s : State) (n : Nat) : s.Acts (s.stop n).state := by
  unfold State.stop
  split
  · exact State.acts_takenIf (fun _ => .refl s) fun _ => (s.steps_moveStopped _ n).acts
  · exact (s.steps_setDriveState _).acts

theorem State.steps_dwellOver (s : State) : s.Steps s.dwellOver :=
  (State.Edit.dwell none).steps.trans (State.steps_tellIdle _ _)

/-- Every waiting entry removed, the oldest first. -/
theorem State.steps_setQueue_nil (s : State) : s.Steps (s.setQueue []) := by
  suffices key : ∀ (q : List Entry) (t : State), t.drive.queue = q → t.Steps (t.setQueue []) from key _ s rfl
  intro q
  induction q with
  | nil =>
    intro t h
    have same : t.setQueue [] = t := by rw [← h]; rfl
    exact same ▸ .refl t
  | cons e rest ih => exact fun t h => (State.Edit.pop e rest h).steps.trans (ih (t.setQueue rest) rfl)

theorem State.steps_clearQueue (s : State) : s.Steps s.clearQueue := by
  refine .trans ?_ (State.steps_tellIdle _ _)
  refine .trans ?_ (State.steps_forEach _ _ fun t i => t.steps_tellWork s i)
  refine s.steps_setQueue_nil.trans (State.steps_mapLoops _ (fun i l => ?_) (fun i l => ?_) fun i l => ?_)
  · split <;> exact ⟨rfl, rfl, rfl, rfl, rfl, rfl⟩
  · split <;> rfl
  · split <;> rfl

theorem Loop.restarted_ceiling (l : Loop) (b : Bool) : (l.restarted b).ceiling = l.ceiling := by
  unfold Loop.restarted
  repeat' split
  all_goals rfl

/-- What RESTART leaves of the lifecycle state: VACANT and RETIRING stay, and so does every state where the head is away
or moving (R28, R170). -/
theorem Loop.restarted_life (l : Loop) (b : Bool) :
    (l.restarted b).life = l.life ∨
      l.life ≠ .vacant ∧ l.present = true ∧ (l.restarted b).life = if l.life = .retiring then .retiring else .homing := by
  by_cases v : l.life = .vacant
  · exact .inl (by rw [Loop.restarted, if_pos v])
  · rw [Loop.restarted, if_neg v]
    split
    · exact .inl rfl
    · split
      · next p => exact .inr ⟨v, p, rfl⟩
      · exact .inl rfl

theorem Loop.restarted_vacant {l : Loop} {b : Bool} (h : (l.restarted b).life = .vacant) : l.life = .vacant := by
  rcases l.restarted_life b with same | ⟨_, _, other⟩
  · exact same.symm.trans h
  · rw [other] at h
    split at h <;> cases h

theorem State.acts_allRestarted (s : State) : s.Acts s.allRestarted :=
  (State.Act.loops _ (fun i h => by rwa [Loop.CeilingInRange, Loop.restarted_ceiling]) fun _ => Loop.restarted_vacant).acts

theorem State.acts_rehome (s : State) : s.Acts s.rehome := by
  refine s.acts_allRestarted.trans (State.Steps.acts ?_)
  refine .trans ?_ (State.steps_forEach _ _ fun t i =>
    (t.steps_markLoopIf _ i _).trans (State.steps_markLoopIf _ _ i _))
  refine .trans ?_ (State.steps_fill _)
  refine .trans ?_ (State.steps_recountAll _)
  refine .trans ?_ (State.steps_couplingIf _ _ _)
  refine .trans ?_ (State.steps_couplingIf _ _ _)
  exact (State.steps_forEach _ _ fun t i => t.steps_tellWork _ i).trans (State.steps_recompute _)

theorem State.acts_restartLeases (s : State) : s.Acts s.restartLeases :=
  s.acts_forEach _ fun t r =>
    State.acts_ite (fun c => t.acts_changeRoom r fun h => Room.lawful_leased h c _) fun _ => .refl t

theorem State.acts_restart (s : State) : s.Acts s.restart := by
  refine .trans ?_ ((State.steps_pauseRound _ _).trans (State.steps_pauseRound _ _)).acts
  refine .trans (State.Acts.serve ?_) (State.acts_restartLeases _)
  refine .trans (State.Steps.acts ?_) (State.acts_rehome _)
  refine .trans ?_ (State.steps_setDriveState _ _)
  refine .trans ?_ (State.steps_clearQueue _)
  exact (s.steps_abandon _ _).trans (State.steps_abandon _ _ _)

/-! ### The Head Ports -/

theorem State.acts_insertOccupied (s : State) (i : LoopIx) : s.Acts (s.insertOccupied i) := by
  refine (s.acts_modLoop i (f := fun l => (l.fitted.setLife l.life.inserted).setFaults (l.faults.withChanged true)) id
    fun v => .inl ?_).trans (State.Steps.acts ?_)
  · simp only [Loop.setFaults, Loop.setLife] at v
    cases life : (s.loop i).life <;> rw [life] at v <;> cases v
  · refine .trans ?_ (State.steps_tellHead _ _ _)
    refine .trans ?_ (State.steps_lifeChanged _ _ _)
    refine .trans ?_ (State.steps_markLoopIf _ _ _ _)
    exact (State.steps_wantHome _ _).trans (State.steps_voidBalance _ _)

theorem State.acts_insert (s : State) (i : LoopIx) : s.Acts (s.insert i) :=
  State.acts_ite (fun _ => .refl s) fun _ => State.acts_ite (fun _ => (s.acts_insertOccupied i).serve) fun _ =>
    (s.acts_modLoop i (f := Loop.fitted) id .inl).trans (State.steps_tellHead _ _ _).acts

theorem State.steps_lifeBared (s : State) (i : LoopIx) : s.Steps (s.lifeBared i) := by
  unfold State.lifeBared
  split
  · next h => exact s.steps_becomeVacant i h
  · next h => exact s.steps_setLife i _ (by rw [h]; nofun) nofun nofun
  · next h => exact s.steps_setLife i _ (by rw [h]; nofun) nofun nofun
  · exact .refl s
  · exact .refl s

theorem State.steps_headLost (s : State) (i : LoopIx) : s.Steps (s.headLost i) := by
  unfold State.headLost
  split
  · exact State.steps_ite (fun _ => s.steps_takeEnd _ _ _ _) fun _ => .refl s
  · exact .refl s

theorem State.acts_remove (s : State) (i : LoopIx) : s.Acts (s.remove i) := by
  refine State.acts_ite (fun _ => State.Acts.serve ?_) fun _ => .refl s
  refine .trans ((s.steps_headLost i).trans (State.steps_dropWork _ i)).acts ?_
  refine .trans (State.acts_modLoop _ i (f := Loop.bared) id .inl) (State.Steps.acts ?_)
  refine .trans ?_ (State.steps_tellHead _ _ _)
  refine .trans ?_ (State.steps_fill _)
  refine .trans ?_ (State.steps_coupling _ _)
  exact (State.steps_recount _ _).trans (State.steps_lifeBared _ _)

theorem comes_onMove {s : State} {f : State → Move → State} (h : ∀ m, s.Steps (f s m)) : s.Comes (onMove s f) := by
  refine State.comes_event ?_
  split
  · next m _ => exact (h m).acts
  · exact .refl s

theorem State.steps_legReached (s : State) (m : Move) : s.Steps (s.legReached m) :=
  State.steps_ite (fun _ => .refl s) fun _ => (s.steps_atStep m _).trans (State.steps_legDone _ m _ _)

theorem State.steps_homeEndStop (s : State) (m : Move) (stop : EndStop) (n : Nat) : s.Steps (s.homeEndStop m stop n) := by
  unfold State.homeEndStop
  split
  · exact State.steps_ite (fun _ => (State.Edit.moving _).steps) fun _ => .refl s
  · exact State.steps_ite (fun _ => s.steps_homeFailed m _ _) fun _ =>
      State.steps_ite (fun _ => s.steps_homeDone m n) fun _ => .refl s
  · exact .refl s
  · exact .refl s

theorem State.steps_legEndStop (s : State) (m : Move) (stop : EndStop) (n : Nat) : s.Steps (s.legEndStop m stop n) := by
  unfold State.legEndStop
  split <;>
    exact State.steps_ite (fun _ => (s.steps_atStep m _).trans (State.steps_legDone _ m _ _)) fun _ => .refl s

/-! ### The scan -/

theorem State.newsOf_ceiling (before after : State) (i : LoopIx) (l : Loop) :
    (before.newsOf after i l).ceiling = l.ceiling := by
  unfold State.newsOf
  repeat' split
  all_goals rfl

theorem State.newsOf_life (before after : State) (i : LoopIx) (l : Loop) :
    (before.newsOf after i l).life = l.life := by
  unfold State.newsOf
  repeat' split
  all_goals rfl

theorem State.steps_supplyNews (s before after : State) (m : Manifold) : s.Steps (s.supplyNews before after m) :=
  State.steps_ite (fun _ => s.steps_checkTimer m) fun _ => State.steps_ite (fun _ => s.steps_coupling m) fun _ => .refl s

theorem State.steps_supplyCampaign (s before after : State) (m : Manifold) :
    s.Steps (s.supplyCampaign before after m) :=
  State.steps_ite (fun _ => s.steps_checkCampaign m) fun _ => .refl s

theorem State.steps_markManifoldIf (s : State) (c : Bool) (m : Manifold) : s.Steps (s.markManifoldIf c m) :=
  State.steps_ite (fun _ => s.steps_mark _ _ _) fun _ => .refl s

theorem State.steps_markManifold (s before after : State) (m : Manifold) : s.Steps (s.markManifold before after m) :=
  (s.steps_markManifoldIf _ m).trans (State.steps_markManifoldIf _ _ m)

theorem State.steps_tellNews (t before after : State) (i : LoopIx) : t.Steps (t.tellNews before after i) :=
  ((t.steps_markLoopIf _ i _).trans (State.steps_markLoopIf _ _ i _)).trans (State.steps_markLoopIf _ _ i _)

theorem State.acts_scanned (s : State) (samples : Vector (Option Int) 28) : s.Acts (s.scanned samples) := by
  refine .trans (t := s.setChannels (s.sampled samples)) (State.Act.channels _).acts ?_
  unfold State.scanned
  generalize s.setChannels (s.sampled samples) = t
  exact State.acts_mapLoops _ (fun i l => by rfl) fun _ _ => by rfl

theorem State.steps_scannedRefs (s before after : State) :
    s.Steps ((s.setSupplyRef .a (before.scannedRef after .a)).setSupplyRef .b (before.scannedRef after .b)) :=
  (State.Edit.supplyRef .a _).steps.trans (State.Edit.supplyRef .b _).steps

theorem State.acts_scan (s : State) (samples : Vector (Option Int) 28) : s.Acts (s.scan samples) := by
  refine .trans (s.acts_scanned samples) ?_
  refine .trans (State.steps_scannedRefs _ s (s.scanned samples)).acts ?_
  refine .trans (State.acts_mapLoops _ (f := s.newsOf (s.scanned samples)) (State.newsOf_ceiling _ _)
    (State.newsOf_life _ _)) (State.Steps.acts ?_)
  refine .trans ?_ (State.steps_markManifold _ _ _ .b)
  refine .trans ?_ (State.steps_markManifold _ _ _ .a)
  refine .trans ?_ (State.steps_forEach _ _ fun t i => t.steps_tellNews _ _ i)
  refine .trans ?_ (State.steps_supplyCampaign _ _ _ .b)
  refine .trans ?_ (State.steps_supplyCampaign _ _ _ .a)
  exact (State.steps_supplyNews _ _ _ .a).trans (State.steps_supplyNews _ _ _ .b)

/-! ### The round expiry -/

/-- A claimed ceiling lies in its range where the loop's own does (R138). -/
theorem judge_claim_inRange {ceiling inBand design deadband : Nat} {dt : Int} {n : Nat}
    (h : (judge ceiling inBand dt design deadband).claim = some n)
    (r : Config.minCeiling ≤ ceiling ∧ ceiling ≤ Config.fullStroke) :
    Config.minCeiling ≤ n ∧ n ≤ Config.fullStroke := by
  simp only [Config.minCeiling, Config.fullStroke] at r ⊢
  simp only [judge] at h
  split at h
  · cases h
  · split at h <;> split at h <;> cases h <;> simp only [Config.minCeiling, Config.fullStroke] <;> omega

theorem State.claimOn_inRange {s : State} {m : Manifold} {i : LoopIx} {n : Nat} (h : s.claimOn m i = some n)
    (r : (s.loop i).CeilingInRange) : Config.minCeiling ≤ n ∧ n ≤ Config.fullStroke := by
  obtain ⟨v, verdict, claim⟩ := Option.bind_eq_some_iff.1 h
  simp only [State.verdict] at verdict
  repeat' split at verdict
  all_goals cases verdict
  · cases claim
  · exact judge_claim_inRange claim r

theorem State.acts_takeClaim (s : State) (i : LoopIx) {n : Nat}
    (r : (s.loop i).CeilingInRange → Config.minCeiling ≤ n ∧ n ≤ Config.fullStroke) : s.Acts (s.takeClaim i n) := by
  refine State.acts_ite (fun _ => ?_) fun _ => .refl s
  refine (s.acts_modLoop i (f := fun l => l.setCeiling n) r .inl).trans (State.Steps.acts ?_)
  refine .trans ?_ (State.steps_markLoop _ _ _)
  exact (State.steps_recompute _).trans (State.steps_recount _ _)

/-- A claim taken on one loop leaves every other loop's ceiling as it was. -/
theorem State.ceiling_takeClaim_ne (s : State) {i j : LoopIx} (h : j ≠ i) (n : Nat) :
    ((s.takeClaim i n).loop j).ceiling = (s.loop j).ceiling := by
  unfold State.takeClaim
  split
  · have quiet := (State.quiet_recompute (s.modLoop i fun l => l.setCeiling n)).trans
      ((State.quiet_recount _ i).trans (State.quiet_markLoop _ i false))
    rw [((quiet.loops j).config).ceiling, State.loop_modLoop_ne _ h]
  · rfl

/-- The claims of a round, each taken once, from a state whose ceilings are those that were judged. -/
theorem State.acts_takeClaims {s before : State} {m : Manifold}
    (h : ∀ i, (s.loop i).ceiling = (before.loop i).ceiling) : s.Acts (s.takeClaims before m) := by
  have distinct : (loopsOf m).Nodup := (List.nodup_finRange 24).filter _
  suffices key : ∀ (l : List LoopIx), l.Nodup → ∀ t : State, (∀ i ∈ l, (t.loop i).ceiling = (before.loop i).ceiling) →
      t.Acts (t.forEach l fun t i =>
        match before.claimOn m i with
        | some c => t.takeClaim i c
        | none => t) from key _ distinct s fun i _ => h i
  intro l
  induction l with
  | nil => exact fun _ t _ => .refl t
  | cons i l ih =>
    intro distinct t same
    rw [List.nodup_cons] at distinct
    have rest : ∀ u : State, (∀ j, j ≠ i → (u.loop j).ceiling = (t.loop j).ceiling) →
        ∀ j ∈ l, (u.loop j).ceiling = (before.loop j).ceiling := fun u kept j hj =>
      (kept j fun e => distinct.1 (e ▸ hj)).trans (same j (List.mem_cons_of_mem _ hj))
    change t.Acts (State.forEach (match before.claimOn m i with
      | some c => t.takeClaim i c
      | none => t) l _)
    split
    · next n claim =>
      refine (t.acts_takeClaim i fun r => State.claimOn_inRange claim ?_).trans
        (ih distinct.2 _ (rest _ fun j w => t.ceiling_takeClaim_ne w n))
      rwa [Loop.CeilingInRange, ← same i List.mem_cons_self]
    · exact ih distinct.2 t (rest t fun _ _ => rfl)

theorem State.judged_ceiling (s : State) (m : Manifold) (i : LoopIx) :
    ((s.judged m).loop i).ceiling = (s.loop i).ceiling := by
  rw [State.judged, State.loop_mapLoops]
  repeat' split
  all_goals rfl

theorem State.acts_judged (s : State) (m : Manifold) : s.Acts (s.judged m) := by
  refine s.acts_mapLoops (fun i l => ?_) fun i l => ?_ <;> repeat' split
  all_goals rfl

/-- A campaign back at IDLE with an outcome that is no abandonment (R158). -/
theorem State.acts_returnToIdle (s : State) (m : Manifold) {o : LastOutcome} (h : o ≠ .abandoned) :
    s.Acts (s.returnToIdle m o none) := by
  have lawful : ((s.campaign m).closed o none).Lawful := by simp [Campaign.Lawful, Campaign.closed, h]
  refine .trans (State.Act.campaign m _ lawful (.inl rfl)).acts (State.Steps.acts ?_)
  exact (State.steps_checkTimerIf _ _ _).trans (State.steps_recompute _)

theorem State.acts_endCampaign (s : State) (m : Manifold) {o : LastOutcome} (h : o ≠ .abandoned) :
    s.Acts (s.endCampaign m o) :=
  ((s.acts_returnToIdle m h).trans (State.acts_automaticStore _)).trans (State.steps_markHouse _ _).acts

theorem State.acts_decideRound (s : State) (m : Manifold) : s.Acts (s.decideRound m) :=
  State.acts_ite (fun _ => (s.steps_abandon m _).acts) fun _ =>
    State.acts_ite (fun _ => s.acts_endCampaign m (by decide)) fun _ =>
      State.acts_ite (fun _ => s.acts_endCampaign m (by decide)) fun _ => (s.steps_markHouse _).acts

theorem State.acts_countRound (s : State) (m : Manifold) : s.Acts (s.countRound m) :=
  State.acts_ite (fun _ => (State.Edit.campaign m _ .counted).steps.acts.trans (State.acts_decideRound _ m)) fun _ =>
    .refl s

theorem State.acts_clearChanged (s before : State) (m : Manifold) : s.Acts (s.clearChanged before m) := by
  refine .trans (s.acts_mapLoops (fun i l => ?_) fun i l => ?_)
    (State.steps_forEach _ _ fun t i => t.steps_markLoopIf _ i _).acts
  · split <;> rfl
  · split <;> rfl

theorem State.steps_markVerdicts (s before : State) (m : Manifold) : s.Steps (s.markVerdicts before m) := by
  refine State.steps_forEach _ _ fun t i => ?_
  split
  · exact t.steps_markLoopIf _ i _
  · exact .refl t

theorem State.acts_roundOver (s : State) (m : Manifold) : s.Acts (s.roundOver m) := by
  have judged := (s.acts_judged m).trans (State.steps_roundStart (s.judged m) m true).acts
  have same : ∀ i, (((s.judged m).roundStart m true).loop i).ceiling = (s.loop i).ceiling := fun i => by
    rw [State.roundStart, State.loop_setSupplyRef, State.loop_setTimer, State.judged_ceiling]
  have claimed := judged.trans (State.acts_takeClaims (m := m) same)
  have coupled := claimed.trans (State.steps_couplingIf _ (s.claimTaken m) m).acts
  have counted := (coupled.trans (State.acts_clearChanged _ s m)).trans (State.acts_countRound _ m)
  exact counted.trans (State.steps_markVerdicts _ s m).acts

/-! ### The link -/

theorem State.acts_sendPoll (s : State) : s.Acts s.sendPoll := by
  unfold State.sendPoll
  split
  · split
    · exact ((s.acts_setWindow _).trans (State.acts_setCursor _ _)).trans (State.acts_setSent _ _)
    · exact .refl s
  · exact ((s.acts_setWindow _).trans (State.acts_setCursor _ _)).trans (State.acts_setSent _ _)

theorem State.acts_answerCorrupt (s : State) (k : SlotIx) : s.Acts (s.answerCorrupt k) := by
  unfold State.answerCorrupt
  split
  · exact (s.acts_setWindow _).trans (State.acts_setSent _ _)
  · exact s.acts_setWindow _

theorem State.answerCorrupt_reports (s : State) (k : SlotIx) : (s.answerCorrupt k).reports = s.reports := by
  unfold State.answerCorrupt
  split <;> rfl

theorem comes_corrupt (s : State) : s.Comes (reply s fun k _ t => t.answerCorrupt k) :=
  State.comes_reply (fun k _ _ => s.acts_answerCorrupt k) fun k _ r => (s.answerCorrupt_reports k).trans r

theorem State.addressHeld_eq_false {s : State} {address : Nat} (h : s.addressHeld address = false) {k : SlotIx}
    {x : Slot} (e : s.slot k = some x) : x.address ≠ address := by
  rw [State.addressHeld, List.any_eq_false] at h
  have free := h k (List.mem_finRange k)
  rw [e] at free
  simpa using free

/-- A slot taken by a station whose address no slot holds (R177). -/
theorem State.acts_joined {s : State} {address : Nat} (h : s.addressHeld address = false) (k : SlotIx) {x : Slot}
    (a : x.address = address) : s.Acts (s.setSlot k (some x)) := by
  refine (State.Act.link (s.setSlot k (some x)).link fun law => ?_).acts
  change (s.setSlot k (some x)).RosterLaw
  have fresh : ∀ j y, s.slot j = some y → y.address ≠ x.address := fun j y e =>
    a ▸ State.addressHeld_eq_false h e
  intro i j y z hi hj same
  rw [State.slot_setSlot] at hi hj
  split at hi <;> split at hj
  · next e f => exact e.symm.trans f
  · cases hi
    exact absurd same.symm (fresh j z hj)
  · cases hj
    exact absurd same (fresh i y hi)
  · exact law i j y z hi hj same

theorem State.acts_takeJoin (s : State) (kind : StationKind) (address : Nat) : s.Acts (s.takeJoin kind address) := by
  refine State.acts_ite (fun _ => .refl s) fun free => ?_
  split
  · exact (State.acts_joined (Bool.not_eq_true _ ▸ free) _ rfl).trans (State.acts_setSent _ _)
  · exact .refl s

theorem State.takeJoin_reports (s : State) (kind : StationKind) (address : Nat) :
    (s.takeJoin kind address).reports = s.reports := by
  unfold State.takeJoin
  repeat' split
  all_goals rfl

theorem comes_join (kind : StationKind) (address : Nat) (s : State) : s.Comes (execJoin kind address s) := by
  refine State.comes_powered (State.acts_ite (fun _ => .refl s) fun _ => ?_) fun r => ?_
  · split
    · exact .refl s
    · exact (s.acts_takeJoin kind address).trans (State.acts_openCallOver _)
    · exact s.acts_answerCorrupt _
  · repeat' split
    · exact r
    · exact r
    · exact (s.takeJoin_reports kind address).trans r
    · exact (s.answerCorrupt_reports _).trans r

theorem State.acts_lapseRoomsOf (s : State) (k : SlotIx) : s.Acts (s.lapseRoomsOf k) :=
  s.acts_forEach _ fun t r => State.acts_ite (fun _ => t.acts_lapse r) fun _ => .refl t

theorem State.acts_lapseRooms (s : State) : s.Acts s.lapseRooms :=
  s.acts_forEach _ fun t r => State.acts_ite (fun _ => t.acts_lapse r) fun _ => .refl t

theorem State.steps_releaseDrive (s : State) (k : SlotIx) : s.Steps (s.releaseDrive k) :=
  State.steps_ite (fun _ => s.steps_setDriveState _) fun _ => .refl s

theorem State.acts_freeSlot {s : State} {k : SlotIx} {x y : Slot} (h : s.slot k = some y)
    (a : x.address = y.address) : s.Acts (s.freeSlot k x) := by
  refine State.Acts.serve (.trans ?_ (State.acts_clearSlot _ k))
  refine .trans ?_ (State.steps_releaseDrive _ k).acts
  exact (State.acts_setSlot (y := x.unwatched) h a).trans (State.acts_lapseRoomsOf _ k)

theorem State.acts_windowExpiry (s : State) : s.Acts s.windowExpiry := by
  unfold State.windowExpiry
  split
  · exact .refl s
  · exact s.acts_openCallOver
  · split
    · next k _ x h =>
      refine State.acts_ite (fun _ => ?_) fun _ => ?_
      · exact (s.acts_setWindow _).trans (State.acts_freeSlot (y := x) h rfl)
      · exact (s.acts_setWindow _).trans (State.acts_setSlot (x := x) h rfl)
    · exact s.acts_setWindow _

theorem State.acts_linkRestart (s : State) : s.Acts s.linkRestart := by
  refine State.Acts.serve (.trans (.trans ?_ (State.acts_lapseRooms _)) (State.acts_emptyRoster _))
  exact ((s.acts_mapSlots (f := Slot.unwatched) fun _ => rfl).trans (State.acts_setWindow _ _)).trans
    (State.acts_setBreak _ _)

theorem State.acts_setWatch (s : State) (k : SlotIx) (w : Watch) : s.Acts (s.setWatch k w).state := by
  unfold State.setWatch
  split
  · next x h =>
    refine State.acts_takenIf (fun _ => .refl s) fun _ => State.acts_takenIf (fun _ => .refl s) fun _ => ?_
    exact State.acts_setSlot h rfl
  · exact .refl s

theorem State.acts_clearWatch (s : State) (k : SlotIx) (w : Watch) : s.Acts (s.clearWatch k w).state := by
  unfold State.clearWatch
  split
  · next x h => exact State.acts_takenIf (fun _ => State.acts_setSlot h rfl) fun _ => .refl s
  · exact .refl s

/-! ### Events -/

theorem comes_poll (s : State) : s.Comes (execPoll s) := by
  unfold execPoll
  exact State.comes_event (State.acts_ite (fun _ => s.acts_sendPoll) fun _ => .refl s)

theorem comes_windowExpiry (s : State) : s.Comes (execWindowExpiry s) := by
  unfold execWindowExpiry
  exact State.comes_event (s.acts_windowExpiry)

theorem comes_linkRestart (s : State) : s.Comes (execLinkRestart s) := by
  unfold execLinkRestart
  exact State.comes_event (State.acts_ite (fun _ => .refl s) fun _ => s.acts_linkRestart)

theorem comes_breakEnd (s : State) : s.Comes (execBreakEnd s) := by
  unfold execBreakEnd
  exact State.comes_event (s.acts_setBreak _)

theorem comes_insertion (i : LoopIx) (s : State) : s.Comes (execInsertion i s) := by
  unfold execInsertion
  exact State.comes_event (s.acts_insert i)

theorem comes_removal (i : LoopIx) (s : State) : s.Comes (execRemoval i s) := by
  unfold execRemoval
  exact State.comes_event (s.acts_remove i)

theorem comes_moveStart (s : State) : s.Comes (execMoveStart s) := by
  unfold execMoveStart
  exact State.comes_event (s.steps_serve.acts)

theorem comes_dwellExpiry (s : State) : s.Comes (execDwellExpiry s) := by
  unfold execDwellExpiry
  exact State.comes_event (s.steps_dwellOver.acts.serve)

theorem comes_scanCompletion (samples : Vector (Option Int) 28) (s : State) : s.Comes (execScanCompletion samples s) := by
  unfold execScanCompletion
  exact State.comes_event ((s.acts_scan samples).serve)

theorem comes_minuteTick (s : State) : s.Comes (execMinuteTick s) := by
  unfold execMinuteTick
  exact State.comes_event (s.acts_minuteTick)

theorem comes_midnight (s : State) : s.Comes (execMidnight s) := by
  unfold execMidnight
  exact State.comes_event (State.acts_ite (fun _ => s.acts_midnight) fun _ => .refl s)

theorem comes_exerciseMinute (s : State) : s.Comes (execExerciseMinute s) := by
  unfold execExerciseMinute
  exact State.comes_event (State.acts_ite (fun _ => s.acts_exercise.serve) fun _ => .refl s)

theorem comes_roundExpiry (m : Manifold) (s : State) : s.Comes (execRoundExpiry m s) := by
  unfold execRoundExpiry
  exact State.comes_event (State.acts_ite (fun _ => (s.acts_roundOver m).serve) fun _ => .refl s)

theorem comes_storeCompletion (agrees : Bool) (s : State) : s.Comes (execStoreCompletion agrees s) := by
  unfold execStoreCompletion
  exact State.comes_event (s.acts_storeCompletion agrees)

theorem comes_pauseLineAssertion (s : State) : s.Comes (execPauseLineAssertion s) := by
  unfold execPauseLineAssertion
  exact State.comes_event ((s.acts_applyHouse _).serve)

theorem comes_pauseLineRelease (s : State) : s.Comes (execPauseLineRelease s) := by
  unfold execPauseLineRelease
  exact State.comes_event ((s.acts_applyHouse _).serve)

theorem comes_breakOnset (s : State) : s.Comes (execBreakOnset s) := by
  unfold execBreakOnset
  exact State.comes_event (State.acts_ite (fun _ => s.acts_setBreak _) fun _ => .refl s)

/-! ### Every command -/

theorem comes_noneReply (s : State) : s.Comes (execNoneReply s) :=
  State.comes_request fun _ t => State.acts_done (.refl t)

theorem comes_look (p : List Byte) (s : State) : s.Comes (execLook p s) :=
  State.comes_request fun _ t => acts_checked fun _ _ =>
    State.acts_takenIf (fun _ => State.acts_done (.refl t)) fun _ => .refl t

theorem comes_corruptReply (s : State) : s.Comes (execCorruptReply s) :=
  comes_corrupt s

theorem comes_unknownRequest (kind : Byte) (p : List Byte) (s : State) : s.Comes (execUnknownRequest kind p s) :=
  State.comes_request fun _ t => .refl t

theorem comes_watchSet (p : List Byte) (s : State) : s.Comes (execWatchSet p s) :=
  State.comes_request fun k t => acts_checked fun w _ => t.acts_setWatch k w

theorem comes_watchClear (p : List Byte) (s : State) : s.Comes (execWatchClear p s) :=
  State.comes_request fun k t => acts_checked fun w _ => t.acts_clearWatch k w

theorem comes_describe (p : List Byte) (s : State) : s.Comes (execDescribe p s) :=
  State.comes_request fun _ t => acts_checked fun _ _ => State.acts_done (.refl t)

theorem comes_claim (p : List Byte) (s : State) : s.Comes (execClaim p s) :=
  State.comes_request fun k t => acts_checked fun _ _ => State.acts_onRoom fun r => t.acts_claimRoom k r

theorem comes_demand (p : List Byte) (s : State) : s.Comes (execDemand p s) :=
  State.comes_request fun k t => acts_checked fun _ _ => State.acts_onRoom fun r => t.acts_postDemand k r _

theorem comes_release (p : List Byte) (s : State) : s.Comes (execRelease p s) :=
  State.comes_request fun k t => acts_checked fun _ _ => State.acts_onRoom fun r => t.acts_releaseRoom k r

theorem comes_amendLoop (p : List Byte) (s : State) : s.Comes (execAmendLoop p s) :=
  State.comes_request fun _ t => acts_checked fun _ _ => State.acts_onLoop fun i => t.acts_amendLoopBy _ i

theorem comes_enrol (p : List Byte) (s : State) : s.Comes (execEnrol p s) :=
  State.comes_request fun _ t => acts_checked fun _ _ => State.acts_onLoop fun i => t.acts_enrolLoop _ i

theorem comes_retire (p : List Byte) (s : State) : s.Comes (execRetire p s) :=
  State.comes_request fun _ t => acts_checked fun _ _ => State.acts_onLoop fun i => t.acts_retireLoop i

theorem comes_preset (p : List Byte) (s : State) : s.Comes (execPreset p s) :=
  State.comes_request fun _ t => acts_checked fun m _ => t.acts_presetManifold m

theorem comes_campaignStart (p : List Byte) (s : State) : s.Comes (execCampaignStart p s) :=
  State.comes_request fun _ t => acts_checked fun ms _ => t.acts_startCampaigns ms

theorem comes_campaignCancel (p : List Byte) (s : State) : s.Comes (execCampaignCancel p s) :=
  State.comes_request fun _ t => acts_checked fun ms _ => t.acts_cancelCampaigns ms

theorem comes_hold (p : List Byte) (s : State) : s.Comes (execHold p s) :=
  State.comes_serviceOrder State.acts_hold

theorem comes_stop (p : List Byte) (n : Nat) (s : State) : s.Comes (execStop p n s) :=
  State.comes_serviceOrder fun t => t.acts_stop n

theorem comes_resume (p : List Byte) (s : State) : s.Comes (execResume p s) :=
  State.comes_serviceOrder fun t => State.acts_done (t.steps_setDriveState _).acts.serve

theorem comes_restart (p : List Byte) (s : State) : s.Comes (execRestart p s) :=
  State.comes_serviceOrder State.acts_restart

theorem comes_legReached (s : State) : s.Comes (execLegReached s) :=
  comes_onMove s.steps_legReached

theorem comes_endStopReached (stop : EndStop) (n : Nat) (s : State) : s.Comes (execEndStopReached stop n s) :=
  comes_onMove fun m => State.steps_ite (fun _ => s.steps_homeEndStop m stop n) fun _ => s.steps_legEndStop m stop n

theorem comes_homingTravelLimit (s : State) : s.Comes (execHomingTravelLimit s) :=
  comes_onMove fun m => State.steps_ite (fun _ => s.steps_homeFailed m _ _) fun _ => .refl s

theorem comes_stall (n : Nat) (s : State) : s.Comes (execStall n s) :=
  comes_onMove fun m => State.steps_ite (fun _ => s.steps_homeFailed m _ _) fun _ => s.steps_moveStalled m n

theorem comes_amendOfDriveOrRoster (p : List Byte) (s : State) : s.Comes (execAmendOfDriveOrRoster p s) :=
  State.comes_request fun _ t => .refl t

theorem comes_openCallReplyDiscarded (s : State) : s.Comes (execOpenCallReplyDiscarded s) :=
  comes_corrupt s

/-- Every command comes to a next state by a chain of acts, and leaves no report where none was left before. -/
theorem exec_comes (c : Instr) (s : State) : s.Comes (exec c s) := by
  cases c with
  | powerUp heads line => exact comes_powerUp heads line s
  | poll => exact comes_poll s
  | noneReply => exact comes_noneReply s
  | corruptReply => exact comes_corruptReply s
  | join kind address => exact comes_join kind address s
  | windowExpiry => exact comes_windowExpiry s
  | linkRestart => exact comes_linkRestart s
  | breakEnd => exact comes_breakEnd s
  | unknownRequest kind p => exact comes_unknownRequest kind p s
  | look p => exact comes_look p s
  | watchSet p => exact comes_watchSet p s
  | watchClear p => exact comes_watchClear p s
  | describe p => exact comes_describe p s
  | claim p => exact comes_claim p s
  | demand p => exact comes_demand p s
  | release p => exact comes_release p s
  | amendLoop p => exact comes_amendLoop p s
  | amendRoom p => exact comes_amendRoom p s
  | amendFloor p => exact comes_amendFloor p s
  | amendHouse p => exact comes_amendHouse p s
  | enrol p => exact comes_enrol p s
  | retire p => exact comes_retire p s
  | preset p => exact comes_preset p s
  | campaignStart p => exact comes_campaignStart p s
  | campaignCancel p => exact comes_campaignCancel p s
  | hold p => exact comes_hold p s
  | stop p n => exact comes_stop p n s
  | resume p => exact comes_resume p s
  | store p => exact comes_store p s
  | restart p => exact comes_restart p s
  | insertion i => exact comes_insertion i s
  | removal i => exact comes_removal i s
  | moveStart => exact comes_moveStart s
  | legReached => exact comes_legReached s
  | endStopReached stop n => exact comes_endStopReached stop n s
  | homingTravelLimit => exact comes_homingTravelLimit s
  | stall n => exact comes_stall n s
  | dwellExpiry => exact comes_dwellExpiry s
  | scanCompletion samples => exact comes_scanCompletion samples s
  | minuteTick => exact comes_minuteTick s
  | leaseExpiry r => exact comes_leaseExpiry r s
  | midnight => exact comes_midnight s
  | exerciseMinute => exact comes_exerciseMinute s
  | roundExpiry m => exact comes_roundExpiry m s
  | storeCompletion agrees => exact comes_storeCompletion agrees s
  | pauseLineAssertion => exact comes_pauseLineAssertion s
  | pauseLineRelease => exact comes_pauseLineRelease s
  | lossOfSupply => exact comes_lossOfSupply s
  | breakOnset => exact comes_breakOnset s
  | amendOfDriveOrRoster p => exact comes_amendOfDriveOrRoster p s
  | openCallReplyDiscarded => exact comes_openCallReplyDiscarded s

end Sys2Proof.Machine
end

section
/-! PROOF. The laws that every act keeps, so every step: the waiting entries (R76), the ceilings (R3), the rooms (R30), the
Floor List (R43), the campaigns (R148) and the link (R173, R182); and that every command completes. -/

namespace Sys2Proof.Machine

/-! ### One law, one act -/

theorem State.Edit.calm {s t : State} (e : s.Edit t) : s.Calm t := e.steps.calm

/-- No act touches the queue of commands. -/
theorem State.Act.pending {s t : State} (a : s.Act t) : t.pending = s.pending := by
  cases a with
  | edit e => exact e.calm.pending
  | house h steps _ => exact steps.calm.pending
  | anew _ p => exact p
  | loops | rooms => simp
  | _ => rfl

theorem State.Acts.pending {s t : State} (h : s.Acts t) : t.pending = s.pending :=
  h.keeps (P := fun u => u.pending = s.pending) (fun _ _ p a => a.pending.trans p) rfl

theorem State.Act.queueLaw {s t : State} (p : s.QueueLaw) (a : s.Act t) : t.QueueLaw := by
  cases a with
  | edit e => exact e.steps.queueLaw p
  | house h steps _ => exact steps.queueLaw (State.queueLaw_congr rfl p)
  | anew laws _ => exact laws.queue
  | loops | rooms => exact State.queueLaw_congr (by simp) p
  | _ => exact State.queueLaw_congr rfl p

theorem State.ceilingLaw_congr {s t : State} (h : t.loops = s.loops) (p : s.CeilingLaw) : t.CeilingLaw := fun i => by
  rw [State.loop_congr h]
  exact p i

theorem State.Act.ceilingLaw {s t : State} (p : s.CeilingLaw) (a : s.Act t) : t.CeilingLaw := by
  cases a with
  | edit e => exact e.steps.ceilingLaw p
  | loop i l c v =>
    intro j
    rw [State.loop_setLoop]
    split
    · exact c p
    · exact p j
  | loops f c v =>
    intro j
    rw [State.loop_mapLoops]
    exact c j (p j)
  | house h steps _ => exact steps.ceilingLaw (State.ceilingLaw_congr rfl p)
  | anew laws _ => exact laws.ceiling
  | rooms => exact State.ceilingLaw_congr (by simp) p
  | _ => exact State.ceilingLaw_congr rfl p

theorem State.roomLaw_congr {s t : State} (h : t.rooms = s.rooms) (p : s.RoomLaw) : t.RoomLaw := fun r => by
  rw [State.room_congr h]
  exact p r

theorem State.Act.roomLaw {s t : State} (p : s.RoomLaw) (a : s.Act t) : t.RoomLaw := by
  cases a with
  | edit e => exact State.roomLaw_congr e.calm.rooms p
  | room r x h =>
    intro q
    rw [State.room_setRoom]
    split
    · exact h (p r)
    · exact p q
  | rooms f h =>
    intro q
    rw [State.room_mapRooms]
    exact h _ (p q)
  | house h steps _ => exact State.roomLaw_congr steps.calm.rooms p
  | anew laws _ => exact laws.room
  | loops => exact State.roomLaw_congr (by simp) p
  | _ => exact State.roomLaw_congr rfl p

theorem State.floorLaw_congr {s t : State} (h : t.floorList = s.floorList) (g : t.loops = s.loops) (p : s.FloorLaw) :
    t.FloorLaw := by
  simpa only [State.FloorLaw, h, State.loop_congr g] using p

/-- The Floor List stands where no member has become VACANT. -/
theorem State.FloorLaw.of_lives {s t : State} (p : s.FloorLaw) (h : t.floorList = s.floorList)
    (v : ∀ i ∈ s.floorList, (t.loop i).life = .vacant → (s.loop i).life = .vacant) : t.FloorLaw := by
  rw [State.FloorLaw, h]
  exact ⟨p.1, p.2.1, fun i hi e => p.2.2 i hi (v i hi e)⟩

theorem State.Act.floorLaw {s t : State} (p : s.FloorLaw) (a : s.Act t) : t.FloorLaw := by
  cases a with
  | edit e => exact e.steps.floorLaw p
  | loop i l c v =>
    refine p.of_lives rfl fun j hj e => ?_
    rw [State.loop_setLoop] at e
    split at e
    · next same =>
      subst same
      exact (v e).resolve_right fun out => out hj
    · exact e
  | loops f c v =>
    refine p.of_lives (by simp) fun j _ e => ?_
    rw [State.loop_mapLoops] at e
    exact v j e
  | floorList l short distinct occupied => exact ⟨short, distinct, occupied⟩
  | house h steps _ => exact steps.floorLaw (State.floorLaw_congr rfl rfl p)
  | anew laws _ => exact laws.floor
  | rooms => exact State.floorLaw_congr (by simp) (by simp) p
  | _ => exact State.floorLaw_congr rfl rfl p

theorem State.campaignLaw_congr {s t : State} (h : t.campaigns = s.campaigns) (g : t.house = s.house)
    (p : s.CampaignLaw) : t.CampaignLaw := by
  simpa only [State.CampaignLaw, State.campaign, h, g] using p

theorem State.campaignLaw_setCampaign {s : State} (p : s.CampaignLaw) {m : Manifold} {c : Campaign} (lawful : c.Lawful)
    (idle : c.state = .idle ∨ s.house.season = .heating) : (s.setCampaign m c).CampaignLaw := by
  have other : ∀ n, m ≠ n → (s.setCampaign m c).campaign n = s.campaign n := fun n h => PerManifold.get_set_ne _ h c
  refine ⟨fun n => ?_, fun standby n => ?_⟩ <;> by_cases same : m = n
  · subst same
    rwa [State.campaign_setCampaign]
  · rw [other n same]
    exact p.1 n
  · subst same
    rw [State.campaign_setCampaign]
    exact idle.resolve_right fun heating => by cases heating.symm.trans standby
  · rw [other n same]
    exact p.2 standby n

/-- An IDLE campaign stays IDLE through any chain of edits. -/
theorem State.Steps.idle {s t : State} (h : s.Steps t) {m : Manifold} (p : (s.campaign m).state = .idle) :
    (t.campaign m).state = .idle := by
  refine h.keeps (P := fun u => (u.campaign m).state = .idle) (fun u v q e => ?_) p
  cases e with
  | campaign n c edit =>
    by_cases same : n = m
    · subst same
      rw [State.campaign_setCampaign]
      exact edit.idle q
    · exact (congrArg Campaign.state (PerManifold.get_set_ne _ same c)).trans q
  | loops => simpa [State.campaign] using q
  | _ => exact q

/-- Every campaign record keeps its law through any chain of edits. -/
theorem State.Steps.campaignsLawful {s t : State} (h : s.Steps t) (p : ∀ m, (s.campaign m).Lawful) (m : Manifold) :
    (t.campaign m).Lawful := by
  refine h.keeps (P := fun u => (u.campaign m).Lawful) (fun u v q e => ?_) (p m)
  cases e with
  | campaign n c edit =>
    by_cases same : n = m
    · subst same
      rw [State.campaign_setCampaign]
      exact edit.lawful q
    · have kept : (u.setCampaign n c).campaign m = u.campaign m := PerManifold.get_set_ne _ same c
      rwa [kept]
  | loops => simpa [State.campaign] using q
  | _ => exact q

theorem State.Act.campaignLaw {s t : State} (p : s.CampaignLaw) (a : s.Act t) : t.CampaignLaw := by
  cases a with
  | edit e => exact e.steps.campaignLaw p
  | campaign m c lawful idle => exact State.campaignLaw_setCampaign p lawful idle
  | house h steps idle =>
    refine ⟨steps.campaignsLawful p.1, fun standby m => ?_⟩
    rw [steps.calm.house, State.setHouse_house] at standby
    rcases idle standby with before | after
    · exact steps.idle (p.2 before m)
    · exact after m
  | anew laws _ => exact laws.campaign
  | loops | rooms => exact State.campaignLaw_congr (by simp) (by simp) p
  | _ => exact State.campaignLaw_congr rfl rfl p

theorem State.rosterLaw_congr {s t : State} (h : t.link = s.link) (p : s.RosterLaw) : t.RosterLaw :=
  p.of_addresses fun k y e => ⟨y, (State.slot_congr (congrArg Link.roster h) k).symm.trans e, rfl⟩

theorem State.Act.rosterLaw {s t : State} (p : s.RosterLaw) (a : s.Act t) : t.RosterLaw := by
  cases a with
  | edit e => exact State.rosterLaw_congr e.calm.link p
  | house h steps _ => exact State.rosterLaw_congr steps.calm.link p
  | link k h => exact h p
  | anew laws _ => exact laws.roster
  | loops | rooms => exact State.rosterLaw_congr (by simp) p
  | _ => exact State.rosterLaw_congr rfl p

/-! ### Steps -/

/-- A step with a command waiting takes it with the rest of the queue left. -/
theorem step_cons {s : State} {c : Instr} {rest : List Instr} (h : s.pending = c :: rest) :
    step s = exec c { s with pending := rest } := by
  rw [step, h]

theorem step_nil {s : State} (h : s.pending = []) : step s = .next s.secondTick := by
  rw [step, h]

theorem State.acts_secondTick (s : State) : s.Acts s.secondTick :=
  State.acts_ite (fun _ => (State.Edit.dwell _).steps.acts) fun _ => .refl s

theorem State.secondTick_reports (s : State) : s.secondTick.reports = s.reports := by
  unfold State.secondTick
  split <;> rfl

/-- A step is a chain of acts from a state that differs from the one before in the queue of commands alone. -/
theorem step_acts {s t : State} (h : step s = .next t) :
    ∃ q, State.Acts { s with pending := q } t ∧ (s.ReportLaw → t.ReportLaw) := by
  cases waiting : s.pending with
  | nil =>
    rw [step_nil waiting] at h
    cases h
    exact ⟨s.pending, s.acts_secondTick, s.secondTick_reports.trans⟩
  | cons c rest =>
    rw [step_cons waiting] at h
    obtain ⟨u, next, acts, reports⟩ := exec_comes c { s with pending := rest }
    cases next.symm.trans h
    exact ⟨rest, acts, reports⟩

/-- A law that every act keeps and that does not speak of the queue of commands, every step keeps. -/
theorem step_keeps {P : State → Prop} (act : ∀ {s t : State}, P s → s.Act t → P t)
    (queue : ∀ (s : State) (q : List Instr), P s → P { s with pending := q }) {s t : State} (p : P s)
    (h : step s = .next t) : P t := by
  obtain ⟨q, acts, _⟩ := step_acts h
  exact acts.keeps (fun _ _ => act) (queue s q p)

end Sys2Proof.Machine

open Sys2Proof Sys2Proof.Machine

/-- Settles O53: every act keeps the law of the waiting entries. -/
theorem queueLawIsKept : Obligations.QueueLawIsKept := fun _ _ => step_keeps State.Act.queueLaw fun _ _ p => p

/-- Settles O54: every act keeps the ceilings in their range. -/
theorem ceilingLawIsKept : Obligations.CeilingLawIsKept := fun _ _ => step_keeps State.Act.ceilingLaw fun _ _ p => p

/-- Settles O55: every act keeps the law of the room records. -/
theorem roomLawIsKept : Obligations.RoomLawIsKept := fun _ _ => step_keeps State.Act.roomLaw fun _ _ p => p

/-- Settles O56: every act keeps the Floor List's law. -/
theorem floorLawIsKept : Obligations.FloorLawIsKept := fun _ _ => step_keeps State.Act.floorLaw fun _ _ p => p

/-- Settles O57: every act keeps the campaign law, an entry into STANDBY with the abandonments that follow it. -/
theorem campaignLawIsKept : Obligations.CampaignLawIsKept := fun _ _ => step_keeps State.Act.campaignLaw fun _ _ p => p

/-- Settles O58: every act keeps the roster's law, and every command ends with its reports matched. -/
theorem linkLawsAreKept : Obligations.LinkLawsAreKept := by
  intro s t roster reports h
  obtain ⟨q, _, told⟩ := step_acts h
  exact ⟨step_keeps State.Act.rosterLaw (fun _ _ p => p) roster h, told reports⟩

/-- Settles O2: every command comes to a next state by acts, and none of them touches the queue of commands. -/
theorem everyCommandCompletes : Obligations.EveryCommandCompletes := by
  intro c s
  obtain ⟨t, next, acts, _⟩ := exec_comes c s
  exact ⟨t, next, acts.pending⟩

/-- Settles O60. -/
theorem resetMeetsTheInvariants : Obligations.ResetMeetsTheInvariants := by
  obtain ⟨queue, ceiling, room, floor, campaign, roster⟩ := State.reset_laws
  refine ⟨queue, ceiling, room, floor, campaign, roster, rfl, ?_, fun i marked => ?_, rfl⟩
  · exact ⟨nofun, nofun, nofun⟩
  · rw [State.loop_reset] at marked
    cases marked

/-- Settles O1. -/
theorem stepTakesTheOldestCommand : Obligations.StepTakesTheOldestCommand := by
  refine ⟨fun c rest s => rfl, fun s waiting on => ?_, fun s waiting off => ?_⟩
  · rw [step_nil waiting, State.secondTick, if_pos on]
    rfl
  · rw [step_nil waiting, State.secondTick, if_neg (Bool.eq_false_iff.1 off)]

/-- Settles O3. -/
theorem resetLeavesThePowerUpState : Obligations.ResetLeavesThePowerUpState := by
  refine ⟨State.loop_reset, State.room_reset, rfl, rfl, rfl, rfl, rfl, fun c => ?channel, fun m => ?manifold,
    fun k => ?slot, rfl⟩
  case channel => simp [State.channel, State.reset, Channel.initial]
  case manifold => cases m <;> exact ⟨rfl, rfl, rfl⟩
  case slot => simp [State.slot, State.reset]
end

section
/-! PROOF. The driver (R75, R83, R90, R170): what leaves it alone (`SameDriver`), the ends and the starts of moves, and the
law that it is settled between commands (`Settled`): its own law, the restart marks', and no start left waiting. -/

namespace Sys2Proof.Machine

/-! ### What leaves the driver alone -/

/-- The running move, the dwell and the drive state are as they were, and no restart mark has come to be held. -/
structure State.SameDriver (s t : State) : Prop where
  moving : t.drive.moving = s.drive.moving
  dwell : t.drive.dwell = s.drive.dwell
  state : t.drive.state = s.drive.state
  marks : ∀ i, (t.loop i).restartMark = true → (s.loop i).restartMark = true

theorem State.SameDriver.refl (s : State) : s.SameDriver s := ⟨rfl, rfl, rfl, fun _ => id⟩

theorem State.SameDriver.trans {s t u : State} (h : s.SameDriver t) (g : t.SameDriver u) : s.SameDriver u :=
  ⟨g.moving.trans h.moving, g.dwell.trans h.dwell, g.state.trans h.state, fun i m => h.marks i (g.marks i m)⟩

/-- The drive and the loops are as they were. -/
theorem State.SameDriver.of_eq {s t : State} (h : t.drive = s.drive) (g : t.loops = s.loops) : s.SameDriver t :=
  ⟨by rw [h], by rw [h], by rw [h], fun i m => by rwa [State.loop_congr g] at m⟩

theorem Loop.Steady.restartMark {l x : Loop} (h : l.Steady x) : x.restartMark = l.restartMark := h.kept.restartMark

theorem State.Mild.driver {s t : State} (h : s.Mild t) : s.SameDriver t :=
  ⟨h.moving, h.dwell, h.state, fun i m => (h.loops i).restartMark.symm.trans m⟩

theorem State.Quiet.driver {s t : State} (h : s.Quiet t) : s.SameDriver t := h.mild.driver

theorem State.Vacates.driver {i : LoopIx} {s t : State} (h : State.Vacates i s t) : s.SameDriver t := by
  refine ⟨h.moving, h.dwell, h.state, fun j m => ?_⟩
  by_cases same : j = i
  · rw [same, h.mark] at m
    cases m
  · exact (h.loops j same).restartMark.symm.trans m

theorem State.driver_modLoop (s : State) (i : LoopIx) {f : Loop → Loop}
    (h : (f (s.loop i)).restartMark = true → (s.loop i).restartMark = true) : s.SameDriver (s.modLoop i f) := by
  refine ⟨rfl, rfl, rfl, fun j m => ?_⟩
  rw [State.loop_modLoop] at m
  split at m
  · next same => exact same ▸ h m
  · exact m

theorem State.driver_mapLoops (s : State) {f : LoopIx → Loop → Loop}
    (h : ∀ i (l : Loop), (f i l).restartMark = l.restartMark) : s.SameDriver (s.mapLoops f) := by
  refine ⟨by simp, by simp, by simp, fun j m => ?_⟩
  rw [State.loop_mapLoops, h] at m
  exact m

theorem State.driver_ite {c : Prop} [Decidable c] {s t u : State} (h : s.SameDriver t) (g : s.SameDriver u) :
    s.SameDriver (if c then t else u) := by split <;> assumption

theorem State.driver_forEach {α : Type} (s : State) (l : List α) {f : State → α → State}
    (h : ∀ t a, State.SameDriver t (f t a)) : s.SameDriver (s.forEach l f) :=
  State.forEach_rel State.SameDriver.refl (fun _ _ _ => State.SameDriver.trans) h l s

/-! #### Lifecycles and wants -/

theorem State.driver_unhome (s : State) (i : LoopIx) : s.SameDriver (s.unhome i) :=
  (s.driver_modLoop i (f := Loop.unhomed) id).trans (State.quiet_recount _ i).driver

theorem State.driver_wantHome (s : State) (i : LoopIx) : s.SameDriver (s.wantHome i) :=
  (s.driver_unhome i).trans (State.quiet_want _ i _).driver

theorem State.driver_wantHomeIf (s : State) (c : Bool) (i : LoopIx) : s.SameDriver (s.wantHomeIf c i) :=
  State.driver_ite (s.driver_wantHome i) (.refl s)

theorem State.driver_setLife (s : State) (i : LoopIx) (x : Lifecycle) : s.SameDriver (s.setLife i x) :=
  (s.driver_modLoop i (f := fun l => l.setLife x) id).trans (State.mild_lifeChanged _ i _).driver

theorem State.driver_voidBalance (s : State) (i : LoopIx) : s.SameDriver (s.voidBalance i) :=
  s.driver_modLoop i id

theorem State.driver_becomeVacant (s : State) (i : LoopIx) : s.SameDriver (s.becomeVacant i) :=
  (s.vacates_becomeVacant i).driver

theorem State.driver_changeRoom (s : State) (r : RoomIx) (new : Room) : s.SameDriver (s.changeRoom r new) :=
  (State.SameDriver.of_eq (s := s) (t := s.setRoom r new) rfl rfl).trans (s.quiet_changeRoom r new).driver

theorem State.driver_applyHouse (s : State) (h : House) : s.SameDriver (s.applyHouse h) :=
  (State.SameDriver.of_eq (s := s) (t := s.setHouse h) rfl rfl).trans (s.mild_applyHouse h).driver

/-! #### The ends of moves, but for the driver's own part -/

theorem State.driver_retireAtEnd (s : State) (m : Move) : s.SameDriver (s.retireAtEnd m) :=
  State.driver_ite (s.driver_becomeVacant _) (.refl s)

theorem State.driver_unmark (s : State) (i : LoopIx) : s.SameDriver (s.unmark i) := by
  refine .trans (s.driver_modLoop i (f := Loop.unmarked) fun m => ?_) (State.quiet_markLoopIf _ _ i _).driver
  cases m

theorem State.driver_rehomeAtEnd (s : State) (i : LoopIx) : s.SameDriver (s.rehomeAtEnd i) :=
  State.driver_ite ((s.driver_wantHome i).trans (State.driver_setLife _ i _)) (s.driver_wantHome i)

theorem State.driver_takeRestartMark (s : State) (i : LoopIx) : s.SameDriver (s.takeRestartMark i) :=
  State.driver_ite (State.driver_ite ((s.driver_unmark i).trans (State.driver_rehomeAtEnd _ i)) (s.driver_unmark i))
    (.refl s)

theorem State.mark_unmark (s : State) (i : LoopIx) : ((s.unmark i).loop i).restartMark = false := by
  rw [State.unmark, State.loop_markLoopIf, State.loop_modLoop_self]
  rfl

/-- A restart mark is gone once it has been taken (R170). -/
theorem State.mark_takeRestartMark (s : State) (i : LoopIx) : ((s.takeRestartMark i).loop i).restartMark = false := by
  unfold State.takeRestartMark
  split
  · split
    · exact Bool.eq_false_iff.2 fun m => Bool.eq_false_iff.1 (s.mark_unmark i)
        ((State.driver_rehomeAtEnd _ i).marks i m)
    · exact s.mark_unmark i
  · next unmarked => exact Bool.eq_false_iff.2 unmarked

theorem State.driver_latchStall (s : State) (i : LoopIx) : s.SameDriver (s.latchStall i) :=
  State.driver_ite ((s.driver_modLoop i (f := fun l => l.setFaults l.faults.withStall) id).trans
    (State.quiet_markLoop _ i _).driver) (.refl s)

theorem State.driver_stallLimit (s : State) (i : LoopIx) : s.SameDriver (s.stallLimit i) :=
  ((s.driver_wantHome i).trans (State.driver_latchStall _ i)).trans
    (State.driver_ite (State.driver_setLife _ i _) (.refl _))

theorem State.driver_parkAgain (s : State) (m : Move) : s.SameDriver (s.parkAgain m) :=
  State.driver_ite (s.quiet_want _ _).driver (.refl s)

theorem State.driver_afterStall (s : State) (m : Move) : s.SameDriver (s.afterStall m) :=
  State.driver_ite (s.driver_stallLimit _) (s.driver_parkAgain m)

theorem State.driver_homeTaken (s : State) (i : LoopIx) : s.SameDriver (s.homeTaken i) := by
  unfold State.homeTaken
  split
  · exact s.driver_setLife i _
  · exact (s.quiet_want i _).driver
  · exact .refl s

theorem State.driver_failTaken (s : State) (i : LoopIx) : s.SameDriver (s.failTaken i) := by
  unfold State.failTaken
  split
  · exact (s.driver_modLoop i (f := fun l => l.setFaults l.faults.withFail) id).trans (State.driver_setLife _ i _)
  · exact s.driver_becomeVacant i
  · exact .refl s

theorem State.mild_homeEnded (s : State) (i : LoopIx) (b : Bool) : s.Mild (s.homeEnded i b) :=
  (((s.quiet_endWant i).trans (State.quiet_recount _ i)).mild.trans (State.mild_examineOpeningIf _ b _)).trans
    (State.quiet_tellWork _ _ i).mild

/-! ### The driver between commands -/

/-- The driver keeps its law, and a restart mark is held only for the loop whose move runs. -/
structure State.Driven (s : State) : Prop where
  lawful : s.drive.Lawful
  marks : s.MarkLaw

/-- The driver between commands: no move that may start is left waiting (R83, log 3). -/
structure State.Settled (s : State) : Prop where
  driven : s.Driven
  start : s.StartLaw

theorem State.SameDriver.movingLoop {s t : State} (h : s.SameDriver t) (i : LoopIx) :
    t.movingLoop i = s.movingLoop i := by rw [State.movingLoop, State.movingLoop, h.moving]

theorem State.SameDriver.driven {s t : State} (h : s.SameDriver t) (d : s.Driven) : t.Driven := by
  refine ⟨?_, fun i m => (h.movingLoop i).trans (d.marks i (h.marks i m))⟩
  rw [Drive.Lawful, h.moving, h.dwell, h.state]
  exact d.lawful

theorem State.SameDriver.busy {s t : State} (h : s.SameDriver t) (b : s.DriverBusy) : t.DriverBusy := by
  rw [State.DriverBusy, h.moving, h.dwell, h.state]
  exact b

/-- While the driver is busy, what leaves it alone leaves it settled. -/
theorem State.SameDriver.settled {s t : State} (h : s.SameDriver t) (d : s.Driven) (b : s.DriverBusy) : t.Settled :=
  ⟨h.driven d, (h.busy b).canStart⟩

/-- The drive as it was, and no restart mark come to be held. -/
theorem State.Settled.of_drive {s t : State} (p : s.Settled) (h : t.drive = s.drive)
    (marks : ∀ i, (t.loop i).restartMark = true → (s.loop i).restartMark = true) : t.Settled := by
  have same : s.SameDriver t := ⟨by rw [h], by rw [h], by rw [h], marks⟩
  refine ⟨same.driven p.driven, ?_⟩
  have start := p.start
  simpa only [State.StartLaw, State.canStart, h] using start

theorem State.Settled.of_records {s t : State} (p : s.Settled) (h : s.SameRecords t) : t.Settled :=
  p.of_drive h.drive fun i m => by rwa [h.loop] at m

/-- With no move running, no drive HOLDING and no mark held, the driver keeps its laws. -/
theorem State.driven_of_still {s : State} (h : s.drive.moving = none) (g : s.drive.state ≠ .holding)
    (marks : ∀ i, (s.loop i).restartMark = false) : s.Driven :=
  ⟨⟨fun w => absurd h w, fun w => absurd w g, fun _ => h⟩, fun i m => by rw [marks i] at m; cases m⟩

/-- A drive state that a state with or without a move may have. -/
theorem State.Driven.putDriveState {s : State} (p : s.Driven) {d : DriveState}
    (holding : d = .holding → s.drive.moving ≠ none) (held : d = .held → s.drive.moving = none) :
    (s.putDriveState d).Driven :=
  ⟨⟨p.lawful.1, holding, held⟩, p.marks⟩

/-- A change of the drive state leaves the running move and the dwell alone (R82). -/
theorem State.driver_setDriveState (s : State) (d : DriveState) :
    (s.putDriveState d).SameDriver (s.setDriveState d) := by
  unfold State.setDriveState
  split
  · next same =>
    subst same
    exact .of_eq rfl rfl
  · refine .trans ?_ (State.quiet_markHouse _ true).driver
    have timers := ((State.quiet_recountAll (s.putDriveState d)).mild.trans (State.mild_checkTimer _ .a)).trans
      (State.mild_checkTimer _ .b)
    exact ((timers.trans (State.mild_checkCampaign _ .a)).trans (State.mild_checkCampaign _ .b)).driver

theorem State.Driven.setDriveState {s : State} (p : s.Driven) {d : DriveState}
    (holding : d = .holding → s.drive.moving ≠ none) (held : d = .held → s.drive.moving = none) :
    (s.setDriveState d).Driven :=
  (s.driver_setDriveState d).driven (p.putDriveState holding held)

theorem State.Driven.running {s : State} (p : s.Driven) : (s.setDriveState .running).Driven :=
  p.setDriveState nofun nofun

/-! ### The ends of moves -/

/-- The move of a loop has ended: none runs, a dwell counts, and no other loop holds a restart mark. -/
structure State.Halted (i : LoopIx) (s : State) : Prop where
  moving : s.drive.moving = none
  dwell : s.drive.dwell ≠ none
  marks : ∀ j, j ≠ i → (s.loop j).restartMark = false

theorem State.SameDriver.halted {s t : State} {i : LoopIx} (h : s.SameDriver t) (p : State.Halted i s) :
    State.Halted i t :=
  ⟨h.moving.trans p.moving, fun w => p.dwell (h.dwell.symm.trans w), fun j ne =>
    Bool.eq_false_iff.2 fun m => Bool.eq_false_iff.1 (p.marks j ne) (h.marks j m)⟩

theorem State.halted_stopRunning {s : State} {m : Move} (marks : ∀ j, j ≠ m.loop → (s.loop j).restartMark = false)
    (e : MoveEnd) (r : Option EndReason) : State.Halted m.loop (s.stopRunning m e r) :=
  ⟨rfl, nofun, marks⟩

/-- A drive is not HOLDING once the end of its move has been taken (R86). -/
theorem State.holdAtEnd_state (s : State) (b : Bool) : (s.holdAtEnd b).drive.state ≠ .holding := by
  unfold State.holdAtEnd
  split
  · rw [(s.driver_setDriveState .held).state]
    nofun
  · next w => exact fun holding => w (.inr holding)

theorem State.halted_holdAtEnd {s : State} {i : LoopIx} (p : State.Halted i s) (b : Bool) :
    State.Halted i (s.holdAtEnd b) := by
  unfold State.holdAtEnd
  split
  · exact (s.driver_setDriveState .held).halted ⟨p.moving, p.dwell, p.marks⟩
  · exact p

theorem State.marks_holdAtEnd (s : State) (b : Bool) (j : LoopIx)
    (h : ((s.holdAtEnd b).loop j).restartMark = true) : (s.loop j).restartMark = true := by
  unfold State.holdAtEnd at h
  split at h
  · exact (s.driver_setDriveState .held).marks j h
  · exact h

/-- After the drive state, what is left of a move's end leaves the driver alone. -/
theorem State.driver_afterHold (s : State) (m : Move) (e : MoveEnd) (r : Option EndReason) (b : Bool) :
    ((s.stopRunning m e r).holdAtEnd b).SameDriver (s.takeEnd m e r b) := by
  unfold State.takeEnd
  generalize (s.stopRunning m e r).holdAtEnd b = t
  exact (((t.mild_aim m.loop).trans (State.mild_examineOpening _ _)).trans (State.quiet_markLoopIf _ _ _ _).mild).driver

/-- The Drive Queue's part of a move's end: none runs, its dwell counts, and the drive is not HOLDING. -/
theorem State.halted_takeEnd {s : State} {m : Move} (marks : ∀ j, j ≠ m.loop → (s.loop j).restartMark = false)
    (e : MoveEnd) (r : Option EndReason) (b : Bool) :
    State.Halted m.loop (s.takeEnd m e r b) ∧ (s.takeEnd m e r b).drive.state ≠ .holding ∧
      (((s.loop m.loop).restartMark = false) → ((s.takeEnd m e r b).loop m.loop).restartMark = false) := by
  have rest := s.driver_afterHold m e r b
  have stopped := State.halted_stopRunning marks e r
  have kept := (s.stopRunning m e r).marks_holdAtEnd b
  refine ⟨rest.halted (State.halted_holdAtEnd stopped b), ?_, fun free => ?_⟩
  · rw [rest.state]
    exact State.holdAtEnd_state _ b
  · exact Bool.eq_false_iff.2 fun marked => Bool.eq_false_iff.1 free (kept _ (rest.marks _ marked))

/-- The last steps of every move's end but a removal's: the restart mark taken, the Drive Queue's part, and the report of
the head fields. -/
theorem State.settled_atEnd {s before : State} {m : Move} (p : State.Halted m.loop s) (e : MoveEnd)
    (r : Option EndReason) (b : Bool) :
    (((s.takeRestartMark m.loop).takeEnd m e r b).tellHead before m.loop).Settled := by
  have taken := (s.driver_takeRestartMark m.loop).halted p
  obtain ⟨halted, notHolding, unmarked⟩ := State.halted_takeEnd taken.marks e r b
  have marks : ∀ i, ((((s.takeRestartMark m.loop).takeEnd m e r b)).loop i).restartMark = false := fun i => by
    by_cases same : i = m.loop
    · rw [same]
      exact unmarked (s.mark_takeRestartMark m.loop)
    · exact halted.marks i same
  exact (State.quiet_tellHead _ before m.loop).driver.settled
    (State.driven_of_still halted.moving notHolding marks) (.inr (.inl halted.dwell))

section
variable {s : State} {m : Move} (marks : ∀ j, j ≠ m.loop → (s.loop j).restartMark = false)
include marks

theorem State.settled_moveDone (n : Nat) (b : Bool) : (s.moveDone m n b).Settled := by
  refine State.settled_atEnd ((State.driver_retireAtEnd _ m).halted ?_) .done none false
  refine (State.quiet_recount _ m.loop).driver.halted ?_
  exact (State.driver_modLoop _ m.loop (f := fun l => l.arrived n b) id).halted
    (State.halted_stopRunning marks .done none)

theorem State.halted_stopAt (e : MoveEnd) (r : Option EndReason) (n k : Nat) :
    State.Halted m.loop (s.stopAt m e r n k) := by
  refine (State.quiet_recount _ m.loop).driver.halted ?_
  refine (State.driver_modLoop _ m.loop ?_).halted (State.halted_stopRunning marks e r)
  exact id

theorem State.settled_moveStalled (n : Nat) : (s.moveStalled m n).Settled :=
  State.settled_atEnd ((State.driver_afterStall _ m).halted (State.halted_stopAt marks .failed (some .stall) n 1))
    .failed (some .stall) false

theorem State.settled_moveStopped (n : Nat) : (s.moveStopped m n).Settled :=
  State.settled_atEnd ((State.driver_parkAgain _ m).halted (State.halted_stopAt marks .aborted (some .stop) n 0))
    .aborted (some .stop) true

theorem State.settled_homeDone (n : Nat) : (s.homeDone m n).Settled := by
  refine State.settled_atEnd ((State.driver_homeTaken _ m.loop).halted ?_) .done none false
  refine (State.mild_homeEnded _ m.loop _).driver.halted ?_
  exact (State.driver_modLoop _ m.loop (f := fun l => l.homedAt n) id).halted
    (State.halted_stopRunning marks .done none)

theorem State.settled_homeFailed (r : EndReason) (b : Bool) : (s.homeFailed m r b).Settled := by
  refine State.settled_atEnd ((State.driver_failTaken _ m.loop).halted ?_) .failed (some r) false
  refine (State.mild_homeEnded _ m.loop _).driver.halted ?_
  exact (State.driver_modLoop _ m.loop (f := fun l => l.homeLost b) id).halted
    (State.halted_stopRunning marks .failed (some r))

end

/-- Only the loop whose move runs may hold a restart mark. -/
theorem State.Driven.unmarked {s : State} (p : s.Driven) {m : Move} (h : s.drive.moving = some m) (j : LoopIx)
    (ne : j ≠ m.loop) : (s.loop j).restartMark = false := by
  refine Bool.eq_false_iff.2 fun marked => ?_
  have moving := p.marks j marked
  rw [State.movingLoop, h] at moving
  exact ne (of_decide_eq_true moving).symm

/-- Another leg of the running move. -/
theorem State.settled_setMoving {s : State} (p : s.Settled) {m n : Move} (h : s.drive.moving = some m)
    (same : n.loop = m.loop) : (s.setMoving (some n)).Settled := by
  have lawful := p.driven.lawful
  rw [Drive.Lawful, h] at lawful
  obtain ⟨dwell, -, held⟩ := lawful
  refine ⟨⟨⟨fun _ => dwell nofun, fun _ => nofun, fun w => absurd (held w) nofun⟩, fun i marked => ?_⟩, rfl⟩
  have moving := p.driven.marks i marked
  rw [State.movingLoop, h] at moving
  rw [State.movingLoop, State.setMoving_drive_moving]
  simpa only [same] using moving

theorem State.settled_legDone {s : State} (p : s.Settled) {m : Move} (h : s.drive.moving = some m) (n : Nat)
    (b : Bool) : (s.legDone m n b).Settled := by
  have marks := p.driven.unmarked h
  unfold State.legDone
  split
  · unfold State.beginReturn
    dsimp only
    split
    · exact State.settled_moveDone (m := m.secondLeg _ b) marks _ b
    · exact State.settled_setMoving p h rfl
  · exact State.settled_moveDone marks n b

/-! ### The start of a move -/

theorem State.settled_beginMove {s : State} (f : s.Free) (dwell : s.drive.dwell = none) (m : Move) :
    (s.beginMove m).Settled := by
  have before : (s.setMoving (some m)).Settled := by
    refine ⟨⟨⟨fun _ => dwell, fun _ => nofun, fun w => ?_⟩, fun i marked => ?_⟩, rfl⟩
    · cases f.state.symm.trans w
    · cases (f.marks i).symm.trans marked
  have want : (s.setMoving (some m)).SameDriver ((s.setMoving (some m)).wantAtStart m) :=
    State.driver_ite (.refl _) (State.quiet_unwant _ m.loop).driver
  have fill := ((want.trans (State.driver_modLoop _ m.loop (f := fun l => l.setPosition none) id)).trans
    (State.quiet_recount _ m.loop).driver).trans (State.quiet_fill _).driver
  have started := fill.settled before.driven (.inl nofun)
  unfold State.beginMove State.reachAtOnce
  split
  · exact State.settled_legDone started fill.moving m.aimedAt false
  · exact started

theorem State.canStart_iff (s : State) : s.canStart = true ↔
    s.drive.moving = none ∧ s.drive.dwell = none ∧ s.drive.state = .running ∧ s.drive.queue ≠ [] := by
  simp [State.canStart, and_assoc]

/-- The start of the next move, where one may start, leaves the driver settled (R83, log 3). -/
theorem State.Driven.serve {s : State} (p : s.Driven) : s.serve.Settled := by
  unfold State.serve
  split
  · next start =>
    obtain ⟨-, dwell, -, -⟩ := s.canStart_iff.1 start
    have free := p.marks.free start
    unfold State.startMove
    split
    · next empty => exact absurd empty (s.canStart_iff.1 start).2.2.2
    · next e rest _ => exact State.settled_beginMove (s := s.setQueue rest) ⟨free.state, free.marks⟩ dwell e.move
  · next wait => exact ⟨p, Bool.eq_false_iff.2 wait⟩

/-- What leaves the driver alone, then the start of the next move. -/
theorem State.SameDriver.serve {s t : State} (h : s.SameDriver t) (p : s.Settled) : t.serve.Settled :=
  (h.driven p.driven).serve

end Sys2Proof.Machine
end

section
/-! PROOF. Every command leaves the driver settled (R75, R83, R90, R170): one lemma for the operations of each block, and
the commands together (`exec_settled`). -/

namespace Sys2Proof.Machine

/-! ### Taking a command -/

/-- An outcome leaves the driver settled. -/
def Outcome.Settled (o : Host.Outcome State Fault Refusal) : Prop := ∀ t, o = .next t → t.Settled

theorem settled_powered {s : State} {f : State → State} (p : s.Settled) (h : (f s).Settled) :
    Outcome.Settled (powered s f) := by
  rintro t ⟨⟩
  split
  · exact h
  · exact p

theorem settled_event {s : State} {f : State → State} (p : s.Settled) (h : (f s).Settled) :
    Outcome.Settled (event s f) :=
  settled_powered p (h.of_records (State.tellWatches_records _))

/-- What changes the link alone leaves the driver settled. -/
theorem State.Settled.of_link {s t : State} (p : s.Settled) (h : t.drive = s.drive) (g : t.loops = s.loops) :
    t.Settled := p.of_drive h fun i m => by rwa [State.loop_congr g] at m

theorem settled_reply {s : State} {counts : SlotIx → Slot → State → State} (p : s.Settled)
    (h : ∀ k x, (counts k x s).Settled) : Outcome.Settled (reply s counts) := by
  refine settled_powered p ?_
  split
  · exact p
  · split
    · exact p
    · exact p.of_link rfl rfl
    · split
      · exact h _ _
      · exact p.of_link rfl rfl

theorem settled_request {s : State} {allowed : StationKind → Bool} {take : SlotIx → State → Taken} (p : s.Settled)
    (h : ∀ k t, State.Settled t → (take k t).state.Settled) : Outcome.Settled (request s allowed take) := by
  refine settled_reply p fun k x => ?_
  have heard := p.of_records (s.heard_records k x)
  refine State.Settled.of_records ?_ (Taken.finish_records _ k)
  split
  · exact h k _ heard
  · exact heard

theorem settled_checked {α : Type} {form : List Byte → Option α} {params : List Byte} {s : State} {take : α → Taken}
    (p : s.Settled) (h : ∀ x, (take x).state.Settled) : (checked form params s take).state.Settled := by
  unfold checked
  split
  · exact h _
  · exact p

theorem settled_order {s : State} {params : List Byte} {take : State → Taken} (p : s.Settled)
    (h : ∀ t, State.Settled t → (take t).state.Settled) : Outcome.Settled (serviceOrder params s take) :=
  settled_request p fun _ t q => settled_checked q fun _ => h t q

theorem settled_onRoom {s : State} {n : Nat} {take : RoomIx → Taken} (p : s.Settled)
    (h : ∀ r, (take r).state.Settled) : (s.onRoom n take).state.Settled := by
  unfold State.onRoom
  split
  · exact h _
  · exact p

theorem settled_onLoop {s : State} {n : Nat} {take : LoopIx → Taken} (p : s.Settled)
    (h : ∀ i, (take i).state.Settled) : (s.onLoop n take).state.Settled := by
  unfold State.onLoop
  split
  · exact h _
  · exact p

theorem settled_ite {c : Prop} [Decidable c] {s t : State} (h : c → s.Settled) (g : ¬c → t.Settled) :
    (if c then s else t).Settled := by
  split
  · next w => exact h w
  · next w => exact g w

theorem settled_takenIf {c : Prop} [Decidable c] {x y : Taken} (h : c → x.state.Settled) (g : ¬c → y.state.Settled) :
    (if c then x else y).state.Settled := by
  split
  · next w => exact h w
  · next w => exact g w

theorem settled_done {t : State} {x : Status} {body : List Byte} (h : t.Settled) : (Taken.mk x body t).state.Settled := h

/-! ### Rooms and the House Record -/

section
variable {s : State} (p : s.Settled)
include p

theorem settled_changeRoom (r : RoomIx) (new : Room) : (s.changeRoom r new).serve.Settled :=
  (s.driver_changeRoom r new).serve p

theorem settled_claimRoom (k : SlotIx) (r : RoomIx) : (s.claimRoom k r).state.Settled :=
  settled_takenIf (fun _ => settled_takenIf (fun _ => settled_done (settled_changeRoom p r _)) fun _ => p) fun _ =>
    settled_takenIf (fun _ => settled_done (settled_changeRoom p r _)) fun _ => p

theorem settled_postDemand (k : SlotIx) (r : RoomIx) (d : Nat) : (s.postDemand k r d).state.Settled :=
  settled_takenIf (fun _ => p) fun _ => settled_takenIf
    (fun _ => settled_takenIf (fun _ => settled_done (settled_changeRoom p r _)) fun _ => p) fun _ => p

theorem settled_free (r : RoomIx) : (s.free r).Settled := settled_changeRoom p r _

theorem settled_releaseRoom (k : SlotIx) (r : RoomIx) : (s.releaseRoom k r).state.Settled :=
  settled_takenIf (fun _ => settled_done (settled_free p r)) fun _ => settled_takenIf
    (fun _ => settled_takenIf (fun _ => settled_done (settled_free p r)) fun _ => p) fun _ => p

theorem settled_amendRoom (params : List Byte) : Outcome.Settled (execAmendRoom params s) := by
  refine settled_request p fun _ t q => settled_checked q fun x => settled_onRoom q fun r => ?_
  split
  · exact settled_done (settled_changeRoom q r _)
  · exact q

theorem settled_amendFloor (params : List Byte) : Outcome.Settled (execAmendFloor params s) := by
  refine settled_request p fun _ t q => settled_checked q fun x => settled_takenIf (fun _ => ?_) fun _ => q
  split
  · next members _ =>
    have listed : t.SameDriver (t.setFloorList members) := .of_eq rfl rfl
    exact settled_done ((listed.trans (State.quiet_recompute _).driver).serve q)
  · exact q

theorem settled_leaseExpiry (r : RoomIx) : Outcome.Settled (execLeaseExpiry r s) :=
  settled_event p (settled_ite (fun _ => settled_changeRoom p r _) fun _ => p)

theorem settled_applyHouse (h : House) : (s.applyHouse h).serve.Settled := (s.driver_applyHouse h).serve p

theorem settled_amendHouse (params : List Byte) : Outcome.Settled (execAmendHouse params s) := by
  refine settled_request p fun k t q => settled_checked q fun x => settled_takenIf (fun _ => ?_) fun _ =>
    settled_takenIf (fun _ => q) fun _ => q
  refine settled_takenIf (fun _ => q) fun _ => settled_takenIf (fun _ => q) fun _ => ?_
  split
  · exact settled_done (settled_applyHouse q _)
  · exact q

/-! ### The clock and the stored image -/

omit p in
theorem State.driver_minuteTick (s : State) : s.SameDriver s.minuteTick := by
  have lease : s.SameDriver s.leaseTick :=
    State.driver_ite (.of_eq (State.mapRooms_drive _ _) (State.mapRooms_loops _ _)) (.refl s)
  have counted : s.leaseTick.SameDriver s.leaseTick.counterTick := State.driver_mapLoops _ fun i l => by split <;> rfl
  have timer : ∀ (t : State) (m : Manifold), t.SameDriver (t.timerTick m) := fun t m => (t.mild_setTimer m _).driver
  exact ((lease.trans counted).trans ((timer _ .a).trans (timer _ .b))).trans
    (.of_eq (State.setHouse_drive _ _) (State.setHouse_loops _ _))

omit p in
theorem State.drive_minuteTick (s : State) : s.minuteTick.drive = s.drive := by
  have lease : s.leaseTick.drive = s.drive := by
    unfold State.leaseTick
    split <;> simp
  simp [State.minuteTick, State.timerTick, State.counterTick, lease]

theorem settled_minuteTick : s.minuteTick.Settled := p.of_drive s.drive_minuteTick s.driver_minuteTick.marks

omit p in
/-- The drive of a fold that leaves it alone. -/
theorem State.drive_forEach {α : Type} {f : State → α → State} (h : ∀ t a, (f t a).drive = t.drive) (s : State)
    (l : List α) : (s.forEach l f).drive = s.drive :=
  State.forEach_rel (R := fun t u => u.drive = t.drive) (fun _ => rfl) (fun _ _ _ h g => g.trans h) h l s

theorem settled_midnight : s.midnight.Settled := by
  have house : s.SameDriver (s.setHouse s.house.midnightTaken) := .of_eq rfl rfl
  have idled := State.driver_mapLoops (s.setHouse s.house.midnightTaken) (f := fun _ l => l.idled) fun _ _ => rfl
  have told := State.driver_forEach ((s.setHouse s.house.midnightTaken).mapLoops fun _ l => l.idled) allLoops
    (f := fun t i => t.markLoopIf (decide ((s.loop i).idleDays ≠ (s.loop i).idled.idleDays)) i false)
    fun t i => (t.quiet_markLoopIf _ i _).driver
  refine p.of_drive ?_ ((house.trans idled).trans told).marks
  rw [State.midnight, State.drive_forEach fun t i => State.markLoopIf_drive _ _ _ _, State.mapLoops_drive,
    State.setHouse_drive]

theorem settled_exercise : s.exercise.serve.Settled := by
  have house : s.SameDriver (s.setHouse s.house.exerciseTaken) := .of_eq rfl rfl
  refine State.SameDriver.serve (house.trans (State.driver_forEach _ _ fun t i => ?_)) p
  exact State.driver_ite (t.quiet_want i _).driver (.refl t)

theorem settled_takeStore : s.takeStore.Settled := p.of_link rfl rfl

theorem settled_storeCompletion (agrees : Bool) : (s.storeCompletion agrees).Settled := by
  unfold State.storeCompletion
  split
  · exact settled_ite (fun _ => p.of_link rfl rfl) fun _ => p.of_link rfl rfl
  · exact p

/-! ### The Loop Table -/

theorem settled_becomeVacant (i : LoopIx) : (s.becomeVacant i).serve.Settled := (s.driver_becomeVacant i).serve p

theorem settled_retireReady (i : LoopIx) : (s.retireReady i).Settled := by
  refine State.SameDriver.serve ((s.driver_modLoop i (f := fun l => l.setLife .retiring) id).trans ?_) p
  generalize (s.modLoop i fun l => l.setLife .retiring) = t
  have counted := (((t.quiet_recompute).mild.trans (State.mild_coupling _ (manifoldOf i))).trans
    (State.quiet_recount _ i).mild)
  exact (((counted.trans (State.quiet_want _ i .park).mild).trans (State.mild_examineOpening _ _)).trans
    (State.quiet_markLoop _ i true).mild).driver

theorem settled_retireLoop (i : LoopIx) : (s.retireLoop i).state.Settled := by
  unfold State.retireLoop
  split
  · exact p
  · exact p
  · exact settled_done (settled_becomeVacant p i)
  · exact settled_takenIf (fun _ => settled_done ((s.driver_setLife i _).serve p)) fun _ =>
      settled_done (settled_becomeVacant p i)
  · exact settled_takenIf (fun _ => settled_done (settled_retireReady p i)) fun _ =>
      settled_done (settled_becomeVacant p i)

theorem settled_enrol (i : LoopIx) (room : Option RoomIx) (length : Option Nat) (covering : Nat) :
    (s.enrol i room length covering).Settled := by
  refine State.SameDriver.serve ((s.driver_modLoop i (f := fun l =>
    l.enrolled room length covering (ceilingByLength length (s.longestWith i length))) id).trans ?_) p
  generalize (s.modLoop i _) = t
  have homed := (t.driver_voidBalance i).trans (State.driver_wantHomeIf _ (s.loop i).present i)
  have changed := (homed.trans (State.mild_lifeChanged _ i .vacant).driver).trans
    (State.mild_coupling _ (manifoldOf i)).driver
  exact (changed.trans (State.quiet_tellHead _ s i).driver).trans (State.quiet_markRoomOf _ room).driver

theorem settled_enrolLoop (x : EnrolRequest) (i : LoopIx) : (s.enrolLoop x i).state.Settled := by
  refine settled_takenIf (fun _ => p) fun _ => ?_
  split
  · exact p
  · exact settled_takenIf
      (fun _ => settled_takenIf (fun _ => settled_done (settled_enrol p i _ _ _)) fun _ => p) fun _ => p

theorem settled_preset (m : Manifold) : (s.preset m).Settled := by
  have laid : s.SameDriver (s.layOut m) := s.driver_mapLoops fun i l => by split <;> rfl
  refine State.SameDriver.serve (laid.trans ?_) p
  exact ((State.quiet_recompute _).mild.trans (State.mild_coupling _ m)).driver.trans
    (State.driver_forEach _ _ fun t i => (t.quiet_markLoopIf _ i _).driver)

theorem settled_amendLoop (i : LoopIx) (a : LoopAmend) : (s.amendLoop i a).Settled := by
  have applied : s.SameDriver (s.setLoop i (a.apply (s.loop i))) := s.driver_modLoop i (f := a.apply) id
  have amended : s.SameDriver (s.amended i a) :=
    State.driver_ite (applied.trans (State.driver_voidBalance _ i)) applied
  refine State.SameDriver.serve (amended.trans ?_) p
  generalize s.amended i a = t
  refine (t.driver_wantHomeIf (a.retries (s.loop i)) i).trans (State.Mild.driver ?_)
  refine .trans ?_ (State.quiet_markRooms _ _ _).mild
  refine .trans ?_ (State.quiet_markLoopIf _ _ i _).mild
  refine .trans ?_ (State.quiet_recountIf _ _ i).mild
  exact (State.quiet_recomputeIf _ _).mild.trans (State.mild_couplingIf _ _ _)

theorem settled_amendLoopBy (ps : List Pair) (i : LoopIx) : (s.amendLoopBy ps i).state.Settled := by
  unfold State.amendLoopBy
  split
  · exact p
  · exact p
  · split
    · exact p
    · exact settled_takenIf (fun _ => p) fun _ => settled_done (settled_amendLoop p i _)

/-! ### Campaigns -/

theorem settled_startCampaigns (ms : List Manifold) : (s.startCampaigns ms).state.Settled :=
  settled_takenIf (fun _ => p) fun _ => settled_takenIf
    (fun _ => settled_done ((State.driver_forEach s ms fun t m => (t.mild_startCampaign m).driver).serve p)) fun _ => p

theorem settled_cancelCampaigns (ms : List Manifold) : (s.cancelCampaigns ms).state.Settled :=
  settled_takenIf (fun _ => settled_done ((s.mild_abandonAll ms .cancelled).driver.serve p)) fun _ => p

/-! ### The Drive Queue -/

/-- A drive that is not RUNNING starts no move. -/
theorem settled_setDriveState {d : DriveState} (stopped : d ≠ .running)
    (holding : d = .holding → s.drive.moving ≠ none) (held : d = .held → s.drive.moving = none) :
    (s.setDriveState d).Settled := by
  refine ⟨p.driven.setDriveState holding held, State.DriverBusy.canStart (.inr (.inr ?_))⟩
  rw [(s.driver_setDriveState d).state]
  exact stopped

theorem settled_hold : s.hold.state.Settled := by
  unfold State.hold
  split
  · refine settled_takenIf (fun moves => settled_done (settled_setDriveState p nofun (fun _ still => ?_) nofun))
      fun still => settled_done (settled_setDriveState p nofun nofun fun _ => Option.not_isSome_iff_eq_none.1 still)
    rw [still] at moves
    cases moves
  · exact p
  · exact p

theorem settled_stop (n : Nat) : (s.stop n).state.Settled := by
  unfold State.stop
  split
  · next m moving =>
    exact settled_takenIf (fun _ => p) fun _ => settled_done (State.settled_moveStopped (p.driven.unmarked moving) n)
  · next still => exact settled_done (settled_setDriveState p nofun nofun fun _ => still)

theorem settled_dwellOver : s.dwellOver.serve.Settled := by
  have ended : (s.setDwell none).Driven := ⟨⟨fun _ => rfl, p.driven.lawful.2⟩, p.driven.marks⟩
  exact ((State.quiet_tellIdle (s.setDwell none) s).driver.driven ended).serve

/-! ### RESTART -/

omit p in
theorem State.driver_clearQueue (s : State) : s.SameDriver s.clearQueue := by
  have queue : s.SameDriver (s.setQueue []) := ⟨rfl, rfl, rfl, fun _ => id⟩
  have wants := State.driver_mapLoops (s.setQueue []) (f := fun i l => if s.homing i then l else l.setWant none)
    fun i l => by split <;> rfl
  exact ((queue.trans wants).trans (State.driver_forEach _ _ fun t i => (t.quiet_tellWork s i).driver)).trans
    (State.quiet_tellIdle _ s).driver

omit p in
/-- RESTART marks only the loop whose move runs (R170). -/
theorem Loop.restarted_mark {l : Loop} {b : Bool} (h : (l.restarted b).restartMark = true) :
    l.restartMark = true ∨ b = true := by
  unfold Loop.restarted at h
  split at h
  · exact .inl h
  · split at h
    · next moving => exact .inr moving
    · split at h <;> cases h

omit p in
theorem State.Driven.allRestarted (d : s.Driven) : s.allRestarted.Driven := by
  refine ⟨?_, fun i m => ?_⟩
  · rw [State.allRestarted, State.mapLoops_drive]
    exact d.lawful
  · rw [State.allRestarted, State.loop_mapLoops] at m
    have moving : s.movingLoop i = true := (Loop.restarted_mark m).elim (d.marks i) id
    rw [State.movingLoop, State.allRestarted, State.mapLoops_drive]
    exact moving

omit p in
theorem State.driver_rehome (s : State) : s.allRestarted.SameDriver s.rehome := by
  unfold State.rehome
  dsimp only
  generalize s.allRestarted = t
  have coupled := ((State.driver_forEach t allLoops fun u i => (u.quiet_tellWork s i).driver).trans
    (State.quiet_recompute _).driver).trans (State.mild_couplingIf _ (s.readyLost t .a) .a).driver
  have filled := ((coupled.trans (State.mild_couplingIf _ (s.readyLost t .b) .b).driver).trans
    (State.quiet_recountAll _).driver).trans (State.quiet_fill _).driver
  exact filled.trans (State.driver_forEach _ _ fun u i =>
    ((u.quiet_markLoopIf _ i _).trans (State.quiet_markLoopIf _ _ i _)).driver)

/-- A lease restarted changes no effective demand, so nothing is handed to the Drive Queue (R32, R37). -/
theorem settled_leased (r : RoomIx) (m : Nat) : (s.changeRoom r ((s.room r).leased m)).Settled := by
  rw [State.changeRoom_unheard (Room.effective_leased _ _).symm]
  exact p.of_drive (State.markRoomIf_drive _ _ _ _) fun i marked => by
    rwa [State.loop_congr (s := s) (by simp)] at marked

theorem settled_restartLeases : s.restartLeases.Settled :=
  State.forEach_keeps (fun _ r q => settled_ite (fun _ => settled_leased q r _) fun _ => q) _ s p

theorem settled_pauseRound (m : Manifold) : (s.pauseRound m).Settled := by
  refine p.of_drive ?_ (s.mild_pauseRound m).driver.marks
  simp [State.pauseRound, State.clearCounters, State.roundStart]

theorem settled_restart : s.restart.Settled := by
  refine settled_pauseRound (settled_pauseRound (settled_restartLeases (State.Driven.serve ?_)) .a) .b
  refine (State.driver_rehome _).driven (State.Driven.allRestarted (State.Driven.running ?_))
  have abandoned := ((s.mild_abandon .a .restart).trans (State.mild_abandon _ .b .restart)).driver
  exact (abandoned.trans (State.driver_clearQueue _)).driven p.driven

/-! ### The Head Ports -/

omit p in
theorem State.driver_insertOccupied (s : State) (i : LoopIx) : s.SameDriver (s.insertOccupied i) := by
  unfold State.insertOccupied
  refine .trans ?_ (State.quiet_tellHead _ s i).driver
  refine .trans ?_ (State.mild_lifeChanged _ i _).driver
  refine .trans ?_ (State.quiet_tellBalance _ s i).driver
  refine .trans ?_ (State.driver_voidBalance _ i)
  refine .trans ?_ (State.driver_wantHome _ i)
  exact s.driver_modLoop i id

theorem settled_insert (i : LoopIx) : (s.insert i).Settled := by
  refine settled_ite (fun _ => p) fun _ => settled_ite (fun _ => (s.driver_insertOccupied i).serve p) fun _ => ?_
  have fitted := (s.driver_modLoop i (f := Loop.fitted) id).trans (State.quiet_tellHead _ s i).driver
  exact p.of_drive (State.markLoopIf_drive _ _ _ _) fitted.marks

omit p in
theorem State.driver_lifeBared (s : State) (i : LoopIx) : s.SameDriver (s.lifeBared i) := by
  unfold State.lifeBared
  split
  · exact s.driver_becomeVacant i
  · exact s.driver_setLife i _
  · exact s.driver_setLife i _
  · exact .refl s
  · exact .refl s

omit p in
theorem State.driver_bared (s before : State) (i : LoopIx) :
    s.SameDriver ((((((s.recount i).lifeBared i).coupling (manifoldOf i)).fill).tellHead before i)) := by
  have coupled := ((s.quiet_recount i).driver.trans (State.driver_lifeBared _ i)).trans
    (State.mild_coupling _ (manifoldOf i)).driver
  exact (coupled.trans (State.quiet_fill _).driver).trans (State.quiet_tellHead _ before i).driver

omit p in
theorem State.headLost_of_moving {m : Move} (h : s.drive.moving = some m) :
    s.headLost m.loop = s.takeEnd m .aborted (some .headLost) false := by
  rw [State.headLost, h]
  exact if_pos rfl

omit p in
theorem State.headLost_of_other {i : LoopIx} (h : ∀ m, s.drive.moving = some m → m.loop ≠ i) : s.headLost i = s := by
  unfold State.headLost
  split
  · next m moving => exact if_neg (h m moving)
  · rfl

omit p in
theorem State.driver_offTheHead (t : State) (i : LoopIx) : t.SameDriver ((t.dropWork i).modLoop i Loop.bared) :=
  (t.mild_dropWork i).driver.trans (State.driver_modLoop _ i (f := Loop.bared) nofun)

/-- A head taken off: its move has ended, and its restart mark is gone (R60, R170). -/
theorem driven_bared (i : LoopIx) : ((((s.headLost i).dropWork i).modLoop i Loop.bared)).Driven := by
  have off := (s.headLost i).driver_offTheHead i
  by_cases moves : ∃ m, s.drive.moving = some m ∧ m.loop = i
  · obtain ⟨m, moving, rfl⟩ := moves
    rw [State.headLost_of_moving moving] at off ⊢
    obtain ⟨halted, state, -⟩ := State.halted_takeEnd (p.driven.unmarked moving) .aborted (some .headLost) false
    refine State.driven_of_still (off.moving.trans halted.moving) (off.state ▸ state) fun j => ?_
    by_cases self : j = m.loop
    · rw [self, State.loop_modLoop_self]
      rfl
    · exact (off.halted halted).marks j self
  · rw [State.headLost_of_other fun m moving self => moves ⟨m, moving, self⟩] at off ⊢
    exact off.driven p.driven

theorem settled_remove (i : LoopIx) : (s.remove i).Settled :=
  settled_ite (fun _ => ((State.driver_bared _ s i).driven (driven_bared p i)).serve) fun _ => p

theorem settled_onMove {f : State → Move → State}
    (h : ∀ m, s.drive.moving = some m → (f s m).Settled) : Outcome.Settled (onMove s f) := by
  refine settled_event p ?_
  split
  · next m moving => exact h m moving
  · exact p

theorem settled_atStep {m : Move} (h : s.drive.moving = some m) (n : Nat) : (s.atStep m n).Settled :=
  (s.driver_modLoop m.loop (f := fun l => l.setStep n) id).settled p.driven (.inl (by rw [h]; nofun))

theorem settled_legReached {m : Move} (h : s.drive.moving = some m) : (s.legReached m).Settled :=
  settled_ite (fun _ => p) fun _ => State.settled_legDone (settled_atStep p h _) h _ _

theorem settled_homeEndStop {m : Move} (h : s.drive.moving = some m) (stop : EndStop) (n : Nat) :
    (s.homeEndStop m stop n).Settled := by
  have marks := p.driven.unmarked h
  unfold State.homeEndStop
  split
  · exact settled_ite (fun _ => State.settled_setMoving p h rfl) fun _ => p
  · exact settled_ite (fun _ => State.settled_homeFailed marks _ _) fun _ =>
      settled_ite (fun _ => State.settled_homeDone marks n) fun _ => p
  · exact p
  · exact p

theorem settled_legEndStop {m : Move} (h : s.drive.moving = some m) (stop : EndStop) (n : Nat) :
    (s.legEndStop m stop n).Settled := by
  unfold State.legEndStop
  split <;> exact settled_ite (fun _ => State.settled_legDone (settled_atStep p h _) h _ _) fun _ => p

theorem settled_stall (n : Nat) : Outcome.Settled (execStall n s) :=
  settled_onMove p fun _ h => settled_ite (fun _ => State.settled_homeFailed (p.driven.unmarked h) _ _) fun _ =>
    State.settled_moveStalled (p.driven.unmarked h) n

/-! ### The scan and the round expiry -/

omit p in
theorem State.driver_scanned (s : State) (samples : Vector (Option Int) 28) : s.SameDriver (s.scanned samples) := by
  have read : s.SameDriver (s.setChannels (s.sampled samples)) :=
    .of_eq (State.setChannels_drive _ _) (State.setChannels_loops _ _)
  refine read.trans ?_
  unfold State.scanned
  generalize s.setChannels (s.sampled samples) = t
  exact t.driver_mapLoops fun _ _ => rfl

omit p in
theorem State.driver_scan (s : State) (samples : Vector (Option Int) 28) : s.SameDriver (s.scan samples) := by
  refine (s.driver_scanned samples).trans ?_
  unfold State.scan
  dsimp only
  generalize s.scanned samples = x
  have refs : x.SameDriver ((x.setSupplyRef .a (s.scannedRef x .a)).setSupplyRef .b (s.scannedRef x .b)) :=
    ((x.mild_setSupplyRef .a _).trans (State.mild_setSupplyRef _ .b _)).driver
  refine refs.trans ?_
  generalize (x.setSupplyRef .a (s.scannedRef x .a)).setSupplyRef .b (s.scannedRef x .b) = y
  have news : y.SameDriver (y.takeNews s x) := y.driver_mapLoops fun i l => by
    unfold State.newsOf
    repeat' split
    all_goals rfl
  have supply : ∀ (t : State) (m : Manifold), t.Mild (t.supplyNews s x m) := fun t m =>
    State.mild_ite (t.mild_checkTimer m) (State.mild_ite (t.mild_coupling m) (.refl t))
  have campaign : ∀ (t : State) (m : Manifold), t.Mild (t.supplyCampaign s x m) := fun t m =>
    State.mild_ite (t.mild_checkCampaign m) (.refl t)
  have manifold : ∀ (t : State) (m : Manifold), t.Quiet (t.markManifold s x m) := fun t m =>
    (State.quiet_ite (t.quiet_mark _ _ _) (.refl t)).trans (State.quiet_ite (State.quiet_mark _ _ _ _) (.refl _))
  have sensors : ∀ t : State, t.Quiet (t.markSensors s x) := fun t => t.quiet_forEach _ fun u i =>
    ((u.quiet_markLoopIf _ i _).trans (State.quiet_markLoopIf _ _ i _)).trans (State.quiet_markLoopIf _ _ i _)
  have heard := (((supply (y.takeNews s x) .a).trans (supply _ .b)).trans (campaign _ .a)).trans (campaign _ .b)
  exact news.trans (((heard.trans (sensors _).mild).trans (manifold _ .a).mild).trans (manifold _ .b).mild).driver

omit p in
theorem State.driver_takeClaims (s before : State) (m : Manifold) : s.SameDriver (s.takeClaims before m) := by
  refine s.driver_forEach _ fun t i => ?_
  split
  · next n _ =>
    refine State.driver_ite ((t.driver_modLoop i (f := fun l => l.setCeiling n) id).trans ?_) (.refl t)
    exact (((State.quiet_recompute _).trans (State.quiet_recount _ i)).trans (State.quiet_markLoop _ i false)).driver
  · exact .refl t

omit p in
theorem State.driver_countRound (s : State) (m : Manifold) : s.SameDriver (s.countRound m) := by
  have store : ∀ t : State, t.SameDriver t.automaticStore := fun t => State.driver_ite (.of_eq rfl rfl) (.of_eq rfl rfl)
  have ended : ∀ (t : State) (o : LastOutcome), t.SameDriver (t.endCampaign m o) := fun t o =>
    ((t.mild_returnToIdle m o none).driver.trans (store _)).trans (State.quiet_markHouse _ true).driver
  refine State.driver_ite ((s.mild_setCampaign m (s.campaign m).counted).driver.trans ?_) (.refl s)
  generalize s.setCampaign m (s.campaign m).counted = t
  exact State.driver_ite (t.mild_abandon m _).driver (State.driver_ite (ended t _)
    (State.driver_ite (ended t _) (t.quiet_markHouse _).driver))

omit p in
theorem State.driver_roundOver (s : State) (m : Manifold) : s.SameDriver (s.roundOver m) := by
  have judged : s.SameDriver (s.judged m) := s.driver_mapLoops fun i l => by
    repeat' split
    all_goals rfl
  have cleared : ∀ t : State, t.SameDriver (t.clearChanged s m) := fun t =>
    (t.driver_mapLoops fun i l => by split <;> rfl).trans
      (State.driver_forEach _ _ fun u i => (u.quiet_markLoopIf _ i _).driver)
  have told : ∀ t : State, t.SameDriver (t.markVerdicts s m) := fun t => t.driver_forEach _ fun u i => by
    split
    · exact (u.quiet_markLoopIf _ i _).driver
    · exact .refl u
  have claimed := (judged.trans (State.mild_roundStart _ m true).driver).trans (State.driver_takeClaims _ s m)
  have counted := ((claimed.trans (State.mild_couplingIf _ (s.claimTaken m) m).driver).trans (cleared _)).trans
    (State.driver_countRound _ m)
  exact counted.trans (told _)

theorem settled_roundExpiry (m : Manifold) : Outcome.Settled (execRoundExpiry m s) := by
  unfold execRoundExpiry
  exact settled_event p (settled_ite (fun _ => (s.driver_roundOver m).serve p) fun _ => p)

/-! ### The link -/

theorem settled_sendPoll : s.sendPoll.Settled := by
  unfold State.sendPoll
  repeat' split
  all_goals exact p.of_link rfl rfl

theorem settled_answerCorrupt (k : SlotIx) : (s.answerCorrupt k).Settled := by
  unfold State.answerCorrupt
  split <;> exact p.of_link rfl rfl

theorem settled_join (kind : StationKind) (address : Nat) : Outcome.Settled (execJoin kind address s) := by
  refine settled_powered p (settled_ite (fun _ => p) fun _ => ?_)
  split
  · exact p
  · unfold State.takeJoin
    repeat' split
    all_goals exact p.of_link rfl rfl
  · exact settled_answerCorrupt p _

omit p in
theorem State.driver_lapse (s : State) (r : RoomIx) : s.SameDriver (s.lapse r) := s.driver_changeRoom r _

omit p in
theorem State.driver_setSlot (s : State) (k : SlotIx) (x : Option Slot) : s.SameDriver (s.setSlot k x) :=
  .of_eq rfl rfl

omit p in
theorem State.driver_lapseRoomsOf (s : State) (k : SlotIx) : s.SameDriver (s.lapseRoomsOf k) :=
  s.driver_forEach _ fun t r => State.driver_ite (t.driver_lapse r) (.refl t)

omit p in
theorem State.driver_lapseRooms (s : State) : s.SameDriver s.lapseRooms :=
  s.driver_forEach _ fun t r => State.driver_ite (t.driver_lapse r) (.refl t)

theorem settled_freeSlot (k : SlotIx) (x : Slot) : (s.freeSlot k x).Settled := by
  have lapsed := ((s.driver_setSlot k (some x.unwatched)).trans (State.driver_lapseRoomsOf _ k)).driven p.driven
  refine State.Driven.serve ((State.driver_setSlot _ k none).driven ?_)
  unfold State.releaseDrive
  split
  · exact lapsed.running
  · exact lapsed

theorem settled_windowExpiry : s.windowExpiry.Settled := by
  unfold State.windowExpiry
  split
  · exact p
  · exact p.of_link rfl rfl
  · split
    · exact settled_ite (fun _ => settled_freeSlot (s := s.setWindow .shut) (p.of_link rfl rfl) _ _) fun _ =>
        p.of_link rfl rfl
    · exact p.of_link rfl rfl

theorem settled_linkRestart : s.linkRestart.Settled := by
  have cleared : s.SameDriver s.clearWatches := .of_eq (by simp [State.clearWatches]) (by simp [State.clearWatches])
  have emptied : ∀ t : State, t.SameDriver t.emptyRoster := fun t => .of_eq rfl rfl
  exact State.SameDriver.serve ((cleared.trans (State.driver_lapseRooms _)).trans (emptied _)) p

theorem settled_setWatch (k : SlotIx) (w : Watch) : (s.setWatch k w).state.Settled := by
  unfold State.setWatch
  split
  · exact settled_takenIf (fun _ => p) fun _ => settled_takenIf (fun _ => p) fun _ => p.of_link rfl rfl
  · exact p

theorem settled_clearWatch (k : SlotIx) (w : Watch) : (s.clearWatch k w).state.Settled := by
  unfold State.clearWatch
  split
  · exact settled_takenIf (fun _ => p.of_link rfl rfl) fun _ => p
  · exact p

end

/-! ### Power-up and loss of supply -/

theorem loadLoop_mark (found : Option Image) (heads : Vector Bool 24) (i : LoopIx) :
    (loadLoop found heads i).restartMark = false := by
  cases found <;> rfl

theorem settled_powerUp (s : State) (heads : Vector Bool 24) (line : Bool) : (s.powerUp heads line).Settled := by
  have loaded : (s.loaded heads line).Driven := by
    refine State.driven_of_still rfl nofun fun i => ?_
    rw [State.loop_loaded]
    exact loadLoop_mark _ _ _
  have awake : (s.loaded heads line).SameDriver ((s.loaded heads line).mapLoops fun _ l => l.wakened) :=
    State.driver_mapLoops _ fun i l => by
      unfold Loop.wakened
      split <;> rfl
  have ready := (awake.trans (State.quiet_fill _).driver).trans (State.quiet_recompute _).driver
  exact ((ready.driven loaded).serve).of_records (State.tellWatches_records _)

theorem settled_unpowered (s : State) : s.unpowered.Settled :=
  ⟨State.driven_of_still rfl nofun fun i => congrArg Loop.restartMark (State.loop_reset i), rfl⟩

end Sys2Proof.Machine
end

section
/-! PROOF. Every command and every step leaves the driver settled, one lemma for each command that has not had one
(R75, R83, R90, R170). -/

namespace Sys2Proof.Machine

theorem settled_execPowerUp (s : State) (heads : Vector Bool 24) (line : Bool) :
    Outcome.Settled (execPowerUp heads line s) := by
  intro t h
  rw [← Host.Outcome.next.inj h]
  exact settled_powerUp s heads line

section
variable {s : State} (p : s.Settled)
include p

theorem settled_execPoll : Outcome.Settled (execPoll s) := by
  unfold execPoll
  exact settled_event p (settled_ite (fun _ => settled_sendPoll p) fun _ => p)

theorem settled_execNoneReply : Outcome.Settled (execNoneReply s) := by
  unfold execNoneReply
  exact settled_request p fun _ _ q => settled_done q

theorem settled_execCorruptReply : Outcome.Settled (execCorruptReply s) := by
  unfold execCorruptReply
  exact settled_reply p fun k _ => settled_answerCorrupt p k

theorem settled_execWindowExpiry : Outcome.Settled (execWindowExpiry s) := by
  unfold execWindowExpiry
  exact settled_event p (settled_windowExpiry p)

theorem settled_execLinkRestart : Outcome.Settled (execLinkRestart s) := by
  unfold execLinkRestart
  exact settled_event p (settled_ite (fun _ => p) fun _ => settled_linkRestart p)

theorem settled_execBreakEnd : Outcome.Settled (execBreakEnd s) := by
  unfold execBreakEnd
  exact settled_event p (p.of_link rfl rfl)

theorem settled_execUnknownRequest (kind : Byte) (b : List Byte) : Outcome.Settled (execUnknownRequest kind b s) := by
  unfold execUnknownRequest
  exact settled_request p fun _ _ q => q

theorem settled_execLook (b : List Byte) : Outcome.Settled (execLook b s) := by
  unfold execLook
  exact settled_request p fun _ _ q => settled_checked q fun _ => settled_takenIf (fun _ => settled_done q) fun _ => q

theorem settled_execWatchSet (b : List Byte) : Outcome.Settled (execWatchSet b s) := by
  unfold execWatchSet
  exact settled_request p fun k _ q => settled_checked q fun w => settled_setWatch q k w

theorem settled_execWatchClear (b : List Byte) : Outcome.Settled (execWatchClear b s) := by
  unfold execWatchClear
  exact settled_request p fun k _ q => settled_checked q fun w => settled_clearWatch q k w

theorem settled_execDescribe (b : List Byte) : Outcome.Settled (execDescribe b s) := by
  unfold execDescribe
  exact settled_request p fun _ _ q => settled_checked q fun _ => settled_done q

theorem settled_execClaim (b : List Byte) : Outcome.Settled (execClaim b s) := by
  unfold execClaim
  exact settled_request p fun k _ q => settled_checked q fun _ => settled_onRoom q fun r => settled_claimRoom q k r

theorem settled_execDemand (b : List Byte) : Outcome.Settled (execDemand b s) := by
  unfold execDemand
  exact settled_request p fun k _ q => settled_checked q fun _ => settled_onRoom q fun r => settled_postDemand q k r _

theorem settled_execRelease (b : List Byte) : Outcome.Settled (execRelease b s) := by
  unfold execRelease
  exact settled_request p fun k _ q => settled_checked q fun _ => settled_onRoom q fun r => settled_releaseRoom q k r

theorem settled_execAmendLoop (b : List Byte) : Outcome.Settled (execAmendLoop b s) := by
  unfold execAmendLoop
  exact settled_request p fun _ _ q => settled_checked q fun _ => settled_onLoop q fun i => settled_amendLoopBy q _ i

theorem settled_execEnrol (b : List Byte) : Outcome.Settled (execEnrol b s) := by
  unfold execEnrol
  exact settled_request p fun _ _ q => settled_checked q fun _ => settled_onLoop q fun i => settled_enrolLoop q _ i

theorem settled_execRetire (b : List Byte) : Outcome.Settled (execRetire b s) := by
  unfold execRetire
  exact settled_request p fun _ _ q => settled_checked q fun _ => settled_onLoop q fun i => settled_retireLoop q i

theorem settled_execPreset (b : List Byte) : Outcome.Settled (execPreset b s) := by
  unfold execPreset
  exact settled_request p fun _ _ q => settled_checked q fun m => settled_takenIf (fun _ => q) fun _ =>
    settled_takenIf (fun _ => settled_done (settled_preset q m)) fun _ => q

theorem settled_execCampaignStart (b : List Byte) : Outcome.Settled (execCampaignStart b s) := by
  unfold execCampaignStart
  exact settled_request p fun _ _ q => settled_checked q fun ms => settled_startCampaigns q ms

theorem settled_execCampaignCancel (b : List Byte) : Outcome.Settled (execCampaignCancel b s) := by
  unfold execCampaignCancel
  exact settled_request p fun _ _ q => settled_checked q fun ms => settled_cancelCampaigns q ms

theorem settled_execHold (b : List Byte) : Outcome.Settled (execHold b s) := by
  unfold execHold
  exact settled_order p fun _ q => settled_hold q

theorem settled_execStop (b : List Byte) (n : Nat) : Outcome.Settled (execStop b n s) := by
  unfold execStop
  exact settled_order p fun _ q => settled_stop q n

theorem settled_execResume (b : List Byte) : Outcome.Settled (execResume b s) := by
  unfold execResume
  exact settled_order p fun _ q => settled_done q.driven.running.serve

theorem settled_execStore (b : List Byte) : Outcome.Settled (execStore b s) := by
  unfold execStore
  exact settled_order p fun _ q => settled_takenIf (fun _ => q) fun _ => settled_done (settled_takeStore q)

theorem settled_execRestart (b : List Byte) : Outcome.Settled (execRestart b s) := by
  unfold execRestart
  exact settled_order p fun _ q => settled_done (settled_restart q)

theorem settled_execInsertion (i : LoopIx) : Outcome.Settled (execInsertion i s) := by
  unfold execInsertion
  exact settled_event p (settled_insert p i)

theorem settled_execRemoval (i : LoopIx) : Outcome.Settled (execRemoval i s) := by
  unfold execRemoval
  exact settled_event p (settled_remove p i)

theorem settled_execMoveStart : Outcome.Settled (execMoveStart s) := by
  unfold execMoveStart
  exact settled_event p p.driven.serve

theorem settled_execLegReached : Outcome.Settled (execLegReached s) := by
  unfold execLegReached
  exact settled_onMove p fun _ h => settled_legReached p h

theorem settled_execEndStopReached (stop : EndStop) (n : Nat) : Outcome.Settled (execEndStopReached stop n s) := by
  unfold execEndStopReached
  exact settled_onMove p fun _ h => settled_ite (fun _ => settled_homeEndStop p h stop n) fun _ =>
    settled_legEndStop p h stop n

theorem settled_execHomingTravelLimit : Outcome.Settled (execHomingTravelLimit s) := by
  unfold execHomingTravelLimit
  exact settled_onMove p fun _ h => settled_ite (fun _ =>
    State.settled_homeFailed (p.driven.unmarked h) _ _) fun _ => p

theorem settled_execDwellExpiry : Outcome.Settled (execDwellExpiry s) := by
  unfold execDwellExpiry
  exact settled_event p (settled_dwellOver p)

theorem settled_execScanCompletion (samples : Vector (Option Int) 28) : Outcome.Settled (execScanCompletion samples s) := by
  unfold execScanCompletion
  exact settled_event p ((s.driver_scan samples).serve p)

theorem settled_execMinuteTick : Outcome.Settled (execMinuteTick s) := by
  unfold execMinuteTick
  exact settled_event p (settled_minuteTick p)

theorem settled_execMidnight : Outcome.Settled (execMidnight s) := by
  unfold execMidnight
  exact settled_event p (settled_ite (fun _ => settled_midnight p) fun _ => p)

theorem settled_execExerciseMinute : Outcome.Settled (execExerciseMinute s) := by
  unfold execExerciseMinute
  exact settled_event p (settled_ite (fun _ => settled_exercise p) fun _ => p)

theorem settled_execStoreCompletion (agrees : Bool) : Outcome.Settled (execStoreCompletion agrees s) := by
  unfold execStoreCompletion
  exact settled_event p (settled_storeCompletion p agrees)

theorem settled_execPauseLineAssertion : Outcome.Settled (execPauseLineAssertion s) := by
  unfold execPauseLineAssertion
  exact settled_event p (settled_applyHouse p _)

theorem settled_execPauseLineRelease : Outcome.Settled (execPauseLineRelease s) := by
  unfold execPauseLineRelease
  exact settled_event p (settled_applyHouse p _)

theorem settled_execLossOfSupply : Outcome.Settled (execLossOfSupply s) := by
  unfold execLossOfSupply
  exact settled_powered p (settled_unpowered s)

theorem settled_execBreakOnset : Outcome.Settled (execBreakOnset s) := by
  unfold execBreakOnset
  exact settled_event p (settled_ite (fun _ =>
    p.of_link (State.setBreak_drive _ _) (State.setBreak_loops _ _)) fun _ => p)

theorem settled_execAmendOfDriveOrRoster (b : List Byte) : Outcome.Settled (execAmendOfDriveOrRoster b s) := by
  unfold execAmendOfDriveOrRoster
  exact settled_request p fun _ _ q => q

theorem settled_execOpenCallReplyDiscarded : Outcome.Settled (execOpenCallReplyDiscarded s) := by
  unfold execOpenCallReplyDiscarded
  exact settled_reply p fun k _ => settled_answerCorrupt p k

/-- Every command leaves the driver settled. -/
theorem exec_settled (c : Instr) : Outcome.Settled (exec c s) := by
  cases c with
  | powerUp heads line => exact settled_execPowerUp s heads line
  | poll => exact settled_execPoll p
  | noneReply => exact settled_execNoneReply p
  | corruptReply => exact settled_execCorruptReply p
  | join kind address => exact settled_join p kind address
  | windowExpiry => exact settled_execWindowExpiry p
  | linkRestart => exact settled_execLinkRestart p
  | breakEnd => exact settled_execBreakEnd p
  | unknownRequest kind b => exact settled_execUnknownRequest p kind b
  | look b => exact settled_execLook p b
  | watchSet b => exact settled_execWatchSet p b
  | watchClear b => exact settled_execWatchClear p b
  | describe b => exact settled_execDescribe p b
  | claim b => exact settled_execClaim p b
  | demand b => exact settled_execDemand p b
  | release b => exact settled_execRelease p b
  | amendLoop b => exact settled_execAmendLoop p b
  | amendRoom b => exact settled_amendRoom p b
  | amendFloor b => exact settled_amendFloor p b
  | amendHouse b => exact settled_amendHouse p b
  | enrol b => exact settled_execEnrol p b
  | retire b => exact settled_execRetire p b
  | preset b => exact settled_execPreset p b
  | campaignStart b => exact settled_execCampaignStart p b
  | campaignCancel b => exact settled_execCampaignCancel p b
  | hold b => exact settled_execHold p b
  | stop b n => exact settled_execStop p b n
  | resume b => exact settled_execResume p b
  | store b => exact settled_execStore p b
  | restart b => exact settled_execRestart p b
  | insertion i => exact settled_execInsertion p i
  | removal i => exact settled_execRemoval p i
  | moveStart => exact settled_execMoveStart p
  | legReached => exact settled_execLegReached p
  | endStopReached stop n => exact settled_execEndStopReached p stop n
  | homingTravelLimit => exact settled_execHomingTravelLimit p
  | stall n => exact settled_stall p n
  | dwellExpiry => exact settled_execDwellExpiry p
  | scanCompletion samples => exact settled_execScanCompletion p samples
  | minuteTick => exact settled_execMinuteTick p
  | leaseExpiry r => exact settled_leaseExpiry p r
  | midnight => exact settled_execMidnight p
  | exerciseMinute => exact settled_execExerciseMinute p
  | roundExpiry m => exact settled_roundExpiry p m
  | storeCompletion agrees => exact settled_execStoreCompletion p agrees
  | pauseLineAssertion => exact settled_execPauseLineAssertion p
  | pauseLineRelease => exact settled_execPauseLineRelease p
  | lossOfSupply => exact settled_execLossOfSupply p
  | breakOnset => exact settled_execBreakOnset p
  | amendOfDriveOrRoster b => exact settled_execAmendOfDriveOrRoster p b
  | openCallReplyDiscarded => exact settled_execOpenCallReplyDiscarded p

end

/-- A second of the dwell, while no command waits (log 5). -/
theorem settled_secondTick {s : State} (p : s.Settled) : s.secondTick.Settled := by
  refine settled_ite (fun _ => ⟨⟨⟨fun w => ?_, p.driven.lawful.2⟩, p.driven.marks⟩, ?_⟩) fun _ => p
  · rw [State.setDwell_drive_dwell, p.driven.lawful.1 w]
    rfl
  · have start := p.start
    rwa [State.StartLaw, State.canStart, State.setDwell_drive_dwell, Option.isNone_map]

theorem step_settled {s t : State} (p : s.Settled) (h : step s = .next t) : t.Settled := by
  cases waiting : s.pending with
  | nil =>
    rw [step_nil waiting] at h
    cases h
    exact settled_secondTick p
  | cons c rest =>
    rw [step_cons waiting] at h
    exact exec_settled (s := { s with pending := rest }) (p.of_link rfl rfl) c t h

end Sys2Proof.Machine

open Sys2Proof Sys2Proof.Machine

/-- Settles O59: every step leaves the driver settled. -/
theorem driveLawsAreKept : Obligations.DriveLawsAreKept := by
  intro s t lawful marks start h
  obtain ⟨⟨lawful', marks'⟩, start'⟩ := step_settled ⟨⟨lawful, marks⟩, start⟩ h
  exact ⟨lawful', marks', start'⟩
end

section
/-! PROOF. The polls of a pass (R174), the replies that are no request (R175) and the open call (R177). -/

namespace Sys2Proof.Machine

/-- The first index of a range that passes a test. -/
theorem find_finRange {n : Nat} {p : Fin n → Bool} {k : Fin n} (h : p k = true) (b : ∀ j, j < k → p j = false) :
    (List.finRange n).find? p = some k := by
  rw [List.find?_eq_some_iff_getElem]
  refine ⟨h, k.val, by simp, by simp, fun j hj => ?_⟩
  have : p ((List.finRange n)[j]'(by simp; omega)) = false := b _ (by simpa [Fin.lt_def] using hj)
  simpa using this

/-- No index of a range passes a test. -/
theorem find_finRange_none {n : Nat} {p : Fin n → Bool} (h : ∀ j, p j = false) : (List.finRange n).find? p = none := by
  simp [List.find?_eq_none, h]

/-- An event with supply that leaves no report. -/
theorem event_calm {s : State} (h : s.powered = true) {f : State → State} (q : (f s).reports = []) :
    event s f = .next (f s) := by
  rw [event_next h, State.tellWatches_quiet q]

/-! ### Polling -/

theorem State.nextSlot_eq_some {s : State} {k : SlotIx} {x : Slot} (h : s.slot k = some x) (c : s.link.cursor ≤ k.val)
    (b : ∀ j : SlotIx, s.link.cursor ≤ j.val → j < k → s.slot j = none) : s.nextSlot = some k := by
  refine find_finRange (by simp [h, c]) fun j hj => ?_
  by_cases hc : s.link.cursor ≤ j.val
  · simp [b j hc hj]
  · simp [hc]

theorem State.nextSlot_eq_none {s : State} (b : ∀ j : SlotIx, s.link.cursor ≤ j.val → s.slot j = none) :
    s.nextSlot = none := by
  refine find_finRange_none fun j => ?_
  by_cases hc : s.link.cursor ≤ j.val
  · simp [b j hc]
  · simp [hc]

theorem State.sendPoll_slot {s : State} {k : SlotIx} {x : Slot} (n : s.nextSlot = some k) (h : s.slot k = some x) :
    s.sendPoll = { s with
      link := { s.link with window := .slot k, cursor := k.val + 1, sent := frame x.address .poll [] } } := by
  simp only [State.sendPoll, n, h]
  rfl

theorem State.sendPoll_open {s : State} (n : s.nextSlot = none) :
    s.sendPoll = { s with link := { s.link with window := .openCall, cursor := 18, sent := frame 63 .poll [] } } := by
  simp only [State.sendPoll, n]
  rfl

theorem exec_poll_calm {s t : State} (p : s.powered = true) (q : t.reports = [])
    (h : (if s.link.window = .shut ∧ s.link.lineBreak = .clear then s.sendPoll else s) = t) :
    exec .poll s = .next t := by
  subst h
  exact event_calm p q

/-! ### Replies that are no request -/

/-- A reply that counts for the poll and is no request. -/
theorem State.Polled.corrupt {s : State} {k : SlotIx} {x : Slot} (h : s.Polled k x) :
    s.answerCorrupt k = { s with
      link := { s.link with window := .shut, sent := frame x.address .answer (answerPayload .corrupt none []) } } := by
  simp only [State.answerCorrupt, h.slot]
  rfl

theorem State.Polled.exec_join {s : State} {k : SlotIx} {x : Slot} (h : s.Polled k x) (kind : StationKind) (a : Nat) :
    exec (.join kind a) s = .next (s.answerCorrupt k) := by
  have e : exec (.join kind a) s = execJoin kind a s := rfl
  rw [e, execJoin, Sys2Proof.Machine.powered, if_pos h.powered, if_neg (by simp [h.clear]), h.window]

/-! ### The open call -/

theorem State.addressHeld_iff {s : State} {a : Nat} :
    s.addressHeld a = true ↔ ∃ (j : SlotIx) (y : Slot), s.slot j = some y ∧ y.address = a := by
  simp only [State.addressHeld, List.any_eq_true, allSlots, List.mem_finRange, true_and]
  constructor
  · rintro ⟨j, h⟩
    cases e : s.slot j with
    | none => simp [e] at h
    | some y => exact ⟨j, y, e, by simpa [e] using h⟩
  · rintro ⟨j, y, e, h⟩
    exact ⟨j, by simpa [e] using h⟩

theorem State.emptySlot_eq_some {s : State} {k : SlotIx} (h : s.slot k = none)
    (b : ∀ j : SlotIx, j < k → slotKind j = slotKind k → s.slot j ≠ none) : s.emptySlot (slotKind k) = some k := by
  refine find_finRange (by simp [h]) fun j hj => ?_
  by_cases e : slotKind j = slotKind k
  · simp [Option.isNone_eq_false_iff, Option.isSome_iff_ne_none, b j hj e]
  · simp [e]

theorem State.emptySlot_eq_none {s : State} {kind : StationKind} (b : ∀ j : SlotIx, slotKind j = kind → s.slot j ≠ none) :
    s.emptySlot kind = none := by
  refine find_finRange_none fun j => ?_
  by_cases e : slotKind j = kind
  · simp [Option.isNone_eq_false_iff, Option.isSome_iff_ne_none, b j e]
  · simp [e]

theorem State.takeJoin_ignored {s : State} {kind : StationKind} {a : Nat}
    (h : s.addressHeld a = true ∨ s.emptySlot kind = none) : s.takeJoin kind a = s := by
  unfold State.takeJoin
  split
  · rfl
  next free => rw [h.resolve_left free]

theorem State.takeJoin_taken {s : State} {kind : StationKind} {a : Nat} {k : SlotIx} (free : s.addressHeld a = false)
    (h : s.emptySlot kind = some k) :
    s.takeJoin kind a = (s.setSlot k (some ⟨a, 0, [], none⟩)).setSent
      (frame a .answer (answerPayload .done none [byte k.val])) := by
  rw [State.takeJoin, if_neg (by simp [free]), h]

theorem exec_join_openCall {s : State} (p : s.powered = true) (b : s.link.lineBreak = .clear)
    (w : s.link.window = .openCall) (kind : StationKind) (a : Nat) :
    exec (.join kind a) s = .next (s.takeJoin kind a).openCallOver := by
  have e : exec (.join kind a) s = execJoin kind a s := rfl
  rw [e, execJoin, Sys2Proof.Machine.powered, if_pos p, if_neg (by simp [b]), w]

theorem reply_openCall {s : State} (p : s.powered = true) (b : s.link.lineBreak = .clear)
    (w : s.link.window = .openCall) (counts : SlotIx → Slot → State → State) :
    reply s counts = .next s.openCallOver := by
  rw [reply, Sys2Proof.Machine.powered, if_pos p, if_neg (by simp [b]), w]

end Sys2Proof.Machine

open Sys2Proof Sys2Proof.Machine

/-- Settles O6: the search of the roster finds the next occupied slot, or none. -/
theorem pollGoesToTheNextOccupiedSlot : Obligations.PollGoesToTheNextOccupiedSlot := by
  intro s p q
  refine ⟨fun w b => ⟨fun k x h c first => ?_, fun none => ?_⟩, fun n => ?_⟩
  · exact exec_poll_calm p q
      (by rw [if_pos ⟨w, b⟩, State.sendPoll_slot (State.nextSlot_eq_some h c first) h])
  · exact exec_poll_calm p q (by rw [if_pos ⟨w, b⟩, State.sendPoll_open (State.nextSlot_eq_none none)])
  · exact exec_poll_calm p q (if_neg (by tauto))

/-- Settles O7: a NONE is a request that any station may make; the others are answered CORRUPT alike. -/
theorem repliesThatAreNoRequest : Obligations.RepliesThatAreNoRequest := by
  intro s k x h q
  constructor
  · have e : exec .noneReply s = execNoneReply s := rfl
    rw [e, execNoneReply, h.allowed rfl, (s.onlyAnswers_finish k x .done []).quiet q]
    rfl
  · intro kind a c m
    rw [← h.corrupt]
    simp only [List.mem_cons, List.not_mem_nil, or_false] at m
    rcases m with rfl | rfl | rfl
    · exact h.reply fun k _ t => t.answerCorrupt k
    · exact h.reply fun k _ t => t.answerCorrupt k
    · exact h.exec_join kind a

/-- Settles O8: the search for an empty slot, and the test of the addresses held. -/
theorem joinTakesTheLowestEmptySlot : Obligations.JoinTakesTheLowestEmptySlot := by
  intro s kind a p b w
  refine ⟨fun free k hk empty lowest => ?_, fun ignored => ?_, reply_openCall p b w fun k _ t => t.answerCorrupt k⟩
  · subst hk
    have unheld : s.addressHeld a = false := by
      rw [← Bool.not_eq_true, State.addressHeld_iff]
      exact fun ⟨j, y, e, h⟩ => free j y e h
    rw [exec_join_openCall p b w, State.takeJoin_taken unheld (State.emptySlot_eq_some empty lowest)]
    rfl
  · rw [exec_join_openCall p b w,
      State.takeJoin_ignored (ignored.imp State.addressHeld_iff.mpr State.emptySlot_eq_none)]
    rfl
end

section
/-! PROOF. The first three checks of a request (R179): unknown kinds, senders whose kind may not make it, and payloads
outside their form; rooms outside 1 to 16 (R30). -/

namespace Sys2Proof.Machine

/-! ### What each command is taken by -/

theorem exec_poll (s : State) : exec .poll s = execPoll s := rfl
theorem exec_noneReply (s : State) : exec .noneReply s = execNoneReply s := rfl
theorem exec_corruptReply (s : State) : exec .corruptReply s = execCorruptReply s := rfl
theorem exec_windowExpiry (s : State) : exec .windowExpiry s = execWindowExpiry s := rfl
theorem exec_linkRestart (s : State) : exec .linkRestart s = execLinkRestart s := rfl
theorem exec_breakEnd (s : State) : exec .breakEnd s = execBreakEnd s := rfl
theorem exec_breakOnset (s : State) : exec .breakOnset s = execBreakOnset s := rfl
theorem exec_openCallReplyDiscarded (s : State) : exec .openCallReplyDiscarded s = execOpenCallReplyDiscarded s := rfl
theorem exec_moveStart (s : State) : exec .moveStart s = execMoveStart s := rfl
theorem exec_legReached (s : State) : exec .legReached s = execLegReached s := rfl
theorem exec_homingTravelLimit (s : State) : exec .homingTravelLimit s = execHomingTravelLimit s := rfl
theorem exec_dwellExpiry (s : State) : exec .dwellExpiry s = execDwellExpiry s := rfl
theorem exec_minuteTick (s : State) : exec .minuteTick s = execMinuteTick s := rfl
theorem exec_midnight (s : State) : exec .midnight s = execMidnight s := rfl
theorem exec_exerciseMinute (s : State) : exec .exerciseMinute s = execExerciseMinute s := rfl
theorem exec_pauseLineAssertion (s : State) : exec .pauseLineAssertion s = execPauseLineAssertion s := rfl
theorem exec_pauseLineRelease (s : State) : exec .pauseLineRelease s = execPauseLineRelease s := rfl
theorem exec_lossOfSupply (s : State) : exec .lossOfSupply s = execLossOfSupply s := rfl
theorem exec_look (p : List Byte) (s : State) : exec (.look p) s = execLook p s := rfl
theorem exec_watchSet (p : List Byte) (s : State) : exec (.watchSet p) s = execWatchSet p s := rfl
theorem exec_watchClear (p : List Byte) (s : State) : exec (.watchClear p) s = execWatchClear p s := rfl
theorem exec_describe (p : List Byte) (s : State) : exec (.describe p) s = execDescribe p s := rfl
theorem exec_claim (p : List Byte) (s : State) : exec (.claim p) s = execClaim p s := rfl
theorem exec_demand (p : List Byte) (s : State) : exec (.demand p) s = execDemand p s := rfl
theorem exec_release (p : List Byte) (s : State) : exec (.release p) s = execRelease p s := rfl
theorem exec_amendLoop (p : List Byte) (s : State) : exec (.amendLoop p) s = execAmendLoop p s := rfl
theorem exec_amendRoom (p : List Byte) (s : State) : exec (.amendRoom p) s = execAmendRoom p s := rfl
theorem exec_amendFloor (p : List Byte) (s : State) : exec (.amendFloor p) s = execAmendFloor p s := rfl
theorem exec_amendHouse (p : List Byte) (s : State) : exec (.amendHouse p) s = execAmendHouse p s := rfl
theorem exec_enrol (p : List Byte) (s : State) : exec (.enrol p) s = execEnrol p s := rfl
theorem exec_retire (p : List Byte) (s : State) : exec (.retire p) s = execRetire p s := rfl
theorem exec_preset (p : List Byte) (s : State) : exec (.preset p) s = execPreset p s := rfl
theorem exec_campaignStart (p : List Byte) (s : State) : exec (.campaignStart p) s = execCampaignStart p s := rfl
theorem exec_campaignCancel (p : List Byte) (s : State) : exec (.campaignCancel p) s = execCampaignCancel p s := rfl
theorem exec_hold (p : List Byte) (s : State) : exec (.hold p) s = execHold p s := rfl
theorem exec_resume (p : List Byte) (s : State) : exec (.resume p) s = execResume p s := rfl
theorem exec_store (p : List Byte) (s : State) : exec (.store p) s = execStore p s := rfl
theorem exec_restart (p : List Byte) (s : State) : exec (.restart p) s = execRestart p s := rfl
theorem exec_amendOfDriveOrRoster (p : List Byte) (s : State) : exec (.amendOfDriveOrRoster p) s = execAmendOfDriveOrRoster p s := rfl
theorem exec_powerUp (heads : Vector Bool 24) (line : Bool) (s : State) : exec (.powerUp heads line) s = execPowerUp heads line s := rfl
theorem exec_join (kind : StationKind) (a : Nat) (s : State) : exec (.join kind a) s = execJoin kind a s := rfl
theorem exec_unknownRequest (kind : Byte) (p : List Byte) (s : State) : exec (.unknownRequest kind p) s = execUnknownRequest kind p s := rfl
theorem exec_stop (p : List Byte) (n : Nat) (s : State) : exec (.stop p n) s = execStop p n s := rfl
theorem exec_insertion (i : LoopIx) (s : State) : exec (.insertion i) s = execInsertion i s := rfl
theorem exec_removal (i : LoopIx) (s : State) : exec (.removal i) s = execRemoval i s := rfl
theorem exec_endStopReached (e : EndStop) (n : Nat) (s : State) : exec (.endStopReached e n) s = execEndStopReached e n s := rfl
theorem exec_stall (n : Nat) (s : State) : exec (.stall n) s = execStall n s := rfl
theorem exec_scanCompletion (x : Vector (Option Int) 28) (s : State) : exec (.scanCompletion x) s = execScanCompletion x s := rfl
theorem exec_leaseExpiry (r : RoomIx) (s : State) : exec (.leaseExpiry r) s = execLeaseExpiry r s := rfl
theorem exec_roundExpiry (m : Manifold) (s : State) : exec (.roundExpiry m) s = execRoundExpiry m s := rfl
theorem exec_storeCompletion (b : Bool) (s : State) : exec (.storeCompletion b) s = execStoreCompletion b s := rfl

/-! ### Requests refused by the first checks -/

/-- A command of the polled station is answered with a status and does nothing else. -/
def State.Refuses (s : State) (k : SlotIx) (x : Slot) (y : Status) (c : Instr) : Prop :=
  ∃ t, exec c s = .next t ∧ s.OnlyAnswers k x y [] t

theorem State.Polled.denies {s : State} {k : SlotIx} {x : Slot} (h : s.Polled k x) {c : Instr}
    {allowed : StationKind → Bool} {take : SlotIx → State → Taken}
    {o : Host.Outcome State Fault Refusal} (e : exec c s = o)
    (f : o = Sys2Proof.Machine.request s allowed take) (a : allowed (slotKind k) = false) :
    s.Refuses k x .denied c := by
  rw [State.Refuses, e, f]
  exact h.onlyDenied a take

theorem State.Polled.rejects {s : State} {k : SlotIx} {x : Slot} (h : s.Polled k x) {c : Instr}
    {allowed : StationKind → Bool} {α : Type} {form : List Byte → Option α} {p : List Byte}
    {take : SlotIx → State → α → Taken}
    {o : Host.Outcome State Fault Refusal} (e : exec c s = o)
    (f : o = Sys2Proof.Machine.request s allowed fun k t => checked form p t (take k t))
    (a : allowed (slotKind k) = true) (g : form p = none) : s.Refuses k x .range c := by
  rw [State.Refuses, e, f]
  exact h.onlyRange a g take

/-- A request of a sender that may make it, refused by its owner. -/
theorem State.Polled.refuses {s : State} {k : SlotIx} {x : Slot} (h : s.Polled k x) {c : Instr}
    {allowed : StationKind → Bool} {take : SlotIx → State → Taken} {y : Status}
    {o : Host.Outcome State Fault Refusal} (e : exec c s = o)
    (f : o = Sys2Proof.Machine.request s allowed take) (a : allowed (slotKind k) = true)
    (r : take k (s.heard k x) = (s.heard k x).refuse y ) : s.Refuses k x y c := by
  rw [State.Refuses, e, f, h.allowed a, r]
  exact ⟨_, rfl, s.refused_onlyAnswers k x y⟩

theorem roomUnit_eq {k : StationKind} : roomUnit k = decide (k = .room) := rfl
theorem serviceStation_eq {k : StationKind} : serviceStation k = decide (k = .service) := rfl

theorem State.Polled.serviceDenied {s : State} {k : SlotIx} {x : Slot} (h : s.Polled k x) (a : slotKind k ≠ .service)
    {c : Instr} {take : SlotIx → State → Taken} {o : Host.Outcome State Fault Refusal} (e : exec c s = o)
    (f : o = Sys2Proof.Machine.request s serviceStation take) : s.Refuses k x .denied c := h.denies e f (decide_eq_false a)

theorem State.Polled.roomDenied {s : State} {k : SlotIx} {x : Slot} (h : s.Polled k x) (a : slotKind k ≠ .room)
    {c : Instr} {take : SlotIx → State → Taken} {o : Host.Outcome State Fault Refusal} (e : exec c s = o)
    (f : o = Sys2Proof.Machine.request s roomUnit take) : s.Refuses k x .denied c := h.denies e f (decide_eq_false a)

theorem State.Polled.orderDenied {s : State} {k : SlotIx} {x : Slot} (h : s.Polled k x) (a : slotKind k ≠ .service)
    {c : Instr} {p : List Byte} {take : State → Taken} {o : Host.Outcome State Fault Refusal} (e : exec c s = o)
    (f : o = serviceOrder p s take) : s.Refuses k x .denied c := h.serviceDenied a e (f.trans (by rw [serviceOrder]))

/-- Codes 5 and 6 name DRIVE and ROSTER. -/
theorem namesDriveOrRoster_of {b : Byte} (h : b ∈ [(5 : Byte), 6]) (p : List Byte) :
    namesDriveOrRoster (b :: p) = true := by
  simp only [List.mem_cons, List.not_mem_nil, or_false] at h
  rcases h with rfl | rfl <;> rfl

/-! ### Payloads outside their form -/

theorem noParams_eq_none {p : List Byte} (h : p ≠ []) : noParams p = none := by
  cases p with
  | nil => exact absurd rfl h
  | cons b rest => rfl

theorem oneByte_eq_none {p : List Byte} (h : p.length ≠ 1) : oneByte p = none := by
  unfold oneByte
  split
  · exact absurd rfl h
  · rfl

theorem twoBytes_eq_none {p : List Byte} (h : p.length ≠ 2) : twoBytes p = none := by
  unfold twoBytes
  split
  · exact absurd rfl h
  · rfl

theorem lookForm_eq_none {p : List Byte} (h : p.length ≠ 3) : lookForm p = none := by
  unfold lookForm
  split
  · exact absurd rfl h
  · rfl

theorem watchForm_eq_none {p : List Byte} (h : p.length ≠ 5) : watchForm p = none := by
  unfold watchForm
  split
  · exact absurd rfl h
  · rfl

theorem enrolForm_eq_none {p : List Byte} (h : p.length ≠ 4) : enrolForm p = none := by
  unfold enrolForm
  split
  · exact absurd rfl h
  · rfl

theorem floorForm_eq_none {p : List Byte} (h : p.length < 4) : floorForm p = none := by
  unfold floorForm
  split
  · simp only [List.length_cons] at h
    omega
  · rfl

theorem manifoldsOf_eq_none {b : Byte} (h1 : b.toNat ≠ 1) (h2 : b.toNat ≠ 2) (h3 : b.toNat ≠ 3) :
    manifoldsOf b = none := by
  unfold manifoldsOf
  split
  · exact absurd ‹_› h1
  · exact absurd ‹_› h2
  · exact absurd ‹_› h3
  · rfl

theorem presetForm_eq_none {p : List Byte} (h : p.length ≠ 1) : presetForm p = none := by
  unfold presetForm
  split
  · exact absurd rfl h
  · rfl

theorem campaignForm_eq_none {p : List Byte} (h : p.length ≠ 1) : campaignForm p = none := by
  unfold campaignForm
  split
  · exact absurd rfl h
  · rfl

/-! ### The pairs of an AMEND -/

/-- The three bytes of a pair (11.2). -/
def Pair.bytes (q : Pair) : List Byte := [byte q.field, byte (q.value / 256), byte q.value]

/-- Three bytes spell a pair exactly where they are its bytes and it fits them. -/
theorem pair_eq_iff {f hi lo : Byte} {q : Pair} :
    (⟨f.toNat, number2 hi lo⟩ : Pair) = q ↔ (q.field < 256 ∧ q.value < 65536) ∧ [f, hi, lo] = q.bytes := by
  have hf := f.isLt
  have hh := hi.isLt
  have hl := lo.isLt
  constructor
  · rintro rfl
    refine ⟨⟨hf, by simp only [number2]; omega⟩, ?_⟩
    simp only [Pair.bytes, byte, number2, List.cons.injEq, and_true]
    refine ⟨?_, ?_, ?_⟩ <;> apply BitVec.eq_of_toNat_eq <;> simp only [BitVec.toNat_ofNat] <;> omega
  · rintro ⟨⟨bf, bv⟩, e⟩
    obtain ⟨n, v⟩ := q
    simp only [Pair.bytes, byte, List.cons.injEq, and_true] at e
    obtain ⟨rfl, rfl, rfl⟩ := e
    simp only [number2, BitVec.toNat_ofNat, Pair.mk.injEq] at *
    omega

theorem pairsOf_iff (bytes : List Byte) (ps : List Pair) :
    pairsOf bytes = some ps ↔ (∀ q ∈ ps, q.field < 256 ∧ q.value < 65536) ∧ bytes = ps.flatMap Pair.bytes := by
  induction ps generalizing bytes with
  | nil =>
    match bytes with
    | [] => simp [pairsOf]
    | [_] => simp [pairsOf]
    | [_, _] => simp [pairsOf]
    | f :: hi :: lo :: rest => cases e : pairsOf rest <;> simp [pairsOf, e]
  | cons q ps ih =>
    match bytes with
    | [] => simp [pairsOf, Pair.bytes]
    | [_] => simp [pairsOf, Pair.bytes]
    | [_, _] => simp [pairsOf, Pair.bytes]
    | f :: hi :: lo :: rest =>
      have split : pairsOf (f :: hi :: lo :: rest) = some (q :: ps) ↔
          (⟨f.toNat, number2 hi lo⟩ : Pair) = q ∧ pairsOf rest = some ps := by
        cases e : pairsOf rest <;> simp [pairsOf, e]
      rw [split, ih, pair_eq_iff]
      simp only [Pair.bytes, List.mem_cons, forall_eq_or_imp, List.flatMap_cons, List.cons_append, List.nil_append,
        List.cons.injEq, and_true]
      tauto

theorem amendForm_iff {known : List Nat} {index count : Byte} {bytes : List Byte} {n : Nat} {ps : List Pair} :
    amendForm known (index :: count :: bytes) = some (n, ps) ↔
      n = index.toNat ∧ count.toNat = ps.length ∧ 1 ≤ ps.length ∧ ps.length ≤ 6 ∧
        (∀ q ∈ ps, q.field ∈ known ∧ q.field < 256 ∧ q.value < 65536) ∧ bytes = ps.flatMap Pair.bytes := by
  have found : amendForm known (index :: count :: bytes) = some (n, ps) ↔
      pairsOf bytes = some ps ∧ (ps.length = count.toNat ∧ 1 ≤ ps.length ∧ ps.length ≤ 6 ∧
        ps.all fun p => known.contains p.field) ∧ index.toNat = n := by
    cases e : pairsOf bytes with
    | none => simp [amendForm, e]
    | some qs =>
      simp only [amendForm, e, Option.ite_none_right_eq_some, Option.some.injEq, Prod.mk.injEq]
      constructor
      · rintro ⟨h, rfl, rfl⟩
        exact ⟨rfl, h, rfl⟩
      · rintro ⟨rfl, h, rfl⟩
        exact ⟨h, rfl, rfl⟩
  rw [found, pairsOf_iff]
  simp only [List.all_eq_true, List.contains_iff_mem, forall_and]
  tauto

/-- A payload of an AMEND has two bytes and three for each of its pairs. -/
theorem amendForm_eq_none (known : List Nat) {p : List Byte} (h : p.length < 5 ∨ 20 < p.length ∨ p.length % 3 ≠ 2) :
    amendForm known p = none := by
  match p with
  | [] => rfl
  | [_] => rfl
  | index :: count :: bytes =>
    rw [Option.eq_none_iff_forall_ne_some]
    rintro ⟨n, ps⟩ e
    obtain ⟨-, -, low, high, -, rfl⟩ := amendForm_iff.mp e
    have : (ps.flatMap Pair.bytes).length = 3 * ps.length := by
      simp [List.length_flatMap, Pair.bytes, Nat.mul_comm]
    simp only [List.length_cons, this] at h
    omega

/-! ### Rooms outside 1 to 16 -/

theorem State.onRoom_refused (s : State) {n : Nat} (h : n = 0 ∨ 16 < n) (take : RoomIx → Taken) :
    s.onRoom n take = s.refuse .nosuch := by
  rw [State.onRoom, roomNumber, dif_neg (by omega)]

/-! ### The service station's requests -/

theorem serviceStation_of {k : SlotIx} (h : slotKind k = .service) : serviceStation (slotKind k) = true :=
  decide_eq_true h

theorem roomUnit_of {k : SlotIx} (h : slotKind k = .room) : roomUnit (slotKind k) = true := decide_eq_true h

theorem notSource_of {k : SlotIx} (h : slotKind k = .service ∨ slotKind k = .room) : notSource (slotKind k) = true := by
  rcases h with h | h <;> rw [h] <;> rfl

theorem notRoomUnit_of {k : SlotIx} (h : slotKind k ≠ .room) : notRoomUnit (slotKind k) = true := decide_eq_true h

theorem State.Polled.serviceRejects {s : State} {k : SlotIx} {x : Slot} (h : s.Polled k x) (a : slotKind k = .service)
    {c : Instr} {α : Type} {form : List Byte → Option α} {p : List Byte} {take : SlotIx → State → α → Taken}
    {o : Host.Outcome State Fault Refusal} (e : exec c s = o)
    (f : o = Sys2Proof.Machine.request s serviceStation fun k t => checked form p t (take k t))
    (g : form p = none) : s.Refuses k x .range c := h.rejects e f (serviceStation_of a) g

theorem State.Polled.orderRejects {s : State} {k : SlotIx} {x : Slot} (h : s.Polled k x) (a : slotKind k = .service)
    {c : Instr} {p : List Byte} {take : State → Taken} {o : Host.Outcome State Fault Refusal} (e : exec c s = o)
    (f : o = serviceOrder p s take) (g : p ≠ []) : s.Refuses k x .range c :=
  h.serviceRejects a (take := fun _ t _ => take t) e (f.trans (by rw [serviceOrder])) (noParams_eq_none g)

/-- A request in its form that the block refuses for the room or the loop it names. -/
theorem State.Polled.refusesTaken {s : State} {k : SlotIx} {x : Slot} (h : s.Polled k x) {c : Instr}
    {allowed : StationKind → Bool} {α : Type} {form : List Byte → Option α} {p : List Byte} {b : α}
    {take : SlotIx → State → α → Taken} {y : Status} {o : Host.Outcome State Fault Refusal} (e : exec c s = o)
    (f : o = Sys2Proof.Machine.request s allowed fun k t => checked form p t (take k t))
    (a : allowed (slotKind k) = true) (g : form p = some b)
    (r : take k (s.heard k x) b = (s.heard k x).refuse y) : s.Refuses k x y c := by
  rw [State.Refuses, e, f, h.taken a g, r]
  exact ⟨_, rfl, s.refused_onlyAnswers k x y⟩

end Sys2Proof.Machine

open Sys2Proof Sys2Proof.Machine

/-- Settles O11, by the table of R179. -/
theorem unknownAndDeniedRequestsChangeNothing : Obligations.UnknownAndDeniedRequestsChangeNothing := by
  intro s k x p step h
  refine ⟨fun kind => h.refuses (exec_unknownRequest kind p s) rfl rfl rfl, fun a => ?_,
    fun a => h.denies (exec_release p s) rfl (by rw [a]; rfl),
    fun a => h.denies (exec_amendHouse p s) rfl (by rw [a]; rfl), fun a => ?_,
    fun b m => h.denies (exec_amendOfDriveOrRoster (b :: p) s) rfl (by simp [namesDriveOrRoster_of m])⟩
  · rw [List.forall_mem_cons, List.forall_mem_singleton]
    exact ⟨h.roomDenied a (exec_claim p s) rfl, h.roomDenied a (exec_demand p s) rfl⟩
  · simp only [List.forall_mem_cons, List.not_mem_nil, IsEmpty.forall_iff, implies_true, and_true]
    exact ⟨h.serviceDenied a (exec_amendLoop p s) rfl, h.serviceDenied a (exec_amendRoom p s) rfl,
      h.serviceDenied a (exec_amendFloor p s) rfl, h.serviceDenied a (exec_enrol p s) rfl,
      h.serviceDenied a (exec_retire p s) rfl, h.serviceDenied a (exec_preset p s) rfl,
      h.serviceDenied a (exec_campaignStart p s) rfl, h.serviceDenied a (exec_campaignCancel p s) rfl,
      h.orderDenied a (exec_hold p s) rfl, h.orderDenied a (exec_stop p step s) rfl,
      h.orderDenied a (exec_resume p s) rfl, h.orderDenied a (exec_store p s) rfl,
      h.orderDenied a (exec_restart p s) rfl⟩

/-- Settles O12: a payload outside its form, the form of the pairs, and rooms outside 1 to 16. -/
theorem payloadsAndRoomsOutOfRangeAreRefused : Obligations.PayloadsAndRoomsOutOfRangeAreRefused := by
  refine ⟨fun s k x p step h => ⟨fun n => ?look, fun n => ?watch, fun n => ?describe, fun a => ?room, fun a => ?service,
    fun a n => ?house⟩, fun _ _ _ _ _ _ => amendForm_iff, fun s k x b d h outside => ⟨fun a => ?unit, fun a => ?freed⟩⟩
  case look => exact h.rejects (exec_look p s) rfl rfl (lookForm_eq_none n)
  case watch =>
    rw [List.forall_mem_cons, List.forall_mem_singleton]
    exact ⟨h.rejects (exec_watchSet p s) rfl rfl (watchForm_eq_none n),
      h.rejects (exec_watchClear p s) rfl rfl (watchForm_eq_none n)⟩
  case describe => exact h.rejects (exec_describe p s) rfl rfl (noParams_eq_none n)
  case room =>
    refine ⟨fun n => ?_, fun n => h.rejects (exec_demand p s) rfl (roomUnit_of a) (twoBytes_eq_none n)⟩
    rw [List.forall_mem_cons, List.forall_mem_singleton]
    exact ⟨h.rejects (exec_claim p s) rfl (roomUnit_of a) (oneByte_eq_none n),
      h.rejects (exec_release p s) rfl (notSource_of (.inr a)) (oneByte_eq_none n)⟩
  case service =>
    refine ⟨fun n => ?one, fun n => h.serviceRejects a (exec_enrol p s) rfl (enrolForm_eq_none n), fun n => ?order,
      fun n => ?amend, fun n => h.serviceRejects a (exec_amendFloor p s) rfl (floorForm_eq_none n),
      fun b n1 n2 n3 => ?manifold, h.serviceRejects a (exec_amendLoop p s) rfl,
      h.serviceRejects a (exec_amendRoom p s) rfl⟩
    all_goals simp only [List.forall_mem_cons, List.not_mem_nil, IsEmpty.forall_iff, implies_true, and_true]
    case one =>
      exact ⟨h.rejects (exec_release p s) rfl (notSource_of (.inl a)) (oneByte_eq_none n),
        h.serviceRejects a (exec_retire p s) rfl (oneByte_eq_none n),
        h.serviceRejects a (exec_preset p s) rfl (presetForm_eq_none n),
        h.serviceRejects a (exec_campaignStart p s) rfl (campaignForm_eq_none n),
        h.serviceRejects a (exec_campaignCancel p s) rfl (campaignForm_eq_none n)⟩
    case order =>
      exact ⟨h.orderRejects a (exec_hold p s) rfl n, h.orderRejects a (exec_stop p step s) rfl n,
        h.orderRejects a (exec_resume p s) rfl n, h.orderRejects a (exec_store p s) rfl n,
        h.orderRejects a (exec_restart p s) rfl n⟩
    case amend =>
      exact ⟨h.serviceRejects a (exec_amendLoop p s) rfl (amendForm_eq_none _ n),
        h.serviceRejects a (exec_amendRoom p s) rfl (amendForm_eq_none _ n),
        h.rejects (exec_amendHouse p s) rfl (notRoomUnit_of (by rw [a]; exact StationKind.noConfusion))
          (amendForm_eq_none _ n)⟩
    case manifold =>
      have none : manifoldsOf b = none := manifoldsOf_eq_none n1 n2 n3
      exact ⟨h.serviceRejects a (exec_preset [b] s) rfl (by simp [presetForm, none]),
        h.serviceRejects a (exec_campaignStart [b] s) rfl none, h.serviceRejects a (exec_campaignCancel [b] s) rfl none⟩
  case house => exact h.rejects (exec_amendHouse p s) rfl (notRoomUnit_of a) n
  case unit =>
    simp only [List.forall_mem_cons, List.not_mem_nil, IsEmpty.forall_iff, implies_true, and_true]
    exact ⟨h.refusesTaken (exec_claim [b] s) rfl (roomUnit_of a) rfl (State.onRoom_refused _ outside _),
      h.refusesTaken (exec_demand [b, d] s) rfl (roomUnit_of a) rfl (State.onRoom_refused _ outside _),
      h.refusesTaken (exec_release [b] s) rfl (notSource_of (.inr a)) rfl (State.onRoom_refused _ outside _)⟩
  case freed =>
    exact ⟨h.refusesTaken (exec_release [b] s) rfl (notSource_of (.inl a)) rfl (State.onRoom_refused _ outside _),
      fun p ps form => h.refusesTaken (exec_amendRoom p s) rfl (serviceStation_of a) form
        (State.onRoom_refused _ outside _)⟩
end

section
/-! PROOF. DESCRIBE (R183) and the watches of a slot (R181). -/

namespace Sys2Proof.Machine

/-! ### DESCRIBE -/

theorem State.occupiedCount_eq (s : State) (m : Manifold) :
    s.occupiedCount m = (allLoops.filter fun i => manifoldOf i = m ∧ (s.loop i).life ≠ .vacant).length := by
  rw [State.occupiedCount, loopsOf, List.filter_filter]
  exact congrArg List.length (List.filter_congr fun i _ => by simp [Loop.occupied, Bool.and_comm])

theorem State.readyCount_eq (s : State) (m : Manifold) :
    s.readyCount m = (allLoops.filter fun i => manifoldOf i = m ∧ (s.loop i).life = .ready).length := by
  rw [State.readyCount, loopsOf, List.filter_filter]
  exact congrArg List.length (List.filter_congr fun i _ => by simp [Bool.and_comm])

theorem State.Polled.exec_describe {s : State} {k : SlotIx} {x : Slot} (h : s.Polled k x) :
    exec (.describe []) s = .next ((⟨.done, (s.heard k x).description, s.heard k x⟩ : Taken).finish k) := by
  rw [Sys2Proof.Machine.exec_describe, execDescribe]
  exact h.taken (form := noParams) rfl rfl fun _ t _ => ⟨.done, t.description, t⟩

/-- The description of a state in which a slot has been heard. -/
theorem State.description_heard (s : State) (k : SlotIx) (x : Slot) : (s.heard k x).description = s.description := rfl

/-! ### Watches -/

/-- A state in which a slot has been heard, its watches then replaced. -/
theorem State.heard_setWatches (s : State) (k : SlotIx) (x : Slot) (w : List Watch) :
    (s.heard k x).setSlot k (some { x.heard with watches := w }) = s.heard k { x with watches := w } := by
  simp only [State.heard, State.setSlot, State.setWindow, Slot.heard, Vector.set_set]

theorem State.setWatch_held {s : State} {k : SlotIx} {y : Slot} (h : s.slot k = some y) {w : Watch}
    (m : w ∈ y.watches) : s.setWatch k w = s.refuse .done := by
  simp [State.setWatch, h, m]

theorem State.setWatch_full {s : State} {k : SlotIx} {y : Slot} (h : s.slot k = some y) {w : Watch}
    (m : w ∉ y.watches) (f : 2 ≤ y.watches.length) : s.setWatch k w = s.refuse .full := by
  simp [State.setWatch, h, m, Config.watchCapacity, f]

theorem State.setWatch_new {s : State} {k : SlotIx} {y : Slot} (h : s.slot k = some y) {w : Watch}
    (m : w ∉ y.watches) (f : y.watches.length < 2) :
    s.setWatch k w = ⟨.done, [], s.setSlot k (some { y with watches := y.watches ++ [w] })⟩ := by
  simp [State.setWatch, h, m, Config.watchCapacity, Nat.not_le.mpr f]

theorem State.clearWatch_held {s : State} {k : SlotIx} {y : Slot} (h : s.slot k = some y) {w : Watch}
    (m : w ∈ y.watches) :
    s.clearWatch k w = ⟨.done, [], s.setSlot k (some { y with watches := y.watches.erase w })⟩ := by
  simp [State.clearWatch, h, m]

theorem State.clearWatch_missing {s : State} {k : SlotIx} {y : Slot} (h : s.slot k = some y) {w : Watch}
    (m : w ∉ y.watches) : s.clearWatch k w = s.refuse .nosuch := by
  simp [State.clearWatch, h, m]

theorem State.Polled.exec_watchSet {s : State} {k : SlotIx} {x : Slot} (h : s.Polled k x) {p : List Byte} {w : Watch}
    (f : watchForm p = some w) : exec (.watchSet p) s = .next (((s.heard k x).setWatch k w).finish k) := by
  rw [Sys2Proof.Machine.exec_watchSet, execWatchSet, h.taken rfl f]

theorem State.Polled.exec_watchClear {s : State} {k : SlotIx} {x : Slot} (h : s.Polled k x) {p : List Byte} {w : Watch}
    (f : watchForm p = some w) : exec (.watchClear p) s = .next (((s.heard k x).clearWatch k w).finish k) := by
  rw [Sys2Proof.Machine.exec_watchClear, execWatchClear, h.taken rfl f]

/-- A request that only replaces the sender's watches. -/
theorem State.onlyAnswers_setWatches {s : State} {k : SlotIx} {x : Slot} {c : Instr} {r : Taken} {w : List Watch}
    (e : exec c s = .next (r.finish k))
    (h : r = ⟨.done, [], (s.heard k x).setSlot k (some { x.heard with watches := w })⟩) :
    ∃ t, exec c s = .next t ∧ s.OnlyAnswers k { x with watches := w } .done [] t := by
  rw [s.heard_setWatches k x w] at h
  exact ⟨_, e, h ▸ s.onlyAnswers_finish k { x with watches := w } .done []⟩

/-! ### The form of a watch -/

theorem tableOf_iff {b : Byte} {t : Table} : tableOf b = some t ↔
    (b.toNat, t) ∈ [(1, Table.loop), (2, .room), (3, .house), (4, .floor), (5, .drive), (6, .roster)] := by
  unfold tableOf
  split <;> cases t <;> simp_all

theorem watchTableOf_iff {b : Byte} {t : WatchTable} :
    watchTableOf b = some t ↔ (b.toNat, t) ∈ [(1, WatchTable.loop), (2, .room), (3, .house)] := by
  have codes : watchTableOf b = some t ↔ tableOf b = some (match t with
      | .loop => .loop
      | .room => .room
      | .house => .house) := by
    cases e : tableOf b with
    | none => simp [watchTableOf, e]
    | some u => cases u <;> cases t <;> simp [watchTableOf, e]
  rw [codes, tableOf_iff]
  cases t <;> simp

theorem flagOf_iff {b : Byte} {f : Bool} : flagOf b = some f ↔ (b.toNat, f) ∈ [(0, false), (1, true)] := by
  unfold flagOf
  split <;> cases f <;> simp_all

/-- A span holds an index of a table that runs from `first` to `last`. -/
theorem exists_index_iff {base span first last : Nat} (h : first ≤ last) (p : 0 < span) :
    (∃ n, base ≤ n ∧ n < base + span ∧ first ≤ n ∧ n ≤ last) ↔ base ≤ last ∧ first < base + span := by
  constructor
  · rintro ⟨n, h1, h2, h3, h4⟩
    omega
  · rintro ⟨h1, h2⟩
    exact ⟨max base first, by omega⟩

/-- The indices of a watched table (R180). -/
theorem WatchTable.holds_iff (t : WatchTable) (n : Nat) :
    (match t with
      | .loop => n ≤ 23
      | .room => 1 ≤ n ∧ n ≤ 16
      | .house => n ≤ 2) ↔ t.first ≤ n ∧ n ≤ t.last := by
  cases t <;> simp [WatchTable.first, WatchTable.last]

theorem Watch.formOk_iff (w : Watch) : w.formOk = true ↔
    (w.span = 1 ∨ w.span = 2 ∨ w.span = 4 ∨ w.span = 8) ∧ w.span ∣ w.base ∧ (w.mirror = true → w.table = .loop) ∧
      w.base ≤ w.table.last ∧ w.table.first < w.base + w.span := by
  simp only [Watch.formOk, Bool.and_eq_true, Bool.or_eq_true, decide_eq_true_eq, Bool.not_eq_true',
    Nat.dvd_iff_mod_eq_zero]
  cases w.mirror <;> simp <;> tauto

theorem watchForm_iff {t base span mirror condition : Byte} {w : Watch} :
    watchForm [t, base, span, mirror, condition] = some w ↔
      watchTableOf t = some w.table ∧ base.toNat = w.base ∧ span.toNat = w.span ∧ flagOf mirror = some w.mirror ∧
        flagOf condition = some (decide (w.condition = .state)) ∧ w.formOk = true := by
  obtain ⟨table, b, sp, m, c⟩ := w
  cases et : watchTableOf t with
  | none => simp [watchForm, et]
  | some table' =>
    cases em : flagOf mirror with
    | none => simp [watchForm, et, em]
    | some m' =>
      cases ec : flagOf condition with
      | none => simp [watchForm, et, em, ec]
      | some c' =>
        simp only [watchForm, et, em, ec, Option.ite_none_right_eq_some, Option.some.injEq, Watch.mk.injEq]
        constructor
        · rintro ⟨ok, rfl, rfl, rfl, rfl, rfl⟩
          refine ⟨rfl, rfl, rfl, rfl, ?_, ok⟩
          cases c' <;> rfl
        · rintro ⟨rfl, rfl, rfl, rfl, e, ok⟩
          have : (if c' = true then Condition.state else .any) = c := by
            subst e
            cases c <;> rfl
          rw [this]
          exact ⟨ok, rfl, rfl, rfl, rfl, rfl⟩

theorem condition_flag_iff {n : Nat} {c : Condition} :
    (n, decide (c = .state)) ∈ [(0, false), (1, true)] ↔ (n, c) ∈ [(0, Condition.any), (1, .state)] := by
  cases c <;> simp

end Sys2Proof.Machine

open Sys2Proof Sys2Proof.Machine

/-- Settles O15: the counts of the description are those of the loops of each manifold. -/
theorem describeCountsTheLoops : Obligations.DescribeCountsTheLoops := by
  intro s k x h
  refine ⟨_, h.exec_describe, ?_⟩
  simp only [← State.occupiedCount_eq, ← State.readyCount_eq]
  exact s.onlyAnswers_finish k x .done s.description

/-- Settles O14: the slot that has been heard is the sender's, and the form of a watch field by field. -/
theorem watchesAreSetAndCleared : Obligations.WatchesAreSetAndCleared := by
  refine ⟨fun s k x p w h f => ?_, fun t base span mirror condition w => ?_, fun s k x p h f => ?_⟩
  · have own := s.slot_heard_self k x
    have set := h.exec_watchSet f
    have clear := h.exec_watchClear f
    exact ⟨fun m => onlyAnswers_of_refused set (State.setWatch_held own m),
      fun m n => onlyAnswers_of_refused set (State.setWatch_full own m n),
      fun m n => State.onlyAnswers_setWatches set (State.setWatch_new own m n),
      fun m => State.onlyAnswers_setWatches clear (State.clearWatch_held own m),
      fun m => onlyAnswers_of_refused clear (State.clearWatch_missing own m)⟩
  · have ends : w.table.first ≤ w.table.last := by cases w.table <;> decide
    rw [watchForm_iff, watchTableOf_iff, flagOf_iff, flagOf_iff, condition_flag_iff, Watch.formOk_iff]
    have spans : (w.span = 1 ∨ w.span = 2 ∨ w.span = 4 ∨ w.span = 8) → 0 < w.span := by omega
    constructor
    · rintro ⟨ht, hb, hs, hm, hc, hspan, hd, hmir, hr⟩
      refine ⟨ht, hb, hs, hm, hc, hspan, hd, hmir, ?_⟩
      obtain ⟨n, low, high, own⟩ := (exists_index_iff ends (spans hspan)).mpr hr
      exact ⟨n, low, high, (WatchTable.holds_iff w.table n).mpr own⟩
    · rintro ⟨ht, hb, hs, hm, hc, hspan, hd, hmir, n, low, high, own⟩
      exact ⟨ht, hb, hs, hm, hc, hspan, hd, hmir,
        (exists_index_iff ends (spans hspan)).mp ⟨n, low, high, (WatchTable.holds_iff w.table n).mp own⟩⟩
  · rw [List.forall_mem_cons, List.forall_mem_singleton]
    refine ⟨?_, ?_⟩
    · rw [exec_watchSet]
      exact h.onlyRange rfl f _
    · rw [exec_watchClear]
      exact h.onlyRange rfl f _
end

section
/-! PROOF. What a recompute reads (R113, R120, R121), the operations that leave it alone, and the rooms that lapse
together with the slot that held them (R40, R176, R178). -/

namespace Sys2Proof.Machine

/-! ### What the Demand Unit reads -/

/-- Two records of a loop are the same to the Demand Unit: life, configuration, stroke and floor-held mark. -/
structure Loop.SameAim (l x : Loop) : Prop where
  life : x.life = l.life
  config : l.SameConfig x
  stroke : x.commanded = l.commanded
  held : x.floorHeld = l.floorHeld

theorem Loop.SameAim.refl (l : Loop) : l.SameAim l := ⟨rfl, .refl l, rfl, rfl⟩

/-- A recompute reads the same of two states. -/
structure State.SameInputs (s t : State) : Prop where
  life : ∀ i, (t.loop i).life = (s.loop i).life
  config : ∀ i, (s.loop i).SameConfig (t.loop i)
  effective : ∀ r, (t.room r).effective = (s.room r).effective
  floorList : t.floorList = s.floorList
  season : t.house.season = s.house.season
  flowFloor : t.house.flowFloor = s.house.flowFloor
  campaigns : ∀ m, t.campaignOpen m = s.campaignOpen m

theorem State.SameInputs.refl (s : State) : s.SameInputs s :=
  ⟨fun _ => rfl, fun _ => .refl _, fun _ => rfl, rfl, rfl, rfl, fun _ => rfl⟩

theorem State.SameInputs.trans {s t u : State} (h : s.SameInputs t) (g : t.SameInputs u) : s.SameInputs u :=
  ⟨fun i => (g.life i).trans (h.life i), fun i => (h.config i).trans (g.config i),
    fun r => (g.effective r).trans (h.effective r), g.floorList.trans h.floorList, g.season.trans h.season,
    g.flowFloor.trans h.flowFloor, fun m => (g.campaigns m).trans (h.campaigns m)⟩

section
variable {s t : State} (h : s.SameInputs t)
include h

theorem State.SameInputs.baseStroke (i : LoopIx) : t.baseStroke i = s.baseStroke i := by
  have demand : t.demandOf i = s.demandOf i := by
    rw [State.demandOf, State.demandOf, (h.config i).room]
    cases (s.loop i).room with
    | none => rfl
    | some r => exact h.effective r
  have config := h.config i
  simp only [State.baseStroke, h.life, config.owner, config.override, config.ceiling, h.season, h.campaigns, demand]

theorem State.SameInputs.canHelp (i : LoopIx) : t.canHelp i = s.canHelp i := by
  have config := h.config i
  simp only [State.canHelp, State.onDemand, h.life, config.owner, config.ceiling, h.season, h.campaigns, h.baseStroke]

theorem State.SameInputs.walk (l : List LoopIx) (n : Nat) : t.walk l n = s.walk l n := by
  induction l generalizing n with
  | nil => rfl
  | cons i l ih => simp only [State.walk, h.flowFloor, h.canHelp, h.baseStroke, (h.config i).ceiling, ih]

theorem State.SameInputs.floorWalk : t.floorWalk = s.floorWalk := by
  have sum : t.strokeSum = s.strokeSum := by
    simp only [State.strokeSum, h.life, funext h.baseStroke]
  simp only [State.floorWalk, h.season, h.flowFloor, h.floorList, h.walk, sum]

theorem State.SameInputs.evaluated : s.evaluated.SameStrokes t.evaluated := by
  refine ⟨fun i => ?_, fun i => ?_, ?_⟩
  · simp only [State.evaluated, State.loop_setFloorShort, State.loop_mapLoops, Loop.setStroke, State.newStroke,
      h.floorWalk, h.baseStroke, (h.config i).ceiling]
  · simp only [State.evaluated, State.loop_setFloorShort, State.loop_mapLoops, Loop.setStroke, h.floorWalk]
  · simp only [State.evaluated, State.setFloorShort_floorShort, h.floorWalk]

theorem State.SameInputs.recompute : s.recompute.SameStrokes t.recompute :=
  (s.sameStrokes_recompute.symm.trans h.evaluated).trans t.sameStrokes_recompute

end

/-- Two states are the same to the Demand Unit: what it reads, and what it has decided. -/
structure State.SameDemand (s t : State) : Prop where
  inputs : s.SameInputs t
  strokes : s.SameStrokes t

theorem State.SameDemand.refl (s : State) : s.SameDemand s := ⟨.refl s, .refl s⟩

theorem State.SameDemand.trans {s t u : State} (h : s.SameDemand t) (g : t.SameDemand u) : s.SameDemand u :=
  ⟨h.inputs.trans g.inputs, h.strokes.trans g.strokes⟩

/-- Strokes that a recompute gives stay so while what it reads stays. -/
theorem State.Commanded.of_demand {s t : State} (h : s.Commanded s) (g : s.SameDemand t) : t.Commanded t := by
  have again := g.inputs.recompute
  exact ⟨fun i => ((g.strokes.stroke i).trans (h.stroke i)).trans (again.stroke i).symm,
    fun i => ((g.strokes.held i).trans (h.held i)).trans (again.held i).symm,
    (g.strokes.short.trans h.short).trans again.short.symm⟩

theorem State.Commanded.of_inputs {s t u : State} (h : t.Commanded u) (g : s.SameInputs t) : s.Commanded u := by
  have same := g.recompute
  exact ⟨fun i => (h.stroke i).trans (same.stroke i), fun i => (h.held i).trans (same.held i),
    h.short.trans same.short⟩

theorem State.OnlyDemand.inputs {s t : State} (h : s.OnlyDemand t) : s.SameInputs t :=
  ⟨h.life, fun i => (h.loops i).config, fun r => by rw [State.room_congr h.rooms], h.floorList, by rw [h.house],
    by rw [h.house], h.campaignOpen⟩

theorem State.SameRecords.sameDemand {s t : State} (h : s.SameRecords t) : s.SameDemand t :=
  ⟨h.onlyDemand.inputs, h.strokes⟩

/-- What a change of loops that the Demand Unit does not see leaves of it. -/
theorem State.sameDemand_of {s t : State} (rooms : t.rooms = s.rooms) (floorList : t.floorList = s.floorList)
    (house : t.house = s.house) (short : t.floorShort = s.floorShort) (campaigns : t.campaigns = s.campaigns)
    (loops : ∀ i, (s.loop i).SameAim (t.loop i)) : s.SameDemand t where
  inputs := ⟨fun i => (loops i).life, fun i => (loops i).config, fun r => by rw [State.room_congr rooms], floorList,
    by rw [house], by rw [house], fun m => by rw [State.campaignOpen, State.campaign, campaigns]; rfl⟩
  strokes := ⟨fun i => (loops i).stroke, fun i => (loops i).held, short⟩

theorem State.sameDemand_ite {c : Prop} [Decidable c] {s t u : State} (h : c → s.SameDemand t) (g : ¬c → s.SameDemand u) :
    s.SameDemand (if c then t else u) := by
  split
  · exact h ‹_›
  · exact g ‹_›

theorem State.sameDemand_forEach {α : Type} (s : State) (l : List α) {f : State → α → State}
    (h : ∀ t a, State.SameDemand t (f t a)) : s.SameDemand (s.forEach l f) :=
  State.forEach_rel State.SameDemand.refl (fun _ _ _ => State.SameDemand.trans) h l s

theorem State.sameDemand_modLoop (s : State) (i : LoopIx) {f : Loop → Loop} (h : ∀ l : Loop, l.SameAim (f l)) :
    s.SameDemand (s.modLoop i f) := by
  refine State.sameDemand_of rfl rfl rfl rfl rfl fun j => ?_
  rw [State.loop_modLoop]
  split
  next e => exact e ▸ h _
  · exact .refl _

theorem State.sameDemand_mapLoops (s : State) {f : LoopIx → Loop → Loop} (h : ∀ i (l : Loop), l.SameAim (f i l)) :
    s.SameDemand (s.mapLoops f) :=
  State.sameDemand_of (s.mapLoops_rooms f) (s.mapLoops_floorList f) (s.mapLoops_house f) (s.mapLoops_floorShort f)
    (s.mapLoops_campaigns f) fun j => by
      simp only [State.loop_mapLoops]
      exact h j _

theorem State.sameDemand_of_loops {s t : State} (rooms : t.rooms = s.rooms) (floorList : t.floorList = s.floorList)
    (house : t.house = s.house) (short : t.floorShort = s.floorShort) (campaigns : t.campaigns = s.campaigns)
    (loops : t.loops = s.loops) : s.SameDemand t :=
  State.sameDemand_of rooms floorList house short campaigns fun i => by
    rw [State.loop_congr loops]
    exact .refl _

/-- A campaign record that stays open, or stays at IDLE. -/
theorem State.sameDemand_setCampaign (s : State) {m : Manifold} {c : Campaign}
    (h : c.state = .idle ↔ (s.campaign m).state = .idle) : s.SameDemand (s.setCampaign m c) where
  inputs := by
    refine ⟨fun _ => rfl, fun _ => .refl _, fun _ => rfl, rfl, rfl, rfl, fun n => ?_⟩
    by_cases e : m = n
    · subst e
      simp only [State.campaignOpen, State.campaign_setCampaign, ne_eq, h]
    · have same : (s.setCampaign m c).campaign n = s.campaign n := PerManifold.get_set_ne _ e c
      simp only [State.campaignOpen, same]
  strokes := ⟨fun _ => rfl, fun _ => rfl, rfl⟩

/-! ### Operations the Demand Unit does not see -/

theorem Loop.sameAim_zeroCounter (l : Loop) : l.SameAim l.zeroCounter := ⟨rfl, ⟨rfl, rfl, rfl, rfl, rfl, rfl⟩, rfl, rfl⟩

theorem Loop.sameAim_setWant (l : Loop) (w : Option MoveKind) : l.SameAim (l.setWant w) :=
  ⟨rfl, ⟨rfl, rfl, rfl, rfl, rfl, rfl⟩, rfl, rfl⟩

theorem Loop.sameAim_setPending (l : Loop) (t : Option Nat) : l.SameAim (l.setPending t) :=
  ⟨rfl, ⟨rfl, rfl, rfl, rfl, rfl, rfl⟩, rfl, rfl⟩

theorem Loop.sameAim_unhomed (l : Loop) : l.SameAim l.unhomed := ⟨rfl, ⟨rfl, rfl, rfl, rfl, rfl, rfl⟩, rfl, rfl⟩

theorem Loop.sameAim_setPosition (l : Loop) (p : Option Nat) : l.SameAim (l.setPosition p) :=
  ⟨rfl, ⟨rfl, rfl, rfl, rfl, rfl, rfl⟩, rfl, rfl⟩

theorem Loop.sameAim_rate (l : Loop) (n : Nat) (b : Balance) : l.SameAim (l.rate n b) :=
  ⟨rfl, ⟨rfl, rfl, rfl, rfl, rfl, rfl⟩, rfl, rfl⟩

theorem Loop.sameAim_setFaults (l : Loop) (f : FaultSet) : l.SameAim (l.setFaults f) :=
  ⟨rfl, ⟨rfl, rfl, rfl, rfl, rfl, rfl⟩, rfl, rfl⟩

theorem State.sameDemand_mark (s : State) (w : WatchTable) (n : Nat) (b : Bool) : s.SameDemand (s.mark w n b) :=
  State.sameDemand_of_loops rfl rfl rfl rfl rfl rfl

theorem State.sameDemand_markLoop (s : State) (i : LoopIx) (b : Bool) : s.SameDemand (s.markLoop i b) :=
  s.sameDemand_mark _ _ _

theorem State.sameDemand_markHouse (s : State) (b : Bool) : s.SameDemand (s.markHouse b) := s.sameDemand_mark _ _ _

theorem State.sameDemand_markLoopIf (s : State) (c : Bool) (i : LoopIx) (b : Bool) : s.SameDemand (s.markLoopIf c i b) :=
  State.sameDemand_ite (fun _ => s.sameDemand_markLoop i b) fun _ => .refl s

theorem State.sameDemand_markHouseIf (s : State) (c b : Bool) : s.SameDemand (s.markHouseIf c b) :=
  State.sameDemand_ite (fun _ => s.sameDemand_markHouse b) fun _ => .refl s

theorem State.sameDemand_markRoomOf (s : State) (r : Option RoomIx) : s.SameDemand (s.markRoomOf r) := by
  cases r with
  | none => exact .refl s
  | some r => exact s.sameDemand_mark _ _ _

theorem State.sameDemand_markRooms (s : State) (a b : Option RoomIx) : s.SameDemand (s.markRooms a b) :=
  State.sameDemand_ite (fun _ => .refl s) fun _ => State.sameDemand_forEach _ _ fun t _ =>
    State.sameDemand_ite (fun _ => t.sameDemand_mark _ _ _) fun _ => .refl t

theorem State.sameDemand_setDrive (s : State) (d : Drive) : s.SameDemand (s.setDrive d) :=
  State.sameDemand_of_loops rfl rfl rfl rfl rfl rfl

theorem State.sameDemand_setQueue (s : State) (q : List Entry) : s.SameDemand (s.setQueue q) := s.sameDemand_setDrive _

theorem State.sameDemand_recount (s : State) (i : LoopIx) : s.SameDemand (s.recount i) :=
  State.sameDemand_ite (fun _ => .refl s) fun _ => s.sameDemand_modLoop i Loop.sameAim_zeroCounter

theorem State.sameDemand_recountIf (s : State) (c : Bool) (i : LoopIx) : s.SameDemand (s.recountIf c i) :=
  State.sameDemand_ite (fun _ => s.sameDemand_recount i) fun _ => .refl s

theorem State.sameDemand_recountAll (s : State) : s.SameDemand s.recountAll :=
  s.sameDemand_mapLoops fun i l => by
    split
    · exact .refl l
    · exact l.sameAim_zeroCounter

theorem State.sameDemand_tellWork (t before : State) (i : LoopIx) : t.SameDemand (t.tellWork before i) :=
  (t.sameDemand_markLoopIf _ _ _).trans (State.sameDemand_markLoopIf _ _ _ _)

theorem State.sameDemand_tellIdle (t before : State) : t.SameDemand (t.tellIdle before) := t.sameDemand_markHouseIf _ _

theorem State.sameDemand_tellHead (t before : State) (i : LoopIx) : t.SameDemand (t.tellHead before i) :=
  t.sameDemand_markLoopIf _ _ _

theorem State.sameDemand_append (s : State) (e : Entry) : s.SameDemand (s.append e) :=
  (s.sameDemand_setQueue _).trans (State.sameDemand_tellIdle _ _)

theorem State.sameDemand_place (s : State) (i : LoopIx) : s.SameDemand (s.place i) := by
  unfold State.place
  split
  · exact State.sameDemand_ite (fun _ => s.sameDemand_append _) fun _ => .refl s
  · exact .refl s

theorem State.sameDemand_placeOwn (s : State) (i : LoopIx) : s.SameDemand (s.placeOwn i) :=
  State.sameDemand_ite (fun _ => .refl s) fun _ => s.sameDemand_place i

theorem State.sameDemand_fill (s : State) : s.SameDemand s.fill :=
  s.sameDemand_forEach _ fun t i => t.sameDemand_place i

theorem State.sameDemand_want (s : State) (i : LoopIx) (k : MoveKind) : s.SameDemand (s.want i k) :=
  State.sameDemand_ite (fun _ => ((((s.sameDemand_modLoop i fun l => l.sameAim_setWant _).trans
    (State.sameDemand_setQueue _ _)).trans (State.sameDemand_recount _ i)).trans
      (State.sameDemand_markLoop _ i _)).trans (State.sameDemand_placeOwn _ i)) fun _ => .refl s

theorem State.sameDemand_wantHome (s : State) (i : LoopIx) : s.SameDemand (s.wantHome i) :=
  ((s.sameDemand_modLoop i Loop.sameAim_unhomed).trans (State.sameDemand_recount _ i)).trans
    (State.sameDemand_want _ i _)

theorem State.sameDemand_wantHomeIf (s : State) (c : Bool) (i : LoopIx) : s.SameDemand (s.wantHomeIf c i) :=
  State.sameDemand_ite (fun _ => s.sameDemand_wantHome i) fun _ => .refl s

theorem State.sameDemand_endWant (s : State) (i : LoopIx) : s.SameDemand (s.endWant i) :=
  s.sameDemand_modLoop i fun l => l.sameAim_setWant _

theorem State.sameDemand_clearWork (s : State) (i : LoopIx) : s.SameDemand (s.clearWork i) :=
  (s.sameDemand_setQueue _).trans (State.sameDemand_modLoop _ i fun _ =>
    ⟨rfl, ⟨rfl, rfl, rfl, rfl, rfl, rfl⟩, rfl, rfl⟩)

theorem State.sameDemand_voidBalance (s : State) (i : LoopIx) : s.SameDemand (s.voidBalance i) :=
  s.sameDemand_modLoop i fun l => l.sameAim_rate _ _

/-! ### Rounds and campaigns -/

theorem State.sameDemand_clearCounters (s : State) (m : Manifold) : s.SameDemand (s.clearCounters m) :=
  s.sameDemand_mapLoops fun i l => by
    split
    · exact l.sameAim_zeroCounter
    · exact .refl l

theorem State.sameDemand_roundStart (s : State) (m : Manifold) (b : Bool) : s.SameDemand (s.roundStart m b) :=
  State.sameDemand_of_loops rfl rfl rfl rfl rfl rfl

theorem State.sameDemand_setTimer (s : State) (m : Manifold) (x : RoundTimer) : s.SameDemand (s.setTimer m x) :=
  State.sameDemand_of_loops rfl rfl rfl rfl rfl rfl

theorem State.sameDemand_coupling (s : State) (m : Manifold) : s.SameDemand (s.coupling m) :=
  (s.sameDemand_clearCounters m).trans (State.sameDemand_roundStart _ m _)

theorem State.sameDemand_couplingIf (s : State) (c : Bool) (m : Manifold) : s.SameDemand (s.couplingIf c m) :=
  State.sameDemand_ite (fun _ => s.sameDemand_coupling m) fun _ => .refl s

theorem State.sameDemand_checkTimer (s : State) (m : Manifold) : s.SameDemand (s.checkTimer m) :=
  State.sameDemand_ite
    (fun _ => State.sameDemand_ite (fun _ => .refl s) fun _ =>
      (s.sameDemand_clearCounters m).trans (State.sameDemand_roundStart _ m _))
    fun _ => State.sameDemand_ite (fun _ => s.sameDemand_setTimer m _) fun _ => .refl s

theorem State.sameDemand_checkTimerIf (s : State) (c : Bool) (m : Manifold) : s.SameDemand (s.checkTimerIf c m) :=
  State.sameDemand_ite (fun _ => s.sameDemand_checkTimer m) fun _ => .refl s

theorem State.sameDemand_enterRounds (s : State) {m : Manifold} (h : (s.campaign m).state ≠ .idle) :
    s.SameDemand (s.enterRounds m) :=
  ((s.sameDemand_setCampaign (by simp [h])).trans (State.sameDemand_clearCounters _ m)).trans
    (State.sameDemand_roundStart _ m _)

theorem State.sameDemand_endOpening (s : State) {m : Manifold} (h : (s.campaign m).state ≠ .idle) :
    s.SameDemand (s.endOpening m) :=
  State.sameDemand_ite (fun _ => s.sameDemand_enterRounds h) fun _ => .refl s

theorem State.sameDemand_examineOpening (s : State) (m : Manifold) : s.SameDemand (s.examineOpening m) :=
  State.sameDemand_ite
    (fun c => (s.sameDemand_enterRounds (by rw [c.1]; exact CampaignState.noConfusion)).trans
      (State.sameDemand_markHouse _ _)) fun _ => .refl s

theorem State.sameDemand_examineOpeningIf (s : State) (c : Bool) (m : Manifold) :
    s.SameDemand (s.examineOpeningIf c m) :=
  State.sameDemand_ite (fun _ => s.sameDemand_examineOpening m) fun _ => .refl s

theorem State.sameDemand_suspend (s : State) {m : Manifold} (h : (s.campaign m).state ≠ .idle) (r : ResumeState) :
    s.SameDemand (s.suspend m r) :=
  (s.sameDemand_setCampaign (by simp [h])).trans (State.sameDemand_checkTimerIf _ _ m)

theorem State.sameDemand_resumed (s : State) {m : Manifold} (h : (s.campaign m).state ≠ .idle) :
    s.SameDemand (s.resumed m) :=
  State.sameDemand_ite (fun _ => s.sameDemand_enterRounds h) fun _ =>
    (s.sameDemand_setCampaign (by simp [h])).trans
      (State.sameDemand_endOpening _ (by rw [State.campaign_setCampaign]; exact CampaignState.noConfusion))

theorem State.sameDemand_checkCampaign (s : State) (m : Manifold) : s.SameDemand (s.checkCampaign m) := by
  unfold State.checkCampaign
  split
  case h_1 => exact .refl s
  case h_2 e =>
    have opened : (s.campaign m).state ≠ .idle := by rw [e]; exact CampaignState.noConfusion
    exact State.sameDemand_ite
      (fun _ => (s.sameDemand_suspend opened _).trans (State.sameDemand_markHouse _ _)) fun _ => .refl s
  case h_3 e =>
    have opened : (s.campaign m).state ≠ .idle := by rw [e]; exact CampaignState.noConfusion
    exact State.sameDemand_ite
      (fun _ => (s.sameDemand_suspend opened _).trans (State.sameDemand_markHouse _ _)) fun _ => .refl s
  case h_4 e =>
    have opened : (s.campaign m).state ≠ .idle := by rw [e]; exact CampaignState.noConfusion
    exact State.sameDemand_ite (fun _ => .refl s) fun _ =>
      (s.sameDemand_resumed opened).trans (State.sameDemand_markHouse _ _)

theorem State.sameDemand_setDriveState (s : State) (d : DriveState) : s.SameDemand (s.setDriveState d) :=
  State.sameDemand_ite (fun _ => .refl s) fun _ =>
    ((((((s.sameDemand_setDrive _).trans (State.sameDemand_recountAll _)).trans (State.sameDemand_checkTimer _ _)).trans
      (State.sameDemand_checkTimer _ _)).trans (State.sameDemand_checkCampaign _ _)).trans
        (State.sameDemand_checkCampaign _ _)).trans (State.sameDemand_markHouse _ _)

/-! ### A lifecycle change -/

/-- A change of a lifecycle state leaves the strokes of one recompute (R115). -/
theorem State.commanded_lifeChanged (s : State) (i : LoopIx) (old : Lifecycle) :
    (s.lifeChanged i old).Commanded (s.lifeChanged i old) :=
  s.commanded_recompute.of_demand ((((State.sameDemand_couplingIf _ _ _).trans (State.sameDemand_recount _ i)).trans
    (State.sameDemand_examineOpeningIf _ _ _)).trans (State.sameDemand_markLoop _ _ _))

theorem State.commanded_setLife (s : State) (i : LoopIx) (new : Lifecycle) :
    (s.setLife i new).Commanded (s.setLife i new) := State.commanded_lifeChanged _ i _

/-- A loop that becomes VACANT leaves the strokes of one recompute (R14, R115). -/
theorem State.commanded_becomeVacant (s : State) (i : LoopIx) :
    (s.becomeVacant i).Commanded (s.becomeVacant i) :=
  (State.commanded_lifeChanged _ i _).of_demand ((State.sameDemand_markRoomOf _ _).trans (State.sameDemand_fill _))

end Sys2Proof.Machine
end

section
/-! PROOF. The rooms that lapse together where the slot that held them is freed or the link restarts (R40, R176, R178):
one after another, each with its own recompute, they come to one change of the rooms with the strokes of one recompute. -/

namespace Sys2Proof.Machine

/-! ### Rooms one after another -/

/-- A state with other room records. -/
def State.withRooms (s : State) (v : Vector Room 16) : State := { s with rooms := v }

@[simp] theorem State.withRooms_rooms (s : State) (v : Vector Room 16) : (s.withRooms v).rooms = v := rfl

/-- Every CLAIMED room of a holder of a kind becomes LAPSED, in ascending number: what frees the rooms of a slot, and
of every slot. -/
def State.lapseHeld (s : State) (holder : Option SlotIx → Bool) (l : List RoomIx) : State :=
  s.forEach l fun t r =>
    if (t.room r).state = .claimed ∧ holder (t.room r).claimant = true then t.lapse r else t

theorem State.lapseRoomsOf_eq (s : State) (k : SlotIx) :
    s.lapseRoomsOf k = s.lapseHeld (fun c => decide (c = some k)) allRooms := by
  simp only [State.lapseRoomsOf, State.lapseHeld, decide_eq_true_eq]

theorem State.lapseRooms_eq (s : State) : s.lapseRooms = s.lapseHeld (fun _ => true) allRooms := by
  simp only [State.lapseRooms, State.lapseHeld, and_true]

theorem State.Quiet.withRooms {s t : State} (h : s.Quiet t) (v : Vector Room 16) :
    (s.withRooms v).Quiet (t.withRooms v) :=
  ⟨h.powered, rfl, h.floorList, h.house, h.storage, h.channels, h.supplyRefs, h.timers, h.campaigns, h.link, h.pending,
    h.moving, h.dwell, h.state, h.loops⟩

theorem State.Quiet.relink {s t : State} (h : s.Quiet t) (k : Link) : (s.relink k).Quiet (t.relink k) :=
  ⟨h.powered, h.rooms, h.floorList, h.house, h.storage, h.channels, h.supplyRefs, h.timers, h.campaigns, rfl, h.pending,
    h.moving, h.dwell, h.state, h.loops⟩

theorem State.changeRoom_rooms (s : State) (r : RoomIx) (new : Room) :
    (s.changeRoom r new).rooms = (s.setRoom r new).rooms := (s.quiet_changeRoom r new).rooms

theorem State.room_changeRoom (s : State) (r q : RoomIx) (new : Room) :
    (s.changeRoom r new).room q = if r = q then new else s.room q := by
  rw [State.room_congr (s.changeRoom_rooms r new), State.room_setRoom]

/-- A room claimed by a holder of the kind is not so once it has lapsed. -/
theorem Room.lapsedIf_unclaimed {holder : Option SlotIx → Bool} {y : Room}
    (h : ¬(y.state = .claimed ∧ holder y.claimant = true)) : y.lapsedIf holder = y := if_neg h

theorem Room.lapsedIf_claimed {holder : Option SlotIx → Bool} {y : Room}
    (h : y.state = .claimed ∧ holder y.claimant = true) : y.lapsedIf holder = y.unclaimed .lapsed := if_pos h

theorem Room.lapsedIf_lapsedIf (holder : Option SlotIx → Bool) (y : Room) :
    (y.lapsedIf holder).lapsedIf holder = y.lapsedIf holder := by
  by_cases h : y.state = .claimed ∧ holder y.claimant = true
  · rw [Room.lapsedIf_claimed h]
    exact Room.lapsedIf_unclaimed fun g => RoomState.noConfusion g.1
  · rw [Room.lapsedIf_unclaimed h, Room.lapsedIf_unclaimed h]

theorem State.room_lapseStep (s : State) (holder : Option SlotIx → Bool) (r q : RoomIx) :
    (if (s.room r).state = .claimed ∧ holder (s.room r).claimant = true then s.lapse r else s).room q =
      if r = q then (s.room q).lapsedIf holder else s.room q := by
  by_cases h : (s.room r).state = .claimed ∧ holder (s.room r).claimant = true
  · rw [if_pos h, State.lapse, State.room_changeRoom]
    split
    next e => rw [← e, Room.lapsedIf_claimed h]
    · rfl
  · rw [if_neg h]
    split
    next e => rw [← e, Room.lapsedIf_unclaimed h]
    · rfl

theorem State.room_lapseHeld (s : State) (holder : Option SlotIx → Bool) (l : List RoomIx) (q : RoomIx) :
    (s.lapseHeld holder l).room q = if q ∈ l then (s.room q).lapsedIf holder else s.room q := by
  induction l generalizing s with
  | nil => simp [State.lapseHeld, State.forEach]
  | cons r l ih =>
    rw [State.lapseHeld, State.forEach, List.foldl_cons]
    refine (ih _).trans ?_
    rw [State.room_lapseStep]
    by_cases e : r = q
    · simp only [e, if_true, Room.lapsedIf_lapsedIf, ite_self, List.mem_cons_self]
    · simp only [if_neg e, List.mem_cons, Ne.symm e, false_or]

theorem mem_allRooms (r : RoomIx) : r ∈ allRooms := List.mem_finRange r

/-- The rooms that have lapsed, all together. -/
theorem State.rooms_lapseHeld (s : State) (holder : Option SlotIx → Bool) :
    (s.lapseHeld holder allRooms).rooms = (s.mapRooms (Room.lapsedIf holder)).rooms := by
  refine Vector.ext fun i hi => ?_
  have at_ := s.room_lapseHeld holder allRooms ⟨i, hi⟩
  rw [if_pos (mem_allRooms _), ← State.room_mapRooms s (Room.lapsedIf holder)] at at_
  exact at_

/-! ### What the Demand Unit and the watches make of it -/

/-- Some rooms have lapsed of those that may: the rest is quiet; where an effective demand has changed the strokes are
those of a recompute, and otherwise nothing else has changed; each room that has changed has been reported. -/
structure State.Lapsing (s : State) (holder : Option SlotIx → Bool) (t : State) : Prop where
  rooms : ∀ r, t.room r = s.room r ∨ t.room r = (s.room r).lapsedIf holder
  quiet : (s.withRooms t.rooms).Quiet t
  demand : (∀ r, (t.room r).effective = (s.room r).effective) ∧ (s.withRooms t.rooms).SameRecords t ∨
    (∃ r, (t.room r).effective ≠ (s.room r).effective) ∧ t.Commanded t
  told : ∀ r, t.room r ≠ s.room r → ⟨.room, r.val + 1, true⟩ ∈ t.reports

theorem State.Lapsing.refl (s : State) (holder : Option SlotIx → Bool) : s.Lapsing holder s :=
  ⟨fun _ => .inl rfl, .refl s, .inl ⟨fun _ => rfl, .refl s⟩, fun _ h => absurd rfl h⟩

theorem State.SameRecords.withRooms {s t : State} (h : s.SameRecords t) (v : Vector Room 16) :
    (s.withRooms v).SameRecords (t.withRooms v) :=
  ⟨h.powered, h.loops, rfl, h.floorList, h.floorShort, h.house, h.storage, h.drive, h.channels, h.supplyRefs, h.timers,
    h.campaigns, h.pending⟩

/-- A change of a room keeps every report made before it. -/
theorem State.reports_changeRoom (s : State) (r : RoomIx) (new : Room) :
    s.reports ⊆ (s.changeRoom r new).reports := by
  have recomputed := (State.steps_recomputeIf (s.setRoom r new)
    (decide ((s.room r).effective ≠ new.effective))).reports.subset
  refine List.Subset.trans recomputed ?_
  unfold State.changeRoom State.markRoomIf
  split
  · exact List.subset_append_left _ _
  · exact List.Subset.refl _

/-- A room becoming LAPSED is reported as a change of its state. -/
theorem State.reported_lapse {s : State} {r : RoomIx} (h : (s.room r).state = .claimed) :
    ⟨.room, r.val + 1, true⟩ ∈ (s.lapse r).reports := by
  have state : (s.room r).state ≠ ((s.room r).unclaimed .lapsed).state := by
    rw [h]
    exact RoomState.noConfusion
  have changed : s.room r ≠ (s.room r).unclaimed .lapsed := fun e => state (congrArg Room.state e)
  unfold State.lapse State.changeRoom
  rw [decide_eq_true changed, decide_eq_true state]
  exact List.mem_append_right _ (List.mem_singleton_self _)

theorem State.quiet_lapse (s : State) (r : RoomIx) : (s.withRooms (s.lapse r).rooms).Quiet (s.lapse r) := by
  have quiet := s.quiet_changeRoom r ((s.room r).unclaimed .lapsed)
  have same : s.withRooms (s.lapse r).rooms = s.setRoom r ((s.room r).unclaimed .lapsed) := by
    rw [State.lapse, State.changeRoom_rooms]
    rfl
  exact same ▸ quiet

/-- One more room lapses. -/
theorem State.Lapsing.lapse {s t : State} {holder : Option SlotIx → Bool} (h : s.Lapsing holder t) {r : RoomIx}
    (c : (t.room r).state = .claimed ∧ holder (t.room r).claimant = true) : s.Lapsing holder (t.lapse r) := by
  have kept : t.room r = s.room r := by
    refine (h.rooms r).elim id fun e => ?_
    by_cases g : (s.room r).state = .claimed ∧ holder (s.room r).claimant = true
    · rw [e, Room.lapsedIf_claimed g] at c
      exact RoomState.noConfusion c.1
    · rw [e, Room.lapsedIf_unclaimed g]
  have rooms (q : RoomIx) : (t.lapse r).room q = if r = q then (s.room q).lapsedIf holder else t.room q := by
    have step := t.room_lapseStep holder r q
    rw [if_pos c] at step
    rw [step]
    split
    next e => rw [← e, kept]
    · rfl
  have other {q : RoomIx} (e : r ≠ q) : (t.lapse r).room q = t.room q := by rw [rooms, if_neg e]
  have whole : s.withRooms (t.lapse r).rooms = (s.withRooms t.rooms).withRooms (t.lapse r).rooms := rfl
  refine ⟨fun q => ?_, ?_, ?_, fun q n => ?_⟩
  · rw [rooms]
    split
    · exact .inr rfl
    · exact h.rooms q
  · exact whole ▸ (h.quiet.withRooms _).trans (t.quiet_lapse r)
  · by_cases e : (t.room r).effective = ((t.room r).unclaimed .lapsed).effective
    · have unheard : (t.withRooms (t.lapse r).rooms).SameRecords (t.lapse r) := by
        have same : t.withRooms (t.lapse r).rooms = t.setRoom r ((t.room r).unclaimed .lapsed) := by
          rw [State.lapse, State.changeRoom_rooms]
          rfl
        rw [same, State.lapse, State.changeRoom_unheard e]
        exact State.markRoomIf_records _ _ _ _
      have still (q : RoomIx) : ((t.lapse r).room q).effective = (t.room q).effective := by
        by_cases g : r = q
        · subst g
          rw [State.lapse, State.room_changeRoom, if_pos rfl, e]
        · rw [other g]
      refine h.demand.imp (fun ⟨same, records⟩ => ⟨fun q => (still q).trans (same q), ?_⟩)
        fun ⟨⟨q, differs⟩, commanded⟩ => ⟨⟨q, fun w => differs ((still q).symm.trans w)⟩, ?_⟩
      · exact whole ▸ (records.withRooms _).trans unheard
      · have inputs : t.SameDemand (t.withRooms (t.lapse r).rooms) :=
          ⟨⟨fun _ => rfl, fun _ => .refl _, still, rfl, rfl, rfl, fun _ => rfl⟩, fun _ => rfl, fun _ => rfl, rfl⟩
        exact commanded.of_demand (inputs.trans unheard.sameDemand)
    · refine .inr ⟨⟨r, fun w => e ?_⟩, (State.commanded_recompute _).of_records (State.changeRoom_heard e)⟩
      rw [rooms, if_pos rfl, ← kept, Room.lapsedIf_claimed c] at w
      exact w.symm
  · by_cases e : r = q
    · exact e ▸ State.reported_lapse c.1
    · exact t.reports_changeRoom r _ (h.told q (other e ▸ n))

theorem State.lapsing_lapseHeld (s : State) (holder : Option SlotIx → Bool) (l : List RoomIx) :
    s.Lapsing holder (s.lapseHeld holder l) := by
  refine State.forEach_keeps (P := s.Lapsing holder) (fun t r h => ?_) l s (.refl s holder)
  split
  next c => exact h.lapse c
  · exact h

theorem State.mapRooms_congr {s t : State} (f : Room → Room) (h : ∀ r, t.room r = s.room r) :
    (t.mapRooms f).rooms = (s.mapRooms f).rooms := by
  simp only [State.mapRooms, h]

theorem State.MarkLaw.mapRooms {s : State} (h : s.MarkLaw) (f : Room → Room) : (s.mapRooms f).MarkLaw :=
  h.of_marks (fun i => congrArg Loop.restartMark (State.loop_congr (s.mapRooms_loops f) i))
    (congrArg Drive.moving (s.mapRooms_drive f))

theorem State.DriverBusy.mapRooms {s : State} (h : s.DriverBusy) (f : Room → Room) : (s.mapRooms f).DriverBusy := by
  unfold State.DriverBusy
  rwa [State.mapRooms_drive]

theorem State.canStart_mapRooms (s : State) (f : Room → Room) : (s.mapRooms f).canStart = s.canStart := by
  simp only [State.canStart, State.mapRooms_drive]

/-- All the rooms of the holders lapsed, and nothing of the link changed after: what TakesLapses says. -/
theorem State.takesLapses_lapseHeld {s a b : State} {holder : Option SlotIx → Bool} (marks : s.MarkLaw)
    (before : s.SameRecords a) (after : b = (a.lapseHeld holder allRooms).relink b.link) :
    s.TakesLapses (s.mapRooms (Room.lapsedIf holder)) b.serve := by
  have lapsing := a.lapsing_lapseHeld holder allRooms
  have records : (a.lapseHeld holder allRooms).SameRecords b := after ▸ State.relink_records _ _
  have rooms : (a.lapseHeld holder allRooms).rooms = (s.mapRooms (Room.lapsedIf holder)).rooms :=
    (a.rooms_lapseHeld holder).trans (State.mapRooms_congr _ before.room)
  have whole : (s.mapRooms (Room.lapsedIf holder)).SameRecords (a.withRooms (a.lapseHeld holder allRooms).rooms) := by
    rw [rooms]
    exact before.withRooms (s.mapRooms (Room.lapsedIf holder)).rooms
  have quiet : ((a.withRooms (a.lapseHeld holder allRooms).rooms).relink b.link).Quiet b := by
    have relinked := lapsing.quiet.relink b.link
    rwa [← after] at relinked
  have whole' := whole.trans (State.relink_records _ b.link)
  have follows := (quiet.follows (whole'.markLaw (marks.mapRooms _))).after whole'
  have effective (r : RoomIx) : ((s.mapRooms (Room.lapsedIf holder)).room r).effective =
      ((a.lapseHeld holder allRooms).room r).effective := congrArg Room.effective (State.room_congr rooms r).symm
  have unlapsed (r : RoomIx) : (a.room r).effective = (s.room r).effective := congrArg Room.effective (before.room r)
  refine ⟨follows, fun ⟨r, differs⟩ busy => ?_, fun same start => ?_⟩
  · have still : b.serve = b := (quiet.busy (whole'.busy (busy.mapRooms _))).serve
    have commanded : b.Commanded b := by
      have heard := lapsing.demand.resolve_left fun g =>
        differs ((effective r).trans ((g.1 r).trans (unlapsed r)))
      exact heard.2.of_records records
    rw [still]
    exact commanded.of_inputs (whole'.sameDemand.inputs.trans quiet.onlyDemand.inputs)
  · have unchanged : (s.mapRooms (Room.lapsedIf holder)).SameRecords b := by
      have unheard := lapsing.demand.resolve_right fun ⟨⟨r, differs⟩, _⟩ =>
        differs ((effective r).symm.trans ((same r).trans (unlapsed r).symm))
      exact whole.trans (unheard.2.trans records)
    rw [State.serve_of_startLaw ((unchanged.canStart.trans (s.canStart_mapRooms _)).trans start)]
    exact unchanged

theorem State.TakesLapses.told_records {s l t u : State} (h : s.TakesLapses l t) (g : t.SameRecords u) :
    s.TakesLapses l u :=
  ⟨h.follows.before g, fun e b => by
    have strokes := h.told e b
    have same := g.strokes
    exact ⟨fun i => (same.stroke i).trans (strokes.stroke i), fun i => (same.held i).trans (strokes.held i),
      same.short.trans strokes.short⟩, fun e d => (h.silent e d).trans g⟩

end Sys2Proof.Machine
end

section
/-! PROOF. The link restart (R178) and the slot that its third miss frees (R176). -/

namespace Sys2Proof.Machine

/-! ### A link restart -/

theorem State.link_lapseHeld (s : State) (holder : Option SlotIx → Bool) (l : List RoomIx) :
    (s.lapseHeld holder l).link = s.link := (s.lapsing_lapseHeld holder l).quiet.link

theorem State.link_serve (s : State) : s.serve.link = s.link := s.steps_serve.calm.link

theorem State.slot_serve (s : State) (k : SlotIx) : s.serve.slot k = s.slot k :=
  State.slot_congr (congrArg Link.roster s.link_serve) k

/-- A state with its watches cleared, its window shut and a link restart taken, the records as they were. -/
theorem State.clearWatches_records (s : State) : s.SameRecords s.clearWatches := by
  constructor <;> simp [State.clearWatches]

/-- The state of a link restart before the next move may start. -/
def State.unlinked (s : State) : State := s.clearWatches.lapseRooms.emptyRoster

theorem State.slot_emptyRoster (s : State) (k : SlotIx) : s.emptyRoster.slot k = none := by
  rw [State.emptyRoster, State.slot_setCursor]
  simp [State.slot, State.setRoster]

theorem State.unlinked_link (s : State) : s.unlinked.link =
    { s.link with
      window := .shut, lineBreak := .restarted, cursor := 18, roster := Vector.replicate 18 none } := by
  simp only [State.unlinked, State.emptyRoster, State.setCursor, State.setRoster, State.lapseRooms_eq,
    State.link_lapseHeld, State.clearWatches, State.setBreak, State.setWindow, State.mapSlots]

theorem State.takesLapses_unlinked {s : State} (marks : s.MarkLaw) :
    s.TakesLapses (s.mapRooms (Room.lapsedIf fun _ => true)) s.unlinked.serve := by
  refine State.takesLapses_lapseHeld marks s.clearWatches_records ?_
  simp only [State.unlinked, State.emptyRoster, State.setCursor, State.setRoster, State.lapseRooms_eq, State.relink]

theorem exec_linkRestart_first {s : State} (p : s.powered = true) (h : s.link.lineBreak ≠ .restarted) :
    exec .linkRestart s = .next s.unlinked.serve.tellWatches := by
  rw [exec_linkRestart, execLinkRestart, event_next p, if_neg h]
  rfl

theorem exec_linkRestart_again {s : State} (p : s.powered = true) (q : s.ReportLaw)
    (h : s.link.lineBreak = .restarted) : exec .linkRestart s = .next s := by
  rw [exec_linkRestart, execLinkRestart, event_next p, if_pos h, State.tellWatches_quiet q]

theorem exec_breakOnset_next {s : State} (p : s.powered = true) (q : s.ReportLaw) :
    exec .breakOnset s = .next { s with
      link := { s.link with lineBreak := if s.link.lineBreak = .clear then .timing else s.link.lineBreak } } := by
  rw [exec_breakOnset, execBreakOnset]
  by_cases h : s.link.lineBreak = .clear
  · rw [event_calm p (by rw [if_pos h]; exact q), if_pos h, if_pos h]
    rfl
  · rw [event_calm p (by rw [if_neg h]; exact q), if_neg h, if_neg h]

theorem exec_breakEnd_next {s : State} (p : s.powered = true) (q : s.ReportLaw) :
    exec .breakEnd s = .next { s with link := { s.link with lineBreak := .clear } } := by
  rw [exec_breakEnd, execBreakEnd]
  exact event_calm p q

/-! ### A slot that is freed -/

/-- The holder of a slot. -/
def holds (k : SlotIx) : Option SlotIx → Bool := fun c => decide (c = some k)

/-- The state of a freed slot's expiry once its rooms have lapsed. -/
def State.slotLapsed (s : State) (k : SlotIx) (x : Slot) : State :=
  ((s.setWindow .shut).setSlot k (some x.missed.unwatched)).lapseHeld (holds k) allRooms

theorem State.windowExpiry_freed {s : State} {k : SlotIx} {x : Slot} (w : s.link.window = .slot k)
    (h : s.slot k = some x) (n : 2 ≤ x.misses) :
    s.windowExpiry = (((s.slotLapsed k x).releaseDrive k).setSlot k none).serve := by
  rw [State.windowExpiry, w]
  simp only [h]
  rw [if_pos (show Config.missLimit ≤ x.misses + 1 by simp only [Config.missLimit]; omega), State.freeSlot,
    State.lapseRoomsOf_eq]
  rfl

theorem State.windowExpiry_missed {s : State} {k : SlotIx} {x : Slot} (w : s.link.window = .slot k)
    (h : s.slot k = some x) (n : x.misses < 2) :
    s.windowExpiry = (s.setWindow .shut).setSlot k (some x.missed) := by
  rw [State.windowExpiry, w]
  simp only [h]
  exact if_neg (by simp only [Config.missLimit]; omega)

theorem State.windowExpiry_open {s : State} (w : s.link.window = .openCall) : s.windowExpiry = s.openCallOver := by
  rw [State.windowExpiry, w]

/-- A change of the drive state is mild but for the drive state itself (R82). -/
theorem State.mild_setDriveState (s : State) (d : DriveState) : (s.putDriveState d).Mild (s.setDriveState d) := by
  unfold State.setDriveState
  split
  next e =>
    subst e
    exact .refl s
  · exact (((((State.quiet_recountAll _).mild.trans (State.mild_checkTimer _ _)).trans
      (State.mild_checkTimer _ _)).trans (State.mild_checkCampaign _ _)).trans (State.mild_checkCampaign _ _)).trans
        (State.mild_markHouse _ _)

/-- A freed slot changes the link alone before its rooms lapse. -/
theorem State.heard_last (s : State) (k : SlotIx) (y : Option Slot) :
    s.SameRecords ((s.setWindow .shut).setSlot k y) := by
  constructor <;> simp

theorem State.SameRecords.setSlot (s : State) (k : SlotIx) (y : Option Slot) : s.SameRecords (s.setSlot k y) := by
  constructor <;> simp

theorem State.OnlyDrive.putDriveState {but : List LoopIx} {s t : State} (h : State.OnlyDrive but s t)
    (d : DriveState) : State.OnlyDrive but (s.putDriveState d) (t.putDriveState d) :=
  ⟨h.powered, h.rooms, h.house, h.storage, h.channels, h.pending, rfl, h.members, h.floor, h.loops⟩

theorem State.MarkLaw.putDriveState {s : State} (h : s.MarkLaw) (d : DriveState) : (s.putDriveState d).MarkLaw :=
  h.of_marks (fun _ => rfl) rfl

/-- The rooms of the holders lapsed one after another, from the lapse of all of them at once. -/
theorem State.lapsed_quiet {s a : State} (holder : Option SlotIx → Bool) (before : s.SameRecords a) :
    (s.mapRooms (Room.lapsedIf holder)).SameRecords (a.withRooms (a.lapseHeld holder allRooms).rooms) ∧
      (a.withRooms (a.lapseHeld holder allRooms).rooms).Quiet (a.lapseHeld holder allRooms) := by
  refine ⟨?_, (a.lapsing_lapseHeld holder allRooms).quiet⟩
  rw [(a.rooms_lapseHeld holder).trans (State.mapRooms_congr _ before.room)]
  exact before.withRooms (s.mapRooms (Room.lapsedIf holder)).rooms

section
variable {s : State} {k : SlotIx} {x : Slot}

theorem State.slotLapsed_onlyDrive :
    State.OnlyDrive [] (s.mapRooms (Room.lapsedIf (holds k))) (s.slotLapsed k x) := by
  obtain ⟨whole, quiet⟩ := State.lapsed_quiet (holds k) (s.heard_last k (some x.missed.unwatched))
  exact whole.onlyDrive.trans quiet.mild.onlyDrive

theorem State.slotLapsed_markLaw (marks : s.MarkLaw) : (s.slotLapsed k x).MarkLaw := by
  obtain ⟨whole, quiet⟩ := State.lapsed_quiet (holds k) (s.heard_last k (some x.missed.unwatched))
  exact quiet.markLaw (whole.markLaw (marks.mapRooms _))

theorem State.slotLapsed_link : (s.slotLapsed k x).link = ((s.setWindow .shut).setSlot k (some x.missed.unwatched)).link :=
  State.link_lapseHeld _ _ _

/-- Every room that the slot held is reported as changed in its state. -/
theorem State.slotLapsed_reported {r : RoomIx} (c : (s.room r).state = .claimed) (own : (s.room r).claimant = some k) :
    ⟨.room, r.val + 1, true⟩ ∈ (s.slotLapsed k x).reports := by
  refine (State.lapsing_lapseHeld _ (holds k) allRooms).told r fun same => ?_
  have held : (s.room r).state = .claimed ∧ holds k (s.room r).claimant = true := ⟨c, decide_eq_true own⟩
  have before : ((s.setWindow .shut).setSlot k (some x.missed.unwatched)).room r = s.room r :=
    (s.heard_last k _).room r
  rw [State.room_lapseHeld, if_pos (mem_allRooms r), before, Room.lapsedIf_claimed held] at same
  have state := congrArg Room.state same
  rw [c] at state
  exact RoomState.noConfusion state

theorem State.releaseDrive_link (s : State) (k : SlotIx) : (s.releaseDrive k).link = s.link := by
  unfold State.releaseDrive
  split
  · exact (s.steps_setDriveState _).calm.link
  · rfl

theorem State.releaseDrive_reports (s : State) (k : SlotIx) : s.reports ⊆ (s.releaseDrive k).reports := by
  unfold State.releaseDrive
  split
  · exact (s.steps_setDriveState _).reports.subset
  · exact List.Subset.refl _

/-- The state of a freed slot before the next move may start. -/
def State.freed (s : State) (k : SlotIx) (x : Slot) : State := ((s.slotLapsed k x).releaseDrive k).setSlot k none

theorem State.freed_slot_self : (s.freed k x).slot k = none := State.slot_setSlot_self _ _ _

theorem State.freed_slot_other {j : SlotIx} (h : j ≠ k) : (s.freed k x).slot j = s.slot j := by
  have link : ((s.slotLapsed k x).releaseDrive k).link.roster = s.link.roster.set k (some x.missed.unwatched) := by
    rw [State.releaseDrive_link, State.slotLapsed_link]
    rfl
  rw [State.freed, State.slot_setSlot, if_neg h.symm, State.slot, link]
  exact Vector.getElem_set_ne _ _ fun e => h (Fin.ext e.symm)

theorem State.freed_link : (s.freed k x).link.window = .shut ∧ (s.freed k x).link.cursor = s.link.cursor ∧
    (s.freed k x).link.sent = s.link.sent := by
  simp only [State.freed, State.setSlot_link_window, State.setSlot_link_cursor, State.setSlot_link_sent,
    State.releaseDrive_link, State.slotLapsed_link, State.setWindow_link_window, State.setWindow_link_cursor,
    State.setWindow_link_sent, and_self]

theorem State.freed_reported {r : RoomIx} (c : (s.room r).state = .claimed) (own : (s.room r).claimant = some k) :
    ⟨.room, r.val + 1, true⟩ ∈ (s.freed k x).serve.reports := by
  have lapsed := State.releaseDrive_reports _ k (State.slotLapsed_reported (x := x) c own)
  have freed : ⟨.room, r.val + 1, true⟩ ∈ (s.freed k x).reports := by
    rwa [State.freed, State.setSlot_reports]
  exact (State.steps_serve _).reports.subset freed

/-- A freed slot of a kind other than the service station's. -/
theorem State.takesLapses_freed (marks : s.MarkLaw) (kind : slotKind k ≠ .service) :
    s.TakesLapses (s.mapRooms (Room.lapsedIf (holds k))) (s.freed k x).serve := by
  refine State.takesLapses_lapseHeld marks (s.heard_last k (some x.missed.unwatched)) ?_
  rw [State.freed, State.releaseDrive, if_neg kind]
  rfl

/-- The loss of the service slot releases the drive (R94). -/
theorem State.onlyDrive_freed (marks : s.MarkLaw) (kind : slotKind k = .service) :
    State.OnlyDrive [] ((s.mapRooms (Room.lapsedIf (holds k))).putDriveState .running) (s.freed k x).serve := by
  have released : (s.slotLapsed k x).releaseDrive k = (s.slotLapsed k x).setDriveState .running := if_pos kind
  have mild := (s.slotLapsed k x).mild_setDriveState .running
  have laws := mild.markLaw ((State.slotLapsed_markLaw marks).putDriveState .running)
  have emptied := State.SameRecords.setSlot ((s.slotLapsed k x).setDriveState .running) k none
  have moves := State.onlyDrive_serve (emptied.markLaw laws)
  rw [State.freed, released]
  exact (((State.slotLapsed_onlyDrive.putDriveState .running).trans mild.onlyDrive).trans emptied.onlyDrive).trans moves

end

/-! ### What the expiry of a window comes to -/

theorem exec_windowExpiry_next {s : State} (p : s.powered = true) :
    exec .windowExpiry s = .next s.windowExpiry.tellWatches := by
  rw [exec_windowExpiry, execWindowExpiry, event_next p]

end Sys2Proof.Machine

open Sys2Proof Sys2Proof.Machine

/-- Settles O10: the rooms of every slot lapse as one change, in a link with no slot left. -/
theorem linkRestartEmptiesTheRoster : Obligations.LinkRestartEmptiesTheRoster := by
  intro s p q marks
  refine ⟨fun first => ⟨_, exec_linkRestart_first p first, fun k => ?_, ?_, ?_, ?_, ?_,
      (State.takesLapses_unlinked marks).told_records (State.tellWatches_records _)⟩,
    exec_linkRestart_again p q, exec_breakOnset_next p q, exec_breakEnd_next p q⟩
  · rw [State.tellWatches_slot, State.slot_serve, State.unlinked, State.slot_emptyRoster]
    rfl
  · rw [State.tellWatches_window, State.link_serve, State.unlinked_link]
  · rw [State.tellWatches_lineBreak, State.link_serve, State.unlinked_link]
  · rw [State.tellWatches_cursor, State.link_serve, State.unlinked_link]
  · rw [State.tellWatches_sent, State.link_serve, State.unlinked_link]

/-- Settles O9: a miss is counted, and the third frees the slot, whose rooms lapse as one change. -/
theorem windowExpiryIsAMiss : Obligations.WindowExpiryIsAMiss := by
  intro s p q marks
  refine ⟨fun w => ?_, fun k x w own => ⟨fun n => ?_, fun n => ?_⟩⟩
  · rw [exec_windowExpiry_next p, State.windowExpiry_open w, State.tellWatches_quiet (s := s.openCallOver) q]
    rfl
  · rw [exec_windowExpiry_next p, State.windowExpiry_missed w own n,
      State.tellWatches_quiet (s := (s.setWindow .shut).setSlot k (some x.missed)) q]
    rfl
  · refine ⟨_, exec_windowExpiry_next p, ?_⟩
    rw [State.windowExpiry_freed w own n]
    obtain ⟨window, cursor, sent⟩ := State.freed_link (s := s) (k := k) (x := x)
    refine ⟨?_, ⟨(s.freed k x).serve.reports, fun j other => ?_, fun r => State.freed_reported⟩, ?_, ?_, ?_,
      fun kind => (State.takesLapses_freed marks kind).told_records (State.tellWatches_records _),
      fun kind => (State.onlyDrive_freed marks kind).trans (State.tellWatches_records _).onlyDrive⟩
    · rw [State.tellWatches_slot, State.slot_serve, ← State.freed, State.freed_slot_self]
      rfl
    · rw [State.tellWatches_slot, State.slot_serve, ← State.freed, State.freed_slot_other other]
    · rw [State.tellWatches_window, State.link_serve, ← State.freed, window]
    · rw [State.tellWatches_cursor, State.link_serve, ← State.freed, cursor]
    · rw [State.tellWatches_sent, State.link_serve, ← State.freed, sent]
end

section
/-! PROOF. The pairs of an AMEND taken one after another (11.2), the requests of the Room Table that are left, CLAIM (R33),
RELEASE of the service station (R36) and AMEND of ROOM and FLOOR (R41, R44), and the expiry of a lease (R38). -/

namespace Sys2Proof.Machine

/-! ### Pairs taken one after another -/

section
variable {α β : Type} {f : α → Pair → Option α}

/-- The pairs of an AMEND taken in turn, none once one is refused. -/
def foldPairs (f : α → Pair → Option α) (ps : List Pair) (a : Option α) : Option α :=
  ps.foldl (fun x p => x.bind fun y => f y p) a

theorem foldPairs_none (ps : List Pair) : foldPairs f ps none = none := by
  induction ps with
  | nil => rfl
  | cons p ps ih => exact ih

theorem foldPairs_cons (p : Pair) (ps : List Pair) (a : α) :
    foldPairs f (p :: ps) (some a) = foldPairs f ps (f a p) := rfl

/-- Pairs that are all taken. -/
theorem foldPairs_isSome {ps : List Pair} (h : ∀ p ∈ ps, ∀ a, ∃ b, f a p = some b) (a : α) :
    ∃ b, foldPairs f ps (some a) = some b := by
  induction ps generalizing a with
  | nil => exact ⟨a, rfl⟩
  | cons p ps ih =>
    obtain ⟨b, taken⟩ := h p List.mem_cons_self a
    rw [foldPairs_cons, taken]
    exact ih (fun q m => h q (List.mem_cons_of_mem _ m)) b

/-- One pair that is refused whatever stands before it. -/
theorem foldPairs_refused {ps : List Pair} {p : Pair} (m : p ∈ ps) (h : ∀ a, f a p = none) (a : Option α) :
    foldPairs f ps a = none := by
  induction ps generalizing a with
  | nil => exact absurd m List.not_mem_nil
  | cons q ps ih =>
    rcases a with _ | a
    · exact foldPairs_none _
    rcases List.mem_cons.mp m with rfl | m
    · rw [foldPairs_cons, h, foldPairs_none]
    · exact ih m _

theorem pairValue_cons (p : Pair) (ps : List Pair) (n : Nat) :
    pairValue (p :: ps) n = if p.field = n then some p.value else pairValue ps n := by
  by_cases h : p.field = n <;> simp [pairValue, h]

theorem pairValue_eq_none {ps : List Pair} {n : Nat} (h : n ∉ ps.map Pair.field) : pairValue ps n = none := by
  induction ps with
  | nil => rfl
  | cons p ps ih =>
    rw [List.map_cons, List.mem_cons, not_or] at h
    rw [pairValue_cons, if_neg (Ne.symm h.1), ih h.2]

theorem exists_pair_of_pairValue {ps : List Pair} {n v : Nat} (h : pairValue ps n = some v) :
    ∃ q ∈ ps, q.field = n ∧ q.value = v := by
  obtain ⟨q, found, value⟩ := Option.map_eq_some_iff.mp h
  exact ⟨q, List.mem_of_find?_eq_some found, by simpa using List.find?_some found, value⟩

/-- A field that one identifier alone writes, once the pairs, no field named twice, have all been taken. -/
theorem read_foldPairs {ps : List Pair} (distinct : (ps.map Pair.field).Nodup) (g : α → β) (n : Nat) (v : Nat → β)
    (h : ∀ p ∈ ps, ∀ a b, f a p = some b → g b = if p.field = n then v p.value else g a) {a b : α}
    (taken : foldPairs f ps (some a) = some b) : g b = ((pairValue ps n).map v).getD (g a) := by
  induction ps generalizing a with
  | nil =>
    cases taken
    rfl
  | cons p ps ih =>
    obtain ⟨fresh, distinct⟩ := List.nodup_cons.mp (List.map_cons ▸ distinct)
    rw [foldPairs_cons] at taken
    cases e : f a p with
    | none =>
      rw [e, foldPairs_none] at taken
      cases taken
    | some c =>
      rw [e] at taken
      rw [ih distinct (fun q m => h q (List.mem_cons_of_mem _ m)) taken, h p List.mem_cons_self a c e, pairValue_cons]
      by_cases own : p.field = n
      · rw [if_pos own, if_pos own, pairValue_eq_none (own ▸ fresh)]
        rfl
      · rw [if_neg own, if_neg own]

end

/-- An identifier that an optional field is read from. -/
theorem getD_map_some (x : Option Nat) : (x.map some).getD none = x := by cases x <;> rfl

/-! ### AMEND of ROOM -/

/-- A value lies in the range of a field of a room (R41). -/
def RoomInRange (q : Pair) : Prop :=
  q.field = 1 ∧ 1 ≤ q.value ∧ q.value ≤ 15 ∨ q.field = 2 ∧ q.value ≤ 100

theorem RoomAmend.add_lease {p : Pair} (h : p.field = 1) (a : RoomAmend) :
    a.add p = if 1 ≤ p.value ∧ p.value ≤ 15 then some { a with leaseLength := some p.value } else none := by
  simp only [RoomAmend.add, h]

theorem RoomAmend.add_fallback {p : Pair} (h : p.field = 2) (a : RoomAmend) :
    a.add p = if p.value ≤ 100 then some { a with fallback := some p.value } else none := by
  simp only [RoomAmend.add, h]

theorem RoomAmend.add_isSome {p : Pair} (h : RoomInRange p) (a : RoomAmend) : ∃ b, a.add p = some b := by
  rcases h with ⟨field, range⟩ | ⟨field, range⟩
  · exact ⟨_, by rw [a.add_lease field, if_pos range]⟩
  · exact ⟨_, by rw [a.add_fallback field, if_pos range]⟩

theorem RoomAmend.add_eq_none {p : Pair}
    (h : p.field = 1 ∧ (p.value = 0 ∨ 15 < p.value) ∨ p.field = 2 ∧ 100 < p.value) (a : RoomAmend) :
    a.add p = none := by
  rcases h with ⟨field, range⟩ | ⟨field, range⟩
  · rw [a.add_lease field, if_neg (by omega)]
  · rw [a.add_fallback field, if_neg (by omega)]

theorem roomAmend_eq {ps : List Pair} (h : (ps.map Pair.field).Nodup) :
    roomAmend ps = foldPairs RoomAmend.add ps (some ⟨none, none⟩) := if_pos (decide_eq_true h)

theorem roomAmend_eq_none {ps : List Pair} (h : ¬(ps.map Pair.field).Nodup ∨
    ∃ q ∈ ps, q.field = 1 ∧ (q.value = 0 ∨ 15 < q.value) ∨ q.field = 2 ∧ 100 < q.value) : roomAmend ps = none := by
  by_cases distinct : (ps.map Pair.field).Nodup
  · obtain ⟨q, m, out⟩ := h.resolve_left (not_not.mpr distinct)
    rw [roomAmend_eq distinct, foldPairs_refused m (RoomAmend.add_eq_none out)]
  · exact if_neg (by simpa [distinctFields] using distinct)

theorem roomAmend_taken {ps : List Pair} (distinct : (ps.map Pair.field).Nodup) (h : ∀ q ∈ ps, RoomInRange q) :
    roomAmend ps = some ⟨pairValue ps 1, pairValue ps 2⟩ := by
  rw [roomAmend_eq distinct]
  obtain ⟨b, taken⟩ := foldPairs_isSome (fun p m a => RoomAmend.add_isSome (h p m) a) (⟨none, none⟩ : RoomAmend)
  have lease : b.leaseLength = pairValue ps 1 := by
    rw [read_foldPairs distinct RoomAmend.leaseLength 1 some (fun p m a c e => ?_) taken, getD_map_some]
    rcases h p m with ⟨field, range⟩ | ⟨field, range⟩
    · rw [a.add_lease field, if_pos range] at e
      cases e
      rw [if_pos field]
    · rw [a.add_fallback field, if_pos range] at e
      cases e
      rw [if_neg (by omega)]
  have fallback : b.fallback = pairValue ps 2 := by
    rw [read_foldPairs distinct RoomAmend.fallback 2 some (fun p m a c e => ?_) taken, getD_map_some]
    rcases h p m with ⟨field, range⟩ | ⟨field, range⟩
    · rw [a.add_lease field, if_pos range] at e
      cases e
      rw [if_neg (by omega)]
    · rw [a.add_fallback field, if_pos range] at e
      cases e
      rw [if_pos field]
  rw [taken, ← lease, ← fallback]

/-! ### The requests of rooms -/

theorem State.room_heard (s : State) (k : SlotIx) (x : Slot) (r : RoomIx) : (s.heard k x).room r = s.room r :=
  (s.heard_records k x).room r

section
variable {s : State} {k : SlotIx} {x : Slot}

theorem State.Polled.exec_claim (h : s.Polled k x) (a : slotKind k = .room) {b : Byte} {r : RoomIx}
    (n : b.toNat = r.val + 1) : exec (.claim [b]) s = .next (((s.heard k x).claimRoom k r).finish k) := by
  have e := h.taken (allowed := roomUnit) (form := oneByte) (p := [b]) (decide_eq_true a) rfl
    fun k t b => t.onRoom b.toNat fun r => t.claimRoom k r
  rwa [State.onRoom_of_room _ n] at e

theorem State.Polled.exec_free (h : s.Polled k x) (a : slotKind k = .service) {b : Byte} {r : RoomIx}
    (n : b.toNat = r.val + 1) : exec (.release [b]) s = .next (((s.heard k x).releaseRoom k r).finish k) := by
  have e := h.taken (allowed := notSource) (form := oneByte) (p := [b]) (notSource_of (.inl a)) rfl
    fun k t b => t.onRoom b.toNat fun r => t.releaseRoom k r
  rwa [State.onRoom_of_room _ n] at e

/-- An AMEND of a room, once its sender, its form and its room are right. -/
def State.amendRoomBy (s : State) (r : RoomIx) (ps : List Pair) : Taken :=
  match roomAmend ps with
  | some a => ⟨.done, [], (s.changeRoom r (a.apply (s.room r))).serve⟩
  | none => s.refuse .range

theorem State.Polled.exec_amendRoom (h : s.Polled k x) (a : slotKind k = .service) {p : List Byte} {ps : List Pair}
    {r : RoomIx} (form : amendForm roomFields p = some (r.val + 1, ps)) :
    exec (.amendRoom p) s = .next (((s.heard k x).amendRoomBy r ps).finish k) := by
  have e := h.taken (allowed := serviceStation) (serviceStation_of a) form
    fun _ t p => t.onRoom p.1 fun r => t.amendRoomBy r p.2
  rw [State.onRoom_of_room _ rfl] at e
  exact e

theorem State.amendRoomBy_range {r : RoomIx} {ps : List Pair} (h : roomAmend ps = none) :
    s.amendRoomBy r ps = s.refuse .range := by
  rw [State.amendRoomBy, h]

theorem State.amendRoomBy_taken {r : RoomIx} {ps : List Pair} {a : RoomAmend} (h : roomAmend ps = some a) :
    s.amendRoomBy r ps = ⟨.done, [], (s.changeRoom r (a.apply (s.room r))).serve⟩ := by
  rw [State.amendRoomBy, h]

section
variable {r : RoomIx}

theorem State.claimRoom_own (c : (s.room r).state = .claimed) (o : (s.room r).claimant = some k) :
    s.claimRoom k r = ⟨.done, [], (s.changeRoom r ((s.room r).leased (s.leaseMinutes r))).serve⟩ := by
  rw [State.claimRoom, if_pos c, if_pos o]

theorem State.claimRoom_other (c : (s.room r).state = .claimed) (o : (s.room r).claimant ≠ some k) :
    s.claimRoom k r = s.refuse .busy := by
  rw [State.claimRoom, if_pos c, if_neg o]

theorem State.claimRoom_new (c : (s.room r).state ≠ .claimed) (n : s.claims k < 2) :
    s.claimRoom k r = ⟨.done, [], (s.changeRoom r ((s.room r).claimedBy k (s.leaseMinutes r))).serve⟩ := by
  rw [State.claimRoom, if_neg c, if_pos (show s.claims k < Config.claimCapacity from n)]

theorem State.claimRoom_full (c : (s.room r).state ≠ .claimed) (n : 2 ≤ s.claims k) :
    s.claimRoom k r = s.refuse .full := by
  rw [State.claimRoom, if_neg c, if_neg (show ¬s.claims k < Config.claimCapacity from Nat.not_lt.mpr n)]

theorem State.releaseRoom_of_service (a : slotKind k = .service) :
    s.releaseRoom k r = ⟨.done, [], (s.changeRoom r ((s.room r).unclaimed .free)).serve⟩ := if_pos a

end

/-! ### AMEND of FLOOR -/

/-- An AMEND of the Floor List, once its sender and its form are right. -/
def State.amendFloorBy (s : State) (index : Nat) (list : List Byte) : Taken :=
  if index = 0 then
    match s.floorListOf list with
    | some members => ⟨.done, [], (s.setFloorList members).recompute.serve⟩
    | none => s.refuse .range
  else s.refuse .nosuch

theorem State.Polled.exec_amendFloor (h : s.Polled k x) (a : slotKind k = .service) {p list : List Byte} {n : Nat}
    (form : floorForm p = some (n, list)) :
    exec (.amendFloor p) s = .next (((s.heard k x).amendFloorBy n list).finish k) :=
  h.taken (allowed := serviceStation) (serviceStation_of a) form fun _ t p => t.amendFloorBy p.1 p.2

theorem State.amendFloorBy_other {n : Nat} {list : List Byte} (h : n ≠ 0) :
    s.amendFloorBy n list = s.refuse .nosuch := if_neg h

theorem State.amendFloorBy_refused {list : List Byte} (h : s.floorListOf list = none) :
    s.amendFloorBy 0 list = s.refuse .range := by
  rw [State.amendFloorBy, if_pos rfl, h]

theorem State.amendFloorBy_taken {list : List Byte} {members : List LoopIx} (h : s.floorListOf list = some members) :
    s.amendFloorBy 0 list = ⟨.done, [], (s.setFloorList members).recompute.serve⟩ := by
  rw [State.amendFloorBy, if_pos rfl, h]

end

theorem byte_toNat {n : Nat} (h : n < 256) : (byte n).toNat = n := by
  rw [byte, BitVec.toNat_ofNat]
  exact Nat.mod_eq_of_lt h

theorem loopIndex_byte (i : LoopIx) : loopIndex (byte i.val).toNat = some i := by
  rw [byte_toNat (by omega), loopIndex, dif_pos i.isLt]

theorem filterMap_loopIndex (members : List LoopIx) :
    (members.map fun i => byte i.val).filterMap (fun b => loopIndex b.toNat) = members := by
  rw [List.filterMap_map, show ((fun b : Byte => loopIndex b.toNat) ∘ fun i : LoopIx => byte i.val) = some from
    funext loopIndex_byte, List.filterMap_some]

/-- The checks of R44 on a list of loops. -/
theorem State.floorListOf_members (s : State) (members : List LoopIx) :
    s.floorListOf (members.map fun i => byte i.val) =
      if members.length ≤ 8 ∧ members.Nodup ∧ ∀ i ∈ members, (s.loop i).life ≠ .vacant then some members else none := by
  simp only [State.floorListOf, filterMap_loopIndex, List.length_map, Loop.occupied, List.all_eq_true,
    decide_eq_true_eq, true_and, Config.floorCapacity]

/-- A member outside 0 to 23 is no loop. -/
theorem State.floorListOf_outside (s : State) {list : List Byte} (h : ∃ b ∈ list, 24 ≤ b.toNat) :
    s.floorListOf list = none := by
  obtain ⟨b, m, out⟩ := h
  refine if_neg fun checks => ?_
  have dropped : (list.filterMap fun b => loopIndex b.toNat).length < list.length := by
    refine List.length_filterMap_lt_length_iff_exists.mpr ⟨b, m, ?_⟩
    exact dif_neg (by omega)
  exact absurd checks.2.1 (Nat.ne_of_lt dropped)

theorem floorForm_list (index count field length : Byte) (list : List Byte) :
    floorForm ([index, count, field, length] ++ list) =
      if count.toNat = 1 ∧ field.toNat = 1 ∧ length.toNat = list.length then some (index.toNat, list) else none := rfl

theorem floorForm_of_list (index : Byte) {list : List Byte} (h : list.length ≤ 60) :
    floorForm ([index, 1, 1, byte list.length] ++ list) = some (index.toNat, list) := by
  rw [floorForm_list, if_pos ⟨rfl, rfl, byte_toNat (by omega)⟩]

/-- A request that replaces the Floor List and recomputes. -/
theorem State.takesDemand_floor {s : State} (marks : s.MarkLaw) (k : SlotIx) (x : Slot) (members : List LoopIx) :
    (s.setFloorList members).TakesDemand True
      (Taken.finish ⟨.done, [], (((s.heard k x).setFloorList members).recompute).serve⟩ k) := by
  have records := Taken.finish_records ⟨.done, [], (((s.heard k x).setFloorList members).recompute).serve⟩ k
  have quiet := ((s.heard k x).setFloorList members).quiet_recompute
  have relinked : (s.heard k x).setFloorList members = (s.setFloorList members).relink (s.heard k x).link := by
    rw [State.heard_relink]
    rfl
  have before : (s.setFloorList members).SameRecords ((s.heard k x).setFloorList members) :=
    relinked ▸ State.relink_records _ _
  have laws : ((s.heard k x).setFloorList members).MarkLaw :=
    before.markLaw (marks.of_marks (fun i => congrArg Loop.restartMark (s.loop_setFloorList members i)) rfl)
  refine ⟨((quiet.follows laws).before records).after before, fun _ busy => ?_, fun h => absurd trivial h⟩
  have still := (quiet.busy (before.busy busy)).serve
  have recomputed : (s.setFloorList members).recompute.SameRecords ((s.heard k x).setFloorList members).recompute := by
    rw [relinked, State.relink_recompute]
    exact State.relink_records _ _
  have unserved : ((s.heard k x).setFloorList members).recompute.SameRecords
      ((s.heard k x).setFloorList members).recompute.serve := by
    rw [still]
    exact .refl _
  exact recomputed.trans (unserved.trans records)

/-! ### The expiry of a lease -/

section
variable {s : State} {r : RoomIx}

theorem exec_leaseExpiry_lapse (p : s.powered = true) (c : (s.room r).state = .claimed)
    (n : (s.room r).leaseRemaining = 0) : exec (.leaseExpiry r) s = .next (s.lapse r).serve.tellWatches := by
  rw [exec_leaseExpiry, execLeaseExpiry, event_next p, if_pos ⟨c, n⟩]

theorem exec_leaseExpiry_none (p : s.powered = true) (q : s.ReportLaw)
    (h : (s.room r).state ≠ .claimed ∨ (s.room r).leaseRemaining ≠ 0) : exec (.leaseExpiry r) s = .next s := by
  rw [exec_leaseExpiry, execLeaseExpiry, event_next p, if_neg (by tauto), State.tellWatches_quiet q]

theorem State.link_lapse_serve : (s.lapse r).serve.link = s.link :=
  (State.link_serve _).trans (s.quiet_lapse r).link

end

end Sys2Proof.Machine

open Sys2Proof Sys2Proof.Machine

/-- Settles O16, by the four rows of R33. -/
theorem claimFollowsItsTable : Obligations.ClaimFollowsItsTable := by
  intro s k x b r polled marks unit number
  have taken := polled.exec_claim unit number
  exact ⟨fun c o => servesRoom_of_changed (new := (s.room r).leased (s.leaseMinutes r)) marks taken
      (State.claimRoom_own c o),
    fun c o => onlyAnswers_of_refused taken (State.claimRoom_other c o),
    fun c n => servesRoom_of_changed (new := (s.room r).claimedBy k (s.leaseMinutes r)) marks taken
      (State.claimRoom_new c n),
    fun c n => onlyAnswers_of_refused taken (State.claimRoom_full c n)⟩

/-- Settles O19: the service station's RELEASE asks for no claimant, and an AMEND takes its pairs together. -/
theorem serviceFreesAndAmendsRooms : Obligations.ServiceFreesAndAmendsRooms := by
  intro s k x b r polled marks service number
  refine ⟨?_, fun p ps form => ?_⟩
  · exact servesRoom_of_changed (new := (s.room r).unclaimed .free) marks (polled.exec_free service number)
      (by rw [State.releaseRoom_of_service service, State.room_heard])
  have taken := polled.exec_amendRoom service form
  refine ⟨fun distinct range => ?_,
    fun refused => onlyAnswers_of_refused taken (State.amendRoomBy_range (roomAmend_eq_none refused))⟩
  have changed : (s.heard k x).amendRoomBy r ps =
      ⟨.done, [], ((s.heard k x).changeRoom r (RoomAmend.apply ⟨pairValue ps 1, pairValue ps 2⟩ (s.room r))).serve⟩ := by
    rw [State.amendRoomBy_taken (roomAmend_taken distinct range), State.room_heard]
  exact servesRoom_of_changed marks taken changed

/-- Settles O20: the form of the list, the checks of R44, and the recompute. -/
theorem amendFloorReplacesTheList : Obligations.AmendFloorReplacesTheList := by
  refine ⟨fun s k x members h marks service => ⟨fun short distinct occupied => ?_, fun size refused => ?_⟩,
    fun s k x index count field length list h service size => ⟨fun off => ?_, fun other => ?_, fun first out => ?_⟩⟩
  · have form := floorForm_of_list 0 (list := members.map fun i => byte i.val) (by rw [List.length_map]; omega)
    rw [List.length_map] at form
    refine ⟨_, h.exec_amendFloor service form, ?_⟩
    have taken : (s.heard k x).floorListOf (members.map fun i => byte i.val) = some members :=
      ((s.heard k x).floorListOf_members members).trans (if_pos ⟨short, distinct, occupied⟩)
    rw [show ((0 : Byte)).toNat = 0 from rfl, State.amendFloorBy_taken taken]
    have link : ((s.heard k x).setFloorList members).recompute.serve.link = (s.heard k x).link :=
      ((State.link_serve _).trans (State.quiet_recompute _).link).trans (State.setFloorList_link _ _)
    exact ⟨State.replies_finish link .done [], State.takesDemand_floor marks k x members⟩
  · have form := floorForm_of_list 0 (list := members.map fun i => byte i.val) (by rw [List.length_map]; omega)
    rw [List.length_map] at form
    have none : (s.heard k x).floorListOf (members.map fun i => byte i.val) = none := by
      refine ((s.heard k x).floorListOf_members members).trans (if_neg fun ⟨short, distinct, occupied⟩ => ?_)
      rcases refused with long | twice | ⟨i, m, vacant⟩
      · omega
      · exact twice distinct
      · exact occupied i m vacant
    exact onlyAnswers_of_refused (h.exec_amendFloor service form) (State.amendFloorBy_refused none)
  · exact h.serviceRejects service (exec_amendFloor _ s) rfl
      ((floorForm_list index count field length list).trans (if_neg (by tauto)))
  · exact onlyAnswers_of_refused (h.exec_amendFloor service (floorForm_of_list index size))
      (State.amendFloorBy_other other)
  · have taken := h.exec_amendFloor service (floorForm_of_list index size)
    rw [first] at taken
    exact onlyAnswers_of_refused taken (State.amendFloorBy_refused (State.floorListOf_outside _ out))

/-- Settles O44: a lapse as a change of the room, told to every slot. -/
theorem leaseExpiryLapsesTheRoom : Obligations.LeaseExpiryLapsesTheRoom := by
  intro s r p q marks
  refine ⟨fun c n => ⟨_, _, exec_leaseExpiry_lapse p c n, State.linkKept_told State.link_lapse_serve,
    State.told_event State.link_lapse_serve, s.roomReports_changeRoom q r _, ?_⟩, exec_leaseExpiry_none p q⟩
  have takes := s.takesRoom_changeRoom marks r ((s.room r).unclaimed .lapsed)
  have records := (s.lapse r).serve.tellWatches_records
  exact ⟨takes.follows.before records, fun e b => (takes.told e b).trans records,
    fun e d => (takes.silent e d).trans records⟩
end

section
/-! PROOF. Steps and strokes (R62), watches and markers (R181, R182), the minute tick (R37, R51, R132), and the stored
image with its store (R53 to R56). -/

namespace Sys2Proof.Machine

/-! ### Steps and strokes -/

/-- A quotient rounded down (R62). -/
theorem div_bounds (a : Nat) {b : Nat} (h : 0 < b) : a / b * b ≤ a ∧ a < (a / b + 1) * b :=
  ⟨Nat.div_mul_le_self a b, by
    rw [Nat.add_mul, Nat.one_mul]
    exact Nat.lt_div_mul_add h⟩

/-! ### Watches and markers -/

theorem Watch.covers_iff (w : Watch) (n : Nat) : w.covers n = true ↔
    (w.base ≤ n ∧ n < w.base + w.span) ∨
      (w.mirror = true ∧ ((12 ≤ n ∧ n ≤ 23 ∧ w.base ≤ n - 12 ∧ n - 12 < w.base + w.span) ∨
        (n ≤ 11 ∧ w.base ≤ n + 12 ∧ n + 12 < w.base + w.span))) := by
  simp only [Watch.covers, Bool.or_eq_true, Bool.and_eq_true, decide_eq_true_eq, and_assoc]

theorem Watch.triggered_iff (w : Watch) (r : Report) :
    w.triggered r = true ↔ w.table = r.table ∧ w.covers r.index = true ∧ (w.condition = .any ∨ r.state = true) := by
  simp only [Watch.triggered, Bool.and_eq_true, Bool.or_eq_true, decide_eq_true_eq, and_assoc]

theorem Slot.hear_triggered {x : Slot} {r : Report}
    (h : ∃ w ∈ x.watches, w.table = r.table ∧ w.covers r.index = true ∧ (w.condition = .any ∨ r.state = true)) :
    x.hear r = { x with marker := some (nextMarker r x.marker) } := by
  obtain ⟨w, m, c⟩ := h
  exact if_pos (List.any_eq_true.mpr ⟨w, m, (w.triggered_iff r).mpr c⟩)

theorem Slot.hear_untriggered {x : Slot} {r : Report}
    (h : ∀ w ∈ x.watches, w.table = r.table → w.covers r.index = true → w.condition = .state ∧ r.state = false) :
    x.hear r = x := by
  refine if_neg fun e => ?_
  obtain ⟨w, m, c⟩ := List.any_eq_true.mp e
  obtain ⟨table, covers, fires⟩ := (w.triggered_iff r).mp c
  obtain ⟨state, quiet⟩ := h w m table covers
  rw [state, quiet] at fires
  exact fires.elim Condition.noConfusion Bool.noConfusion

/-! ### The minute tick -/

theorem House.minute_unset {h : House} (e : h.timeSet = false) : h.minute = h := by
  simp [House.minute, e]

theorem House.minute_set {h : House} (e : h.timeSet = true) :
    h.minute = { h with
      houseTime := (h.houseTime + 1) % 10080
      midnightDue := h.midnightDue || decide ((h.houseTime + 1) % 10080 % 1440 = 0)
      exerciseDue := h.exerciseDue || decide ((h.houseTime + 1) % 10080 = h.exerciseMinute) } := by
  simp only [House.minute, e, if_true]
  rfl

theorem State.timer_timerTick (s : State) (n m : Manifold) :
    (s.timerTick n).timer m = if n = m then (s.timer m).minute else s.timer m := by
  by_cases e : n = m
  · rw [if_pos e, State.timerTick, e, State.timer_setTimer]
  · rw [if_neg e]
    exact PerManifold.get_set_ne _ e _

theorem State.timer_congr {s t : State} (h : t.timers = s.timers) (m : Manifold) : t.timer m = s.timer m :=
  congrArg (fun p => PerManifold.get p m) h

theorem State.leaseTick_timers (s : State) : s.leaseTick.timers = s.timers := by
  unfold State.leaseTick
  split
  · exact s.mapRooms_timers _
  · rfl

theorem State.minuteTick_timer (s : State) (m : Manifold) : s.minuteTick.timer m = (s.timer m).minute := by
  have base : s.leaseTick.counterTick.timer m = s.timer m :=
    State.timer_congr ((s.leaseTick.mapLoops_timers _).trans s.leaseTick_timers) m
  have ticked : s.minuteTick.timer m = ((s.leaseTick.counterTick.timerTick .a).timerTick .b).timer m :=
    State.timer_congr (State.setHouse_timers _ _) m
  rw [ticked, State.timer_timerTick, State.timer_timerTick, base]
  cases m <;> rfl

theorem State.counts_leaseTick (s : State) (i : LoopIx) : s.leaseTick.counts i = s.counts i := by
  unfold State.leaseTick
  split <;> rfl

theorem State.loop_leaseTick (s : State) (i : LoopIx) : s.leaseTick.loop i = s.loop i := by
  unfold State.leaseTick
  split <;> rfl

theorem State.minuteTick_loop (s : State) (i : LoopIx) :
    s.minuteTick.loop i = if s.counts i = true then (s.loop i).minute else s.loop i := by
  have ticked : s.minuteTick.loop i = s.leaseTick.counterTick.loop i :=
    State.loop_congr (by simp [State.minuteTick, State.timerTick]) i
  rw [ticked, State.counterTick, State.loop_mapLoops, State.counts_leaseTick, State.loop_leaseTick]

theorem State.minuteTick_room (s : State) (r : RoomIx) :
    s.minuteTick.room r = if s.house.season = .heating ∧ (s.room r).state = .claimed then
      { s.room r with leaseRemaining := (s.room r).leaseRemaining - 1 } else s.room r := by
  have ticked : s.minuteTick.room r = s.leaseTick.room r :=
    State.room_congr (by simp [State.minuteTick, State.timerTick, State.counterTick]) r
  rw [ticked, State.leaseTick]
  by_cases season : s.house.season = .heating
  · rw [if_pos season, State.room_mapRooms]
    by_cases claimed : (s.room r).state = .claimed
    · rw [if_pos ⟨season, claimed⟩, Room.minute, if_pos claimed]
    · rw [if_neg (fun c => claimed c.2), Room.minute, if_neg claimed]
  · rw [if_neg season, if_neg (fun c => season c.1)]

/-- What a minute tick leaves alone. -/
structure State.TickKeeps (s t : State) : Prop where
  powered : t.powered = s.powered
  floorList : t.floorList = s.floorList
  floorShort : t.floorShort = s.floorShort
  storage : t.storage = s.storage
  drive : t.drive = s.drive
  channels : t.channels = s.channels
  supplyRefs : t.supplyRefs = s.supplyRefs
  campaigns : t.campaigns = s.campaigns
  pending : t.pending = s.pending
  link : t.link = s.link

theorem State.tickKeeps_minuteTick (s : State) : s.TickKeeps s.minuteTick := by
  have lease : s.TickKeeps s.leaseTick := by
    unfold State.leaseTick
    split
    · constructor <;> simp
    · exact ⟨rfl, rfl, rfl, rfl, rfl, rfl, rfl, rfl, rfl, rfl⟩
  constructor <;>
    simp [State.minuteTick, State.timerTick, State.counterTick, lease.powered, lease.floorList, lease.floorShort,
      lease.storage, lease.drive, lease.channels, lease.supplyRefs, lease.campaigns, lease.pending, lease.link]

end Sys2Proof.Machine

open Sys2Proof Sys2Proof.Machine

/-- Settles O49: a quotient rounded down, and the aims of each kind of move. -/
theorem stepsAndStrokesRoundDown : Obligations.StepsAndStrokesRoundDown := by
  refine ⟨fun c s => div_bounds _ (by decide), fun c => ⟨?_, ?_⟩, fun c p h => div_bounds _ h, fun m =>
    ⟨fun kind n target => ?_, fun kind => ?_, fun kind leg => ?_, fun kind leg n back => ?_⟩⟩
  · rw [stepOf, Nat.mul_zero, Nat.zero_div]
  · exact Nat.mul_div_cancel c (by decide)
  · simp only [Move.aimedAt, kind, target, Option.getD_some]
  · simp only [Move.aimedAt, kind]
  · simp only [Move.aimedAt, kind, leg, if_true]
    rfl
  · simp only [Move.aimedAt, kind, leg, back, Option.getD_some, reduceCtorEq, if_false]

/-- Settles O52: what a watch covers, and the marker after each report. -/
theorem changesSetTheMarker : Obligations.ChangesSetTheMarker := by
  refine ⟨Watch.covers_iff, fun x r => ⟨fun h => ?_, fun h => Slot.hear_untriggered h, rfl, fun more => rfl⟩⟩
  rw [Slot.told_cons, Slot.told_nil, Slot.hear_triggered h]
  cases x.marker <;> rfl

/-- Settles O43: the tick field by field. -/
theorem minuteTickCounts : Obligations.MinuteTickCounts := by
  intro s p
  have keeps := s.tickKeeps_minuteTick
  have told := s.minuteTick.tellWatches_records
  refine ⟨_, (exec_minuteTick s).trans (event_next p _), State.linkKept_told keeps.link,
    told.powered.trans keeps.powered, told.floorList.trans keeps.floorList, told.floorShort.trans keeps.floorShort,
    told.storage.trans keeps.storage, told.drive.trans keeps.drive, told.channels.trans keeps.channels,
    told.supplyRefs.trans keeps.supplyRefs, told.campaigns.trans keeps.campaigns, told.pending.trans keeps.pending,
    fun r => (told.room r).trans (s.minuteTick_room r), fun i => ?_,
    fun m => (State.timer_congr told.timers m).trans (s.minuteTick_timer m),
    fun unset => told.house.trans (House.minute_unset unset), fun set => told.house.trans (House.minute_set set)⟩
  rw [told.loop, State.minuteTick_loop]
  exact if_congr (s.counts_iff i) rfl rfl
end

section
/-! PROOF. The stored image (R53 to R56): what a store writes, which images are read back, and the part that powers up
without one. -/

namespace Sys2Proof.Machine

/-! ### The stored image -/

theorem State.snapshot_loop (s : State) (i : LoopIx) : s.snapshot.loops[i] = (s.loop i).image := by
  simp [State.snapshot]

theorem State.snapshot_holds (s : State) : s.snapshot.Holds s where
  vacant i h := (s.snapshot_loop i).trans (Loop.image_vacant h)
  enrolled i h k := (s.snapshot_loop i).trans (Loop.image_enrolled h k)
  rooms r := by simp [State.snapshot]
  floorList := by
    refine List.filter_congr fun i _ => ?_
    simp [Loop.storedVacant]
  season := rfl
  design := ⟨rfl, rfl⟩
  deadband := rfl
  settleBase := rfl
  trimEnable := rfl
  flowFloor := rfl
  leaseUnit := rfl
  exerciseMinute := rfl
  roundLimit := rfl

/-- A stored loop in its ranges: VACANT with the values of R14, or ENROLLED in the ranges of R2 and R3. -/
theorem ImageLoop.lawful_iff (l : ImageLoop) : l.lawful = true ↔
    l = ⟨.vacant, none, none, 1, 1000, .unmeasured⟩ ∨
      l.life = .enrolled ∧ (∀ n, l.length = some n → 5 ≤ n ∧ n ≤ 200) ∧ 1 ≤ l.covering ∧ l.covering ≤ 3 ∧
        80 ≤ l.ceiling ∧ l.ceiling ≤ 1000 := by
  have stored : (⟨.vacant, none, none, 1, 1000, .unmeasured⟩ : ImageLoop) = .vacant := rfl
  rw [stored]
  have other {x : Lifecycle} (life : l.life = x) (v : x ≠ .vacant) : l ≠ .vacant := fun e => v (by rw [← life, e]; rfl)
  cases life : l.life with
  | vacant => simp [ImageLoop.lawful_vacant life]
  | enrolled => simp [ImageLoop.lawful_enrolled life, other life, and_assoc]
  | homing => simp [ImageLoop.lawful, life, other life]
  | ready => simp [ImageLoop.lawful, life, other life]
  | retiring => simp [ImageLoop.lawful, life, other life]

theorem Image.roomsFit_iff (g : Image) : g.roomsFit = true ↔
    ∀ r : RoomIx, (allLoops.filter fun i => (g.loops[i]).room = some r).length ≤ 6 := by
  simp only [Image.roomsFit, List.all_eq_true, decide_eq_true_eq]
  exact ⟨fun h r => h r (mem_allRooms r), fun h r _ => h r⟩

theorem Image.floorLawful_iff (g : Image) : g.floorLawful = true ↔
    g.floorList.length ≤ 8 ∧ g.floorList.Nodup ∧ ∀ i ∈ g.floorList, (g.loops[i]).life ≠ .vacant := by
  simp only [Image.floorLawful, Bool.and_eq_true, List.all_eq_true, decide_eq_true_eq, and_assoc]
  rfl

theorem Image.settingsLawful_iff (g : Image) : g.settingsLawful = true ↔
    ∀ p ∈ [(2, g.designA), (3, g.designB), (4, g.deadband), (5, g.settleBase), (7, g.flowFloor), (9, g.leaseUnit),
      (11, g.exerciseMinute), (12, g.roundLimit)], HouseInRange p.1 p.2 := by
  have week : Config.minutesPerWeek = 10080 := rfl
  simp only [Image.settingsLawful, within, Bool.and_eq_true, Bool.or_eq_true, decide_eq_true_eq, week,
    List.forall_mem_cons, List.not_mem_nil, IsEmpty.forall_iff, implies_true, and_true, HouseInRange, Nat.reduceEqDiff, OfNat.ofNat_ne_one, or_true,
    false_or, or_false, true_and, false_and]
  omega

theorem Image.lawful_iff (g : Image) : g.lawful = true ↔ g.Sound := by
  simp only [Image.lawful, Bool.and_eq_true, List.all_eq_true, g.roomsFit_iff, g.floorLawful_iff, g.settingsLawful_iff,
    ImageLoop.lawful_iff, ImageRoom.lawful_iff, allLoops, allRooms, List.mem_finRange, forall_const]
  constructor
  · rintro ⟨⟨⟨⟨loops, rooms⟩, fit⟩, floor⟩, settings⟩
    exact ⟨loops, fun r => ⟨(rooms r).1, (rooms r).2.1, (rooms r).2.2, fit r⟩, floor, settings⟩
  · rintro ⟨loops, rooms, floor, settings⟩
    exact ⟨⟨⟨⟨loops, fun r => ⟨(rooms r).1, (rooms r).2.1, (rooms r).2.2.1⟩⟩, fun r => (rooms r).2.2.2⟩, floor⟩,
      settings⟩

theorem NvMemory.examine_sound {g : Image} (h : g.Sound) : (NvMemory.sound g).examine = (.valid, some g) :=
  if_pos (g.lawful_iff.mpr h)

theorem NvMemory.examine_unsound {g : Image} (h : ¬g.Sound) : (NvMemory.sound g).examine = (.bad, none) :=
  if_neg fun l => h (g.lawful_iff.mp l)

/-! ### STORE and its completion -/

theorem State.Polled.exec_store {s : State} {k : SlotIx} {x : Slot} (h : s.Polled k x) (service : slotKind k = .service) :
    exec (.store []) s = .next ((if s.storage.running.isSome then (s.heard k x).refuse .busy
      else ⟨.deferred, [], (s.heard k x).takeStore⟩).finish k) :=
  h.taken (allowed := serviceStation) (form := noParams) (serviceStation_of service) rfl fun _ t _ =>
    if t.storage.running.isSome then t.refuse .busy else ⟨.deferred, [], t.takeStore⟩

theorem State.takeStore_records (s : State) :
    (s.setStorage { s.storage with running := some s.snapshot }).SameRecords s.takeStore := State.mark_records _ _ _ _

theorem State.takeStore_link (s : State) : s.takeStore.link = s.link := rfl

/-- A snapshot is of the records, not of the link. -/
theorem State.snapshot_congr {s t : State} (h : s.SameRecords t) : t.snapshot = s.snapshot := by
  simp only [State.snapshot, h.loop, h.room, h.floorList, h.house]

theorem State.SameRecords.setStorage {s t : State} (h : s.SameRecords t) (x : Storage) :
    (s.setStorage x).SameRecords (t.setStorage x) :=
  ⟨h.powered, h.loops, h.rooms, h.floorList, h.floorShort, h.house, rfl, h.drive, h.channels, h.supplyRefs, h.timers,
    h.campaigns, h.pending⟩

/-- A store taken in the state that a request is heard in. -/
theorem State.takeStore_heard (s : State) (k : SlotIx) (x : Slot) :
    (s.setStorage { s.storage with running := some s.snapshot }).SameRecords (s.heard k x).takeStore := by
  have heard := s.heard_records k x
  have taken := (s.heard k x).takeStore_records
  rw [State.snapshot_congr heard, heard.storage] at taken
  exact (heard.setStorage _).trans taken

theorem State.storeCompletion_none {s : State} (h : s.storage.running = none) (agrees : Bool) :
    s.storeCompletion agrees = s := by
  simp only [State.storeCompletion, h]

/-- The completion of a store that is not to be repeated, and of one that is. -/
theorem State.storeCompletion_records {s : State} {g : Image} (h : s.storage.running = some g) (agrees : Bool) :
    (s.setStorage ⟨if agrees = true then .sound g else .unsound, if agrees = true then .valid else .bad,
      if s.storage.again = true then some s.snapshot else none, false⟩).SameRecords (s.storeCompletion agrees) := by
  have written := State.mark_records (s.setStorage (.written g agrees)) .house 0 true
  simp only [State.storeCompletion, h]
  by_cases again : s.storage.again = true
  · rw [if_pos again, if_pos again]
    have taken := ((s.setStorage (.written g agrees)).markHouse true).takeStore_records
    have same : ((s.setStorage (.written g agrees)).markHouse true).snapshot = s.snapshot := rfl
    rw [same] at taken
    exact (written.setStorage _).trans taken
  · rw [if_neg again, if_neg again]
    exact written

theorem State.storeCompletion_link (s : State) (agrees : Bool) : (s.storeCompletion agrees).link = s.link := by
  unfold State.storeCompletion
  split
  · split <;> rfl
  · rfl

theorem exec_storeCompletion_next {s : State} (p : s.powered = true) (agrees : Bool) :
    exec (.storeCompletion agrees) s = .next (s.storeCompletion agrees).tellWatches := by
  rw [exec_storeCompletion, execStoreCompletion, event_next p]

/-! ### A part without supply -/

section
variable {s : State} (p : s.powered = false)
include p

/-- A part without supply takes nothing (log 11). -/
theorem powered_off (f : State → State) : Sys2Proof.Machine.powered s f = .next s := by
  rw [Sys2Proof.Machine.powered, p]
  rfl

theorem event_off (f : State → State) : event s f = .next s := powered_off p _

theorem reply_off (f : SlotIx → Slot → State → State) : reply s f = .next s := powered_off p _

theorem request_off (a : StationKind → Bool) (f : SlotIx → State → Taken) : request s a f = .next s := reply_off p _

theorem serviceOrder_off (b : List Byte) (f : State → Taken) : serviceOrder b s f = .next s := request_off p _ _

theorem onMove_off (f : State → Move → State) : onMove s f = .next s := event_off p _

/-- Every command but power-up is taken by a part with supply alone (log 11). -/
theorem exec_unpowered {c : Instr} (h : ∀ heads line, c ≠ .powerUp heads line) : exec c s = .next s := by
  cases c with
  | powerUp heads line => exact absurd rfl (h heads line)
  | poll => exact (exec_poll s).trans (event_off p _)
  | noneReply => exact (exec_noneReply s).trans (request_off p _ _)
  | corruptReply => exact (exec_corruptReply s).trans (reply_off p _)
  | join kind address => exact (exec_join kind address s).trans (powered_off p _)
  | windowExpiry => exact (exec_windowExpiry s).trans (event_off p _)
  | linkRestart => exact (exec_linkRestart s).trans (event_off p _)
  | breakEnd => exact (exec_breakEnd s).trans (event_off p _)
  | unknownRequest kind params => exact (exec_unknownRequest kind params s).trans (request_off p _ _)
  | look params => exact (exec_look params s).trans (request_off p _ _)
  | watchSet params => exact (exec_watchSet params s).trans (request_off p _ _)
  | watchClear params => exact (exec_watchClear params s).trans (request_off p _ _)
  | describe params => exact (exec_describe params s).trans (request_off p _ _)
  | claim params => exact (exec_claim params s).trans (request_off p _ _)
  | demand params => exact (exec_demand params s).trans (request_off p _ _)
  | release params => exact (exec_release params s).trans (request_off p _ _)
  | amendLoop params => exact (exec_amendLoop params s).trans (request_off p _ _)
  | amendRoom params => exact (exec_amendRoom params s).trans (request_off p _ _)
  | amendFloor params => exact (exec_amendFloor params s).trans (request_off p _ _)
  | amendHouse params => exact (exec_amendHouse params s).trans (request_off p _ _)
  | enrol params => exact (exec_enrol params s).trans (request_off p _ _)
  | retire params => exact (exec_retire params s).trans (request_off p _ _)
  | preset params => exact (exec_preset params s).trans (request_off p _ _)
  | campaignStart params => exact (exec_campaignStart params s).trans (request_off p _ _)
  | campaignCancel params => exact (exec_campaignCancel params s).trans (request_off p _ _)
  | hold params => exact (exec_hold params s).trans (serviceOrder_off p _ _)
  | stop params motorStep => exact (exec_stop params motorStep s).trans (serviceOrder_off p _ _)
  | resume params => exact (exec_resume params s).trans (serviceOrder_off p _ _)
  | store params => exact (exec_store params s).trans (serviceOrder_off p _ _)
  | restart params => exact (exec_restart params s).trans (serviceOrder_off p _ _)
  | insertion port => exact (exec_insertion port s).trans (event_off p _)
  | removal port => exact (exec_removal port s).trans (event_off p _)
  | moveStart => exact (exec_moveStart s).trans (event_off p _)
  | legReached => exact (exec_legReached s).trans (onMove_off p _)
  | endStopReached stop steps => exact (exec_endStopReached stop steps s).trans (onMove_off p _)
  | homingTravelLimit => exact (exec_homingTravelLimit s).trans (onMove_off p _)
  | stall step => exact (exec_stall step s).trans (onMove_off p _)
  | dwellExpiry => exact (exec_dwellExpiry s).trans (event_off p _)
  | scanCompletion samples => exact (exec_scanCompletion samples s).trans (event_off p _)
  | minuteTick => exact (exec_minuteTick s).trans (event_off p _)
  | leaseExpiry room => exact (exec_leaseExpiry room s).trans (event_off p _)
  | midnight => exact (exec_midnight s).trans (event_off p _)
  | exerciseMinute => exact (exec_exerciseMinute s).trans (event_off p _)
  | roundExpiry manifold => exact (exec_roundExpiry manifold s).trans (event_off p _)
  | storeCompletion agrees => exact (exec_storeCompletion agrees s).trans (event_off p _)
  | pauseLineAssertion => exact (exec_pauseLineAssertion s).trans (event_off p _)
  | pauseLineRelease => exact (exec_pauseLineRelease s).trans (event_off p _)
  | lossOfSupply => exact (exec_lossOfSupply s).trans (powered_off p _)
  | breakOnset => exact (exec_breakOnset s).trans (event_off p _)
  | amendOfDriveOrRoster params => exact (exec_amendOfDriveOrRoster params s).trans (request_off p _ _)
  | openCallReplyDiscarded => exact (exec_openCallReplyDiscarded s).trans (reply_off p _)

end

theorem Storage.afterLoss_eq (x : Storage) : x.afterLoss = if x.running = none then x.memory else .unsound := by
  cases h : x.running <;> simp [Storage.afterLoss, h]

/-! ### Power-up with no image -/

/-- A pass over a list that changes nothing. -/
theorem State.forEach_id {α : Type} {f : State → α → State} {s : State} (h : ∀ a, f s a = s) (l : List α) :
    s.forEach l f = s := by
  induction l with
  | nil => rfl
  | cons a l ih => exact (congrArg (fun t => State.forEach t l f) (h a)).trans ih

theorem State.mapLoops_id {s : State} {f : LoopIx → Loop → Loop} (h : ∀ i, f i (s.loop i) = s.loop i) :
    s.mapLoops f = s := by
  have loops : Vector.ofFn (fun i => f i (s.loop i)) = s.loops := by
    simp only [h]
    exact Vector.ext fun i hi => by simp [State.loop]
  rw [State.mapLoops, loops]

theorem State.fill_of_unwanted {s : State} (h : ∀ i, (s.loop i).want = none) : s.fill = s :=
  State.forEach_id (fun i => by simp only [State.place, h]) _

/-- A recompute that finds every stroke as it stands changes nothing. -/
theorem State.recompute_of_evaluated {s : State} (h : s.evaluated = s) : s.recompute = s := by
  have handed : s.handStrokes s s = s := State.forEach_id (fun i => if_neg fun c => c.2 rfl) _
  have short : s.tellShort s s = s := if_pos rfl
  have told : s.tellStrokes s s = s := State.forEach_id (fun i => by simp [State.markLoopIf]) _
  rw [State.recompute, h, handed, short, told]

theorem State.evaluated_of_vacant {s : State} (loops : ∀ i, (s.loop i).life ≠ .ready ∧ (s.loop i).commanded = 0 ∧
    (s.loop i).floorHeld = false) (list : s.floorList = []) (flow : s.house.flowFloor = 0)
    (short : s.floorShort = false) : s.evaluated = s := by
  have walk : s.floorWalk = ([], false) := by
    simp [State.floorWalk, list, State.walk, flow]
  have strokes : (s.mapLoops fun i l => l.setStroke (s.newStroke s.floorWalk.1 i) (s.floorWalk.1.contains i)) = s := by
    refine State.mapLoops_id fun i => ?_
    obtain ⟨life, commanded, held⟩ := loops i
    have base : s.baseStroke i = 0 := if_pos life
    have stroke : s.newStroke s.floorWalk.1 i = (s.loop i).commanded := by
      rw [walk, commanded]
      exact base
    have mark : s.floorWalk.1.contains i = (s.loop i).floorHeld := by
      rw [walk, held]
      rfl
    simp only [stroke, mark, Loop.setStroke]
  rw [State.evaluated, strokes, walk, State.setFloorShort, ← short]

/-- The records of a part that powers up with no image. -/
def State.unloaded (s : State) (heads : Vector Bool 24) (line : Bool) (st : ImageStatus) : State :=
  { State.reset with
    loops := Vector.ofFn fun i : LoopIx => { Loop.vacant with present := heads[i] }
    house := { House.default with pauseLine := line }
    storage := ⟨s.storage.afterLoss, st, none, false⟩
    pending := s.pending }

section
variable {s : State} {heads : Vector Bool 24} {line : Bool} {st : ImageStatus}

theorem State.loaded_unloaded (h : s.storage.afterLoss.examine = (st, none)) :
    s.loaded heads line = s.unloaded heads line st := by
  have rooms : Vector.ofFn (loadRoom none) = State.reset.rooms := by decide
  simp only [State.loaded, h, rooms]
  rfl

theorem State.loop_unloaded (i : LoopIx) :
    (s.unloaded heads line st).loop i = { Loop.vacant with present := heads[i] } := by
  simp [State.loop, State.unloaded]

/-- A part with every loop VACANT wants no HOME, recomputes nothing and starts no move. -/
theorem State.powerUp_unloaded (h : s.storage.afterLoss.examine = (st, none)) :
    s.powerUp heads line = s.unloaded heads line st := by
  have asleep : ((s.unloaded heads line st).mapLoops fun _ l => l.wakened) = s.unloaded heads line st :=
    State.mapLoops_id fun i => by rw [State.loop_unloaded]; rfl
  have filled : (s.unloaded heads line st).fill = s.unloaded heads line st :=
    State.fill_of_unwanted fun i => by rw [State.loop_unloaded]; rfl
  have computed : (s.unloaded heads line st).recompute = s.unloaded heads line st :=
    State.recompute_of_evaluated (State.evaluated_of_vacant
      (fun i => by rw [State.loop_unloaded]; exact ⟨Lifecycle.noConfusion, rfl, rfl⟩) rfl rfl rfl)
  have still : (s.unloaded heads line st).serve = s.unloaded heads line st := State.serve_of_startLaw rfl
  rw [State.powerUp, State.loaded_unloaded h, asleep, filled, computed, still, State.tellWatches_quiet rfl]

end

end Sys2Proof.Machine

open Sys2Proof Sys2Proof.Machine

/-- Settles O34: the snapshot, the checks of an image, and the two ends of a store. -/
theorem storeWritesTheSnapshot : Obligations.StoreWritesTheSnapshot := by
  refine ⟨State.snapshot_holds, Image.lawful_iff, ⟨rfl, rfl, fun g => ⟨NvMemory.examine_sound,
    NvMemory.examine_unsound⟩⟩, fun s k x h service => ⟨fun busy => ?_, fun free => ?_⟩,
    fun s agrees p q => ⟨fun free => ?_, fun g running => ?_⟩⟩
  · refine onlyAnswers_of_refused (h.exec_store service) (if_pos ?_)
    exact Option.isSome_iff_ne_none.mpr busy
  · refine ⟨_, h.exec_store service, ?_⟩
    rw [if_neg (by simp [free])]
    exact ⟨State.replies_finish (State.takeStore_link _) .deferred [],
      (s.takeStore_heard k x).trans (Taken.finish_records ⟨.deferred, [], (s.heard k x).takeStore⟩ k)⟩
  · rw [exec_storeCompletion_next p, State.storeCompletion_none free, State.tellWatches_quiet q]
  · exact ⟨_, exec_storeCompletion_next p agrees, State.linkKept_told (s.storeCompletion_link agrees),
      (State.storeCompletion_records running agrees).trans (State.tellWatches_records _)⟩

/-- Settles O4: with no image every loop is VACANT, and power-up leaves the defaults as they are. -/
theorem withoutAnImageTheDefaultsStand : Obligations.WithoutAnImageTheDefaultsStand := by
  refine ⟨fun heads line s st h => ?_, fun s p => ?_, fun c s p h => exec_unpowered p h⟩
  · rw [exec_powerUp, execPowerUp, State.powerUp_unloaded h]
    rfl
  · rw [exec_lossOfSupply, execLossOfSupply, Sys2Proof.Machine.powered, if_pos p, State.unpowered,
      Storage.afterLoss_eq]
end

section
/-! PROOF. O46 and O50: the evaluation's arithmetic, and wants: what setting one does to the queue (R78, R80), and the filling
of free places (R79). -/

namespace Sys2Proof.Machine

theorem judge_inBand {ceiling inBand design deadband : Nat} {dt : Int} (small : (dt - design).natAbs ≤ deadband) :
    judge ceiling inBand dt design deadband =
      ⟨min 3 (inBand + 1), if 2 ≤ inBand then .balanced else .trimming, none⟩ := by
  have third : min 3 (inBand + 1) = 3 ↔ 2 ≤ inBand := by omega
  simp [judge, small, third]

theorem judge_high {ceiling inBand design deadband : Nat} {dt : Int} (high : (deadband : Int) < dt - design) :
    judge ceiling inBand dt design deadband = if ceiling < 1000 then
      ⟨0, .trimming, some (min 1000 (ceiling + trimStep (dt - design).natAbs deadband))⟩
    else ⟨0, .limitedHigh, none⟩ := by
  have large : ¬ (dt - design).natAbs ≤ deadband := by omega
  have above : 0 < dt - design := by omega
  simp only [judge, large, above, if_true, if_false, Config.fullStroke]
  rfl

theorem judge_low {ceiling inBand design deadband : Nat} {dt : Int} (low : dt - design < -(deadband : Int)) :
    judge ceiling inBand dt design deadband = if 80 < ceiling then
      ⟨0, .trimming, some (max 80 (ceiling - trimStep (dt - design).natAbs deadband))⟩
    else ⟨0, .limitedLow, none⟩ := by
  have large : ¬ (dt - design).natAbs ≤ deadband := by omega
  have below : ¬ 0 < dt - design := by omega
  simp only [judge, large, below, if_false, Config.minCeiling]
  rfl

theorem trimStep_excess (deadband excess : Nat) (positive : 0 < excess) :
    trimStep (deadband + excess) deadband =
      if excess ≤ 5 then 10 else if excess ≤ 10 then 20 else if excess ≤ 15 then 30
      else if excess ≤ 20 then 40 else 50 := by
  simp only [trimStep, Nat.add_sub_cancel_left]
  split_ifs <;> omega

theorem supersede_self (k : MoveKind) : supersede (some k) k = k := by cases k <;> rfl

theorem State.outstanding_iff (s : State) (i : LoopIx) : s.outstanding i = true ↔ s.Outstanding i := by
  have homing : s.homing i = true ↔ ∃ m, s.drive.moving = some m ∧ m.loop = i ∧ m.kind = .home := by
    unfold State.homing
    rcases s.drive.moving with _ | m <;> simp
  have waiting : (!s.queued i) = true ↔ ∀ e ∈ s.drive.queue, e.loop ≠ i := by
    rw [Bool.not_eq_true', State.queued_eq_false]
  rw [State.outstanding, State.Outstanding, Bool.and_eq_true, Bool.and_eq_true, waiting, Bool.not_eq_true',
    Bool.and_eq_false_iff, ← homing, Option.isSome_iff_ne_none]
  simp only [decide_eq_true_eq, ← Bool.not_eq_true, not_and_or, and_assoc]

/-- What decides whether a want is outstanding. -/
theorem State.outstanding_congr {s t : State} {i : LoopIx} (want : (t.loop i).want = (s.loop i).want)
    (queued : t.queued i = s.queued i) (moving : t.drive.moving = s.drive.moving) :
    t.outstanding i = s.outstanding i := by
  unfold State.outstanding State.homing
  rw [want, queued, moving]

theorem State.drive_append (s : State) (e : Entry) :
    (s.append e).drive = { s.drive with queue := s.drive.queue ++ [e] } := State.drive_tellIdle _ _

theorem State.outstanding_append (s : State) {e : Entry} {j : LoopIx} (other : e.loop ≠ j) :
    (s.append e).outstanding j = s.outstanding j :=
  State.outstanding_congr (by rw [State.loop_append])
    (by unfold State.queued; rw [State.drive_append]; simp [other]) (by rw [State.drive_append])

theorem State.place_of_outstanding {s : State} {i : LoopIx} {k : MoveKind} (want : (s.loop i).want = some k)
    (waits : s.outstanding i = true) (free : s.drive.queue.length < 16) : s.place i = s.append (s.entryFor i k) := by
  unfold State.place
  rw [want]
  exact if_pos (by simp [waits, Config.queueCapacity, free])

theorem State.place_of_placed {s : State} {i : LoopIx} (h : s.outstanding i = false ∨ 16 ≤ s.drive.queue.length) :
    s.place i = s := by
  unfold State.place
  split
  · refine if_neg ?_
    rcases h with h | h
    · simp [h]
    · simp [Config.queueCapacity, Nat.not_lt.2 h]
  · rfl

/-- The entry that a loop's want makes, if it has one. -/
def State.wantedEntry (s : State) (i : LoopIx) : Option Entry := (s.loop i).want.map (s.entryFor i)

theorem State.wantedEntry_append (s : State) (e : Entry) (i : LoopIx) :
    (s.append e).wantedEntry i = s.wantedEntry i := by
  unfold State.wantedEntry State.entryFor
  rw [State.loop_append]

/-- Filling along a list of loops: the outstanding wants among them, as far as the free places go (R79). -/
theorem State.queue_placeAll {l : List LoopIx} (once : l.Nodup) (s : State) :
    (s.forEach l State.place).drive.queue =
      s.drive.queue ++ ((l.filter s.outstanding).take (16 - s.drive.queue.length)).filterMap s.wantedEntry := by
  induction l generalizing s with
  | nil => simp [State.forEach]
  | cons i l ih =>
    obtain ⟨fresh, once⟩ := List.nodup_cons.1 once
    rw [State.forEach, List.foldl_cons]
    change ((s.place i).forEach l State.place).drive.queue = _
    rw [ih once]
    by_cases free : s.drive.queue.length < 16
    · rcases waits : s.outstanding i with _ | _
      · rw [State.place_of_placed (.inl waits), List.filter_cons_of_neg (by simp [waits])]
      · have wanted := (s.outstanding_iff i).1 waits |>.1
        obtain ⟨k, want⟩ := Option.ne_none_iff_exists'.1 wanted
        have same : l.filter (s.append (s.entryFor i k)).outstanding = l.filter s.outstanding :=
          List.filter_congr fun j mem => s.outstanding_append fun (e : i = j) => fresh (e ▸ mem)
        have one : s.wantedEntry i = some (s.entryFor i k) := by rw [State.wantedEntry, want]; rfl
        have left : 16 - s.drive.queue.length = 16 - (s.drive.queue.length + 1) + 1 := by omega
        rw [State.place_of_outstanding want waits free, same, List.filter_cons_of_pos waits,
          funext (s.wantedEntry_append _), State.drive_append, left, List.take_succ_cons, List.filterMap_cons_some one]
        simp
    · have full : 16 - s.drive.queue.length = 0 := by omega
      rw [State.place_of_placed (.inr (by omega)), full, List.take_zero, List.take_zero]

theorem nodup_allLoops : allLoops.Nodup := List.nodup_finRange 24

theorem State.queue_fill (s : State) :
    s.fill.drive.queue = s.drive.queue ++
      ((allLoops.filter s.outstanding).take (16 - s.drive.queue.length)).filterMap s.wantedEntry := by
  unfold State.fill
  exact State.queue_placeAll nodup_allLoops s

theorem State.queue_placeOwn (s : State) {i : LoopIx} {k : MoveKind} (want : (s.loop i).want = some k) :
    (s.placeOwn i).drive.queue = s.drive.queue ++
      if s.queued i = true ∨ (k = .home ∧ s.homing i = true) ∨ 16 ≤ s.drive.queue.length ∨
        (∃ j, j ≠ i ∧ s.outstanding j = true) then [] else [s.entryFor i k] := by
  have others : s.othersWait i = true ↔ ∃ j, j ≠ i ∧ s.outstanding j = true := by
    simp [State.othersWait, allLoops]
  have waits : s.outstanding i = true ↔ ¬(s.queued i = true ∨ (k = .home ∧ s.homing i = true)) := by
    simp only [State.outstanding, want]
    by_cases h : k = .home <;> simp [h]
  unfold State.placeOwn
  split_ifs with wait stays stays
  · rw [List.append_nil]
  · exact absurd (.inr (.inr (.inr (others.1 wait)))) stays
  · rw [List.append_nil]
    have placed : s.outstanding i = false ∨ 16 ≤ s.drive.queue.length := by
      rcases stays with h | h | h | h
      · exact .inl (Bool.eq_false_iff.2 fun w => waits.1 w (.inl h))
      · exact .inl (Bool.eq_false_iff.2 fun w => waits.1 w (.inr h))
      · exact .inr h
      · exact absurd (others.2 h) wait
    rw [State.place_of_placed placed]
  · rw [not_or, not_or, not_or, Nat.not_le] at stays
    obtain ⟨unqueued, unhomed, free, -⟩ := stays
    rw [State.place_of_outstanding want (waits.2 (not_or.2 ⟨unqueued, unhomed⟩)) free, State.drive_append]

/-- The want set and the entries retargeted, before the want is placed. -/
theorem State.queued_retarget (s : State) (i : LoopIx) (k : MoveKind) (j : LoopIx) :
    (s.retarget i k).queued j = s.queued j := by
  have loops : ((fun e : Entry => decide (e.loop = j)) ∘ fun e => if e.loop = i then s.entryFor i k else e) =
      fun e => decide (e.loop = j) := by
    funext e
    by_cases h : e.loop = i <;> simp [h, State.entryFor]
  unfold State.queued State.retarget
  simp only [State.setQueue, State.setDrive_drive, List.any_map, loops]

theorem State.drive_recount (s : State) (i : LoopIx) : (s.recount i).drive = s.drive := by
  unfold State.recount
  split <;> rfl

/-- A loop's want set and its waiting entry changed, before the want is placed (R80). -/
def State.wantSet (s : State) (i : LoopIx) (k : MoveKind) : State :=
  (((s.modLoop i fun l => l.setWant (some k)).retarget i k).recount i).markLoop i false

theorem State.want_of_set {s : State} {i : LoopIx} {k : MoveKind} (h : supersede (s.loop i).want k = k) :
    s.want i k = (s.wantSet i k).placeOwn i := if_pos h

theorem State.drive_wantSet (s : State) (i : LoopIx) (k : MoveKind) :
    (s.wantSet i k).drive = { s.drive with
      queue := s.drive.queue.map fun e => if e.loop = i then s.entryFor i k else e } := by
  unfold State.wantSet
  rw [State.markLoop_drive, State.drive_recount]
  simp [State.retarget, State.entryFor, State.setQueue, State.loop_modLoop_self, Loop.setWant]

theorem State.loop_wantSet_ne (s : State) {i j : LoopIx} (h : j ≠ i) (k : MoveKind) :
    (s.wantSet i k).loop j = s.loop j := by
  rw [State.wantSet, State.loop_markLoop, State.loop_recount_ne _ h, State.loop_retarget, State.loop_modLoop_ne _ h]

theorem State.loop_wantSet_self {s : State} {i : LoopIx} {k : MoveKind} (h : supersede (s.loop i).want k = k) :
    (s.wantSet i k).loop i = ((s.loop i).setWant (some k)).zeroCounter := by
  rw [← s.loop_want_self i k h, State.want_of_set h, State.loop_placeOwn]

theorem State.queued_wantSet (s : State) (i : LoopIx) (k : MoveKind) (j : LoopIx) :
    (s.wantSet i k).queued j = s.queued j := by
  rw [← s.queued_retarget i k j]
  unfold State.queued State.retarget
  simp only [State.drive_wantSet, State.setQueue, State.setDrive_drive]

theorem State.entryFor_wantSet {s : State} {i : LoopIx} {k : MoveKind} (h : supersede (s.loop i).want k = k) :
    (s.wantSet i k).entryFor i k = s.entryFor i k := by
  unfold State.entryFor
  rw [State.loop_wantSet_self h]
  rfl

/-- The queue once a want has been set (R78, R80, R81). -/
theorem State.queue_want {s : State} {i : LoopIx} {k : MoveKind} (h : supersede (s.loop i).want k = k) :
    (s.want i k).drive.queue = (s.drive.queue.map fun e => if e.loop = i then s.entryFor i k else e) ++
      if (∃ e ∈ s.drive.queue, e.loop = i) ∨ (k = .home ∧ s.homing i = true) ∨ 16 ≤ s.drive.queue.length ∨
        (∃ j, j ≠ i ∧ s.outstanding j = true) then [] else [s.entryFor i k] := by
  have want : ((s.wantSet i k).loop i).want = some k := by rw [State.loop_wantSet_self h]; rfl
  have queued : (s.wantSet i k).queued i = true ↔ ∃ e ∈ s.drive.queue, e.loop = i := by
    rw [State.queued_wantSet, State.queued]
    simp
  have homing : (s.wantSet i k).homing i = s.homing i := by
    unfold State.homing
    rw [State.drive_wantSet]
  have others : (∃ j, j ≠ i ∧ (s.wantSet i k).outstanding j = true) ↔ ∃ j, j ≠ i ∧ s.outstanding j = true :=
    exists_congr fun j => and_congr_right fun other => by
      rw [State.outstanding_congr (s := s) (by rw [State.loop_wantSet_ne _ other]) (s.queued_wantSet i k j)
        (by rw [State.drive_wantSet])]
  rw [State.want_of_set h, State.queue_placeOwn _ want, State.entryFor_wantSet h, State.drive_wantSet]
  simp only [queued, homing, others, List.length_map]

end Sys2Proof.Machine

open Sys2Proof Sys2Proof.Machine

/-- Settles O46, by the three places of the error and the fifths of its excess. -/
theorem evaluationJudgesTheError : Obligations.EvaluationJudgesTheError := fun _ _ _ deadband _ =>
  ⟨judge_inBand, judge_high, judge_low, trimStep_excess deadband⟩

/-- Settles O50: the table by its entries, the wants and the filling by the lemmas on the queue after them. -/
theorem wantsCombineByTheirTable : Obligations.WantsCombineByTheirTable :=
  ⟨⟨rfl, rfl, rfl, rfl, rfl, rfl, rfl, rfl, rfl, rfl, rfl, rfl, fun k => ⟨supersede_self k, rfl⟩⟩,
    fun s i k =>
      ⟨fun dropped => if_neg dropped, fun set => ⟨by rw [s.loop_want_self i k set]; rfl,
        by rw [s.loop_want_self i k set]; rfl, fun _ other => s.loop_want_ne other k, s.reports_want i k set,
        State.queue_want set⟩⟩,
    State.outstanding_iff, fun s => ⟨s.loop_fill, s.queue_fill⟩⟩
end

section
/-! PROOF. O51: what the Demand Unit evaluates (R113), the walk over the Floor List (R121, R122), and what the Drive Queue
makes of a changed stroke (R84, R117). -/

namespace Sys2Proof.Machine

/-! ### What the Demand Unit evaluates -/

theorem State.held_recompute (s : State) (i : LoopIx) :
    (s.recompute.loop i).floorHeld = s.floorWalk.1.contains i := by
  rw [s.sameStrokes_recompute.held i, State.evaluated, State.loop_setFloorShort, State.loop_mapLoops]
  rfl

theorem State.stroke_recompute (s : State) (i : LoopIx) :
    (s.recompute.loop i).commanded = s.newStroke s.floorWalk.1 i := by
  rw [s.sameStrokes_recompute.stroke i, State.evaluated, State.loop_setFloorShort, State.loop_mapLoops]
  rfl

theorem State.short_recompute (s : State) : s.recompute.floorShort = s.floorWalk.2 := by
  rw [s.sameStrokes_recompute.short, State.evaluated, State.setFloorShort_floorShort]

theorem State.stroke_recompute_of_held (s : State) (i : LoopIx) : (s.recompute.loop i).commanded =
    if (s.recompute.loop i).floorHeld = true then (s.loop i).ceiling else s.baseStroke i := by
  rw [s.stroke_recompute, s.held_recompute, State.newStroke]

theorem State.canHelp_iff (s : State) (i : LoopIx) : s.canHelp i = true ↔
    (s.loop i).life = .ready ∧ (s.loop i).owner = .auto ∧ s.house.season = .heating ∧
      (s.campaign (manifoldOf i)).state = .idle ∧ s.baseStroke i < (s.loop i).ceiling := by
  simp [State.canHelp, State.onDemand, State.campaignOpen, and_assoc]

section
variable {s : State} {i : LoopIx}

theorem State.baseStroke_of_unready (h : (s.loop i).life ≠ .ready) : s.baseStroke i = 0 := if_pos h

theorem State.baseStroke_of_service (ready : (s.loop i).life = .ready) (owner : (s.loop i).owner = .service) :
    s.baseStroke i = (s.loop i).override := by
  simp [State.baseStroke, ready, owner]

theorem State.baseStroke_of_standby (ready : (s.loop i).life = .ready) (owner : (s.loop i).owner = .auto)
    (season : s.house.season = .standby) : s.baseStroke i = 0 := by
  simp [State.baseStroke, ready, owner, season]

theorem State.baseStroke_of_campaign (ready : (s.loop i).life = .ready) (owner : (s.loop i).owner = .auto)
    (season : s.house.season = .heating) (busy : (s.campaign (manifoldOf i)).state ≠ .idle) :
    s.baseStroke i = (s.loop i).ceiling := by
  simp [State.baseStroke, State.campaignOpen, ready, owner, season, busy]

theorem State.baseStroke_of_demand (ready : (s.loop i).life = .ready) (owner : (s.loop i).owner = .auto)
    (season : s.house.season = .heating) (idle : (s.campaign (manifoldOf i)).state = .idle) :
    s.baseStroke i = (s.loop i).ceiling * s.demandOf i / 100 := by
  simp [State.baseStroke, State.campaignOpen, ready, owner, season, idle]

theorem State.demandOf_room {r : RoomIx} (h : (s.loop i).room = some r) : s.demandOf i = (s.room r).effective := by
  simp [State.demandOf, h]

theorem State.demandOf_none (h : (s.loop i).room = none) : s.demandOf i = 0 := by
  simp [State.demandOf, h]

end

/-! ### The walk over the Floor List (R121, R122) -/

/-- What a loop adds where it is held for the flow floor (R121). -/
def State.gain (s : State) (i : LoopIx) : Nat := (s.loop i).ceiling - s.baseStroke i

theorem State.walk_of_met {s : State} {n : Nat} (met : s.house.flowFloor ≤ n) (l : List LoopIx) :
    s.walk l n = ([], n) := by
  cases l with
  | nil => rfl
  | cons i l => exact if_pos met

theorem State.walk_help {s : State} {n : Nat} {i : LoopIx} (short : n < s.house.flowFloor) (help : s.canHelp i = true)
    (l : List LoopIx) :
    s.walk (i :: l) n = (i :: (s.walk l (n + s.gain i)).1, (s.walk l (n + s.gain i)).2) := by
  rw [State.walk, if_neg (Nat.not_le.2 short), if_pos help]
  rfl

theorem State.walk_skip {s : State} {n : Nat} {i : LoopIx} (short : n < s.house.flowFloor) (help : s.canHelp i = false)
    (l : List LoopIx) : s.walk (i :: l) n = s.walk l n := by
  rw [State.walk, if_neg (Nat.not_le.2 short), if_neg (by simp [help])]

theorem State.walk_sublist (s : State) (l : List LoopIx) (n : Nat) : (s.walk l n).1.Sublist l := by
  induction l generalizing n with
  | nil => exact .refl _
  | cons i l ih =>
    rcases Nat.lt_or_ge n s.house.flowFloor with short | met
    · rcases help : s.canHelp i with _ | _
      · rw [State.walk_skip short help]
        exact (ih n).cons i
      · rw [State.walk_help short help]
        exact (ih _).cons_cons i
    · rw [State.walk_of_met met]
      exact List.nil_sublist _

theorem State.walk_total (s : State) (l : List LoopIx) (n : Nat) :
    (s.walk l n).2 = n + ((s.walk l n).1.map s.gain).sum := by
  induction l generalizing n with
  | nil => rfl
  | cons i l ih =>
    rcases Nat.lt_or_ge n s.house.flowFloor with short | met
    · rcases help : s.canHelp i with _ | _
      · rw [State.walk_skip short help, ih]
      · simp only [State.walk_help short help, ih (n + s.gain i), List.map_cons, List.sum_cons, Nat.add_assoc]
    · rw [State.walk_of_met met]
      rfl

/-- A member that can help is held exactly where the running total at it is below the flow floor (R121). -/
theorem State.mem_walk_iff {s : State} {before : List LoopIx} {i : LoopIx} {after : List LoopIx}
    (once : (before ++ i :: after).Nodup) (help : s.canHelp i = true) (n : Nat) :
    i ∈ (s.walk (before ++ i :: after) n).1 ↔
      n + ((before.filter s.canHelp).map s.gain).sum < s.house.flowFloor := by
  induction before generalizing n with
  | nil =>
    rcases Nat.lt_or_ge n s.house.flowFloor with short | met
    · simp [State.walk_help short help, short]
    · simp [State.walk_of_met met, met]
  | cons j before ih =>
    obtain ⟨fresh, once⟩ := List.nodup_cons.1 once
    have other : i ≠ j := fun e => fresh (by simp [e])
    rw [List.cons_append]
    rcases Nat.lt_or_ge n s.house.flowFloor with short | met
    · rcases helps : s.canHelp j with _ | _
      · rw [State.walk_skip short helps, ih once, List.filter_cons_of_neg (by simp [helps])]
      · simp [State.walk_help short helps, other, ih once, List.filter_cons_of_pos helps, Nat.add_assoc]
    · simp only [State.walk_of_met met, List.not_mem_nil, false_iff]
      omega

theorem State.floorWalk_of_heating {s : State} (season : s.house.season = .heating) :
    s.floorWalk = ((s.walk s.floorList s.strokeSum).1,
      decide ((s.walk s.floorList s.strokeSum).2 < s.house.flowFloor)) := by
  simp [State.floorWalk, season]

theorem State.floorWalk_of_standby {s : State} (season : s.house.season = .standby) : s.floorWalk = ([], false) :=
  if_pos season

/-- A sum over a list with some summands raised: the raises of those add up. -/
theorem sum_raised {ready held : List LoopIx} (once : ready.Nodup) (single : held.Nodup) (within : ∀ i ∈ held, i ∈ ready)
    {base top : LoopIx → Nat} (below : ∀ i ∈ held, base i ≤ top i) :
    (ready.map fun i => if held.contains i = true then top i else base i).sum =
      (ready.map base).sum + (held.map fun i => top i - base i).sum := by
  have raise : ∀ i ∈ ready.toFinset, (if held.contains i = true then top i else base i) =
      base i + if i ∈ held.toFinset then top i - base i else 0 := by
    intro i _
    by_cases mem : i ∈ held
    · have := below i mem
      simp only [List.contains_iff_mem, mem, List.mem_toFinset, if_true]
      omega
    · simp [mem]
  have inside : ready.toFinset ∩ held.toFinset = held.toFinset := by
    ext i
    simpa using within i
  rw [← List.sum_toFinset _ once, Finset.sum_congr rfl raise, Finset.sum_add_distrib, Finset.sum_ite_mem, inside,
    List.sum_toFinset _ once, List.sum_toFinset _ single]

/-- In HEATING the strokes of the READY loops add up to the total the walk ends with (R122). -/
theorem State.sum_strokes {s : State} (once : s.floorList.Nodup) (season : s.house.season = .heating) :
    ((allLoops.filter fun i => (s.loop i).life = .ready).map fun i => (s.recompute.loop i).commanded).sum =
      (s.walk s.floorList s.strokeSum).2 := by
  have helps : ∀ i ∈ (s.walk s.floorList s.strokeSum).1, (s.loop i).life = .ready ∧ s.baseStroke i < (s.loop i).ceiling :=
    fun i mem => by
      obtain ⟨ready, -, -, -, below⟩ := (s.canHelp_iff i).1 (s.walk_held _ _ i mem).1
      exact ⟨ready, below⟩
  rw [State.walk_total, State.strokeSum]
  simp only [State.stroke_recompute, State.newStroke, State.floorWalk_of_heating season]
  refine sum_raised (nodup_allLoops.filter _) (once.sublist (s.walk_sublist _ _)) (fun i mem => ?_)
    fun i mem => (helps i mem).2.le
  simp [allLoops, (helps i mem).1]

/-! ### The changed strokes handed to the Drive Queue (R84, R117) -/

/-- A loop's record once the Drive Queue has taken a changed commanded stroke of it, its move running or not (R84). -/
def Loop.strokeTaken (l : Loop) (moving : Bool) : Loop :=
  if l.want = none ∧ moving = true then l.setPending (some l.commanded)
  else if supersede l.want .position = .position then (l.setWant (some .position)).zeroCounter
  else l

theorem State.loop_takeStroke_self (s : State) (i : LoopIx) :
    (s.takeStroke i).loop i = (s.loop i).strokeTaken (s.movingLoop i) := by
  unfold State.takeStroke Loop.strokeTaken
  simp only [Bool.and_eq_true, Option.isNone_iff_eq_none]
  split_ifs with taken set
  · exact s.loop_setPending_self i _
  · exact s.loop_want_self i .position set
  · rw [State.want, if_neg set]

/-- A fold over the loops that changes at each only that loop's own record, by a function of it. -/
theorem State.loop_forEach_own {f : State → LoopIx → State} {g : LoopIx → Loop → Loop} {keeps : State → Prop}
    (own : ∀ t i, keeps t → (f t i).loop i = g i (t.loop i)) (others : ∀ t i j, j ≠ i → (f t i).loop j = t.loop j)
    (kept : ∀ t i, keeps t → keeps (f t i)) {s : State} (start : keeps s) {l : List LoopIx} (once : l.Nodup)
    (i : LoopIx) : (s.forEach l f).loop i = if i ∈ l then g i (s.loop i) else s.loop i := by
  induction l generalizing s with
  | nil => rfl
  | cons j l ih =>
    obtain ⟨fresh, once⟩ := List.nodup_cons.1 once
    have next := ih (kept s j start) once
    rw [State.forEach] at next ⊢
    rw [List.foldl_cons, next]
    by_cases e : i = j
    · subst e
      rw [if_neg fresh, if_pos List.mem_cons_self, own s i start]
    · simp [others s j i e, e]

theorem State.movingLoop_congr {s t : State} (h : t.drive.moving = s.drive.moving) (i : LoopIx) :
    t.movingLoop i = s.movingLoop i := by
  unfold State.movingLoop
  rw [h]

/-- A loop's record once the changed strokes have been handed on (R117). -/
theorem State.loop_handStrokes {t before : State} (after : State) (moving : t.drive.moving = before.drive.moving)
    (i : LoopIx) : (t.handStrokes before after).loop i =
      if (before.loop i).life = .ready ∧ (before.loop i).commanded ≠ (after.loop i).commanded then
        (t.loop i).strokeTaken (before.movingLoop i)
      else t.loop i := by
  unfold State.handStrokes
  refine (State.loop_forEach_own (keeps := fun u => u.drive.moving = before.drive.moving)
    (g := fun j l => if (before.loop j).life = .ready ∧ (before.loop j).commanded ≠ (after.loop j).commanded then
      l.strokeTaken (before.movingLoop j) else l) (fun u j moving => ?_) (fun u j k other => ?_) (fun u j moving => ?_)
    moving nodup_allLoops i).trans (if_pos (List.mem_finRange i))
  · split_ifs
    · rw [u.loop_takeStroke_self, State.movingLoop_congr moving]
    · rfl
  · split_ifs
    · exact u.loop_takeStroke_ne other
    · rfl
  · split_ifs
    · exact (u.quiet_takeStroke j).onlyDemand.moving.trans moving
    · exact moving

/-- A loop's record after a recompute (R117). -/
theorem State.loop_recompute_eq (s : State) (i : LoopIx) : s.recompute.loop i =
    if (s.loop i).life = .ready ∧ (s.loop i).commanded ≠ (s.evaluated.loop i).commanded then
      (s.evaluated.loop i).strokeTaken (s.movingLoop i)
    else s.evaluated.loop i := by
  have moving : s.evaluated.drive.moving = s.drive.moving := by simp [State.evaluated]
  rw [← State.loop_handStrokes s.evaluated moving]
  unfold State.recompute State.tellStrokes
  rw [State.loop_forEach (fun _ _ => State.loop_markLoopIf _ _ _ _ _), State.tellShort]
  split_ifs <;> rfl

theorem State.loop_evaluated (s : State) (i : LoopIx) :
    s.evaluated.loop i = (s.loop i).setStroke (s.newStroke s.floorWalk.1 i) (s.floorWalk.1.contains i) := by
  rw [State.evaluated, State.loop_setFloorShort, State.loop_mapLoops]

/-- A READY loop's record where its stroke has changed. -/
theorem State.loop_recompute_of_moved {s : State} {i : LoopIx} (ready : (s.loop i).life = .ready)
    (moved : (s.recompute.loop i).commanded ≠ (s.loop i).commanded) :
    s.recompute.loop i = (s.evaluated.loop i).strokeTaken (s.movingLoop i) := by
  rw [s.sameStrokes_recompute.stroke] at moved
  rw [s.loop_recompute_eq, if_pos ⟨ready, moved.symm⟩]

/-- A loop's record where no changed stroke of it is handed on. -/
theorem State.loop_recompute_of_unmoved {s : State} {i : LoopIx}
    (h : (s.loop i).life ≠ .ready ∨ (s.recompute.loop i).commanded = (s.loop i).commanded) :
    s.recompute.loop i = s.evaluated.loop i := by
  rw [s.sameStrokes_recompute.stroke] at h
  rw [s.loop_recompute_eq, if_neg]
  rintro ⟨ready, moved⟩
  rcases h with h | h
  · exact h ready
  · exact moved h.symm

/-- A want that is dropped leaves the one there is (R80). -/
theorem supersede_of_dropped {w : Option MoveKind} {k : MoveKind} (h : supersede w k ≠ k) : some (supersede w k) = w := by
  rcases w with _ | w
  · exact absurd rfl h
  · cases w <;> cases k <;> simp [supersede] at h ⊢

theorem Loop.strokeTaken_moving {l : Loop} (want : l.want = none) :
    l.strokeTaken true = l.setPending (some l.commanded) := if_pos ⟨want, rfl⟩

theorem Loop.strokeTaken_wants {l : Loop} {moving : Bool} (h : l.want ≠ none ∨ moving = false) :
    (l.strokeTaken moving).want = some (supersede l.want .position) ∧
      (l.strokeTaken moving).openCounter = (if supersede l.want .position = .position then 0 else l.openCounter) ∧
        (l.strokeTaken moving).pendingTarget = l.pendingTarget := by
  have idle : ¬(l.want = none ∧ moving = true) := by
    rintro ⟨want, moving⟩
    rcases h with h | h
    · exact h want
    · simp [moving] at h
  rw [Loop.strokeTaken, if_neg idle]
  split_ifs with set
  · exact ⟨congrArg some set.symm, rfl, rfl⟩
  · exact ⟨(supersede_of_dropped set).symm, rfl, rfl⟩

end Sys2Proof.Machine

open Sys2Proof Sys2Proof.Machine

/-- Settles O51, from the evaluation of the strokes, the walk and what the Drive Queue makes of a changed stroke. -/
theorem recomputeCommandsTheStrokes : Obligations.RecomputeCommandsTheStrokes := by
  intro s
  refine ⟨fun i => ⟨s.stroke_recompute_of_held i, State.baseStroke_of_unready, State.baseStroke_of_service,
    State.baseStroke_of_standby, State.baseStroke_of_campaign, fun ready owner season idle => ⟨fun r room => ?_,
      fun room => ?_⟩, fun held => ?_⟩, fun season before i after list once ready owner idle below => ?_,
    fun i => ⟨fun ready moved => ⟨fun want moving => ?_, fun h => ?_⟩, fun h => ?_⟩, fun season once => ?_,
    fun season => ⟨?_, fun i => ?_⟩⟩
  · rw [State.baseStroke_of_demand ready owner season idle, State.demandOf_room room]
  · rw [State.baseStroke_of_demand ready owner season idle, State.demandOf_none room, Nat.mul_zero, Nat.zero_div]
  · rw [s.held_recompute] at held
    obtain ⟨help, member⟩ := s.floorWalk_held held
    exact ⟨member, (s.canHelp_iff i).1 help⟩
  · have help := (s.canHelp_iff i).2 ⟨ready, owner, season, idle, below⟩
    have helpers : (fun j => decide ((s.loop j).life = .ready ∧ (s.loop j).owner = .auto ∧
        (s.campaign (manifoldOf j)).state = .idle ∧ s.baseStroke j < (s.loop j).ceiling)) = s.canHelp := by
      funext j
      rw [Bool.eq_iff_iff, s.canHelp_iff j]
      simp [season]
    rw [list] at once
    rw [s.held_recompute, State.floorWalk_of_heating season, list, List.contains_iff_mem, State.mem_walk_iff once help,
      helpers]
    rfl
  · rw [State.loop_recompute_of_moved ready moved, moving, Loop.strokeTaken_moving (by rw [s.loop_evaluated]; exact want)]
    rw [s.loop_evaluated]
    exact ⟨want, rfl, rfl⟩
  · have taken := Loop.strokeTaken_wants (l := s.evaluated.loop i) (moving := s.movingLoop i)
      (by rwa [s.loop_evaluated])
    rw [← State.loop_recompute_of_moved ready moved, s.loop_evaluated] at taken
    exact taken
  · rw [State.loop_recompute_of_unmoved h, s.loop_evaluated]
    exact ⟨rfl, rfl, rfl⟩
  · rw [s.short_recompute, State.sum_strokes once season, State.floorWalk_of_heating season, decide_eq_false_iff_not,
      Nat.not_lt]
  · rw [s.short_recompute, State.floorWalk_of_standby season]
  · rw [s.held_recompute, State.floorWalk_of_standby season]
    rfl
end

section
/-! PROOF. O32: a move's end as the Drive Queue takes it (R86, R87), the end DONE (R63), and the start of the entry at the head
of the queue (R83, R85). -/

namespace Sys2Proof.Machine

/-! ### The end of a move, as the Drive Queue takes it (R86, R87) -/

/-- A loop's record is as it was, or has its open counter at 0. -/
def Loop.Counted (l x : Loop) : Prop := x = l ∨ x = l.zeroCounter

theorem Loop.Counted.refl (l : Loop) : l.Counted l := .inl rfl

theorem Loop.Counted.trans {l x y : Loop} (h : l.Counted x) (g : x.Counted y) : l.Counted y := by
  rcases h with rfl | rfl
  · exact g
  · exact .inr (g.elim id id)

/-- What does not read or write the open counter. -/
theorem Loop.Counted.map {l x : Loop} (h : l.Counted x) {f : Loop → Loop}
    (apart : ∀ y : Loop, f y.zeroCounter = (f y).zeroCounter) : (f l).Counted (f x) := by
  rcases h with rfl | rfl
  · exact .refl _
  · exact .inr (apart l)

theorem State.Counted.loop {s t : State} (h : s.Counted t) (i : LoopIx) : (s.loop i).Counted (t.loop i) := h i

theorem Loop.setWant_of_dropped {l : Loop} {k : MoveKind} (h : supersede l.want k ≠ k) :
    l.setWant (some (supersede l.want k)) = l := by
  rw [supersede_of_dropped h]
  rfl

/-- A want set on a loop, its open counter aside (R80). -/
theorem State.loop_want_counted (s : State) (i : LoopIx) (k : MoveKind) :
    ((s.loop i).setWant (some (supersede (s.loop i).want k))).Counted ((s.want i k).loop i) := by
  by_cases set : supersede (s.loop i).want k = k
  · rw [s.loop_want_self i k set, set]
    exact .inr rfl
  · rw [State.want, if_neg set, Loop.setWant_of_dropped set]
    exact .refl _

/-- A loop's record once its next aim has been settled (R87). -/
def Loop.aimed (l : Loop) : Loop := ((l.setWant ((l.position.map l.wantAt).getD l.want)).setPending none)

theorem State.loop_wantAim (s : State) (i : LoopIx) :
    ((s.loop i).setWant (((s.loop i).position.map (s.loop i).wantAt).getD (s.loop i).want)).Counted
      ((s.wantAim i).loop i) := by
  unfold State.wantAim
  rcases s.loop i |>.position with _ | p
  · exact .refl _
  · simp only [Option.map_some, Option.getD_some, Loop.wantAt]
    split_ifs
    · exact s.loop_want_counted i .position
    · exact .refl _

theorem State.loop_aim (s : State) (i : LoopIx) : (s.loop i).aimed.Counted ((s.aim i).loop i) := by
  rw [State.aim, State.loop_modLoop_self]
  exact (s.loop_wantAim i).map (f := fun l => l.setPending none) fun _ => rfl

theorem State.loop_wantAim_ne (s : State) {i j : LoopIx} (h : j ≠ i) : (s.wantAim i).loop j = s.loop j := by
  unfold State.wantAim
  split
  · split_ifs
    · exact s.loop_want_ne h _
    · rfl
  · rfl

theorem State.loop_aim_ne (s : State) {i j : LoopIx} (h : j ≠ i) : (s.aim i).loop j = s.loop j := by
  rw [State.aim, State.loop_modLoop_ne _ h, s.loop_wantAim_ne h]

/-- The drive state a move's end leaves, and any drive state after a STOP (R86, R90, R91). -/
def DriveState.afterEnd (toHeld : Bool) (d : DriveState) : DriveState := if toHeld = true then .held else d.atEnd

theorem DriveState.afterEnd_not (d : DriveState) : d.afterEnd false = d.atEnd := rfl

theorem DriveState.afterEnd_stop (d : DriveState) : d.afterEnd true = .held := rfl

theorem State.putDriveState_self (s : State) : s.putDriveState s.drive.state = s := rfl

theorem State.mild_holdAtEnd (s : State) (toHeld : Bool) :
    (s.putDriveState (s.drive.state.afterEnd toHeld)).Mild (s.holdAtEnd toHeld) := by
  unfold State.holdAtEnd
  split_ifs with ends
  · have held : s.drive.state.afterEnd toHeld = .held := by
      rcases ends with e | e
      · rw [e]; rfl
      · rw [e]; cases toHeld <;> rfl
    rw [held]
    exact s.mild_setDriveState .held
  · have same : s.drive.state.afterEnd toHeld = s.drive.state := by
      rw [not_or] at ends
      obtain ⟨stays, running⟩ := ends
      rw [Bool.not_eq_true] at stays
      rw [stays, DriveState.afterEnd_not]
      cases e : s.drive.state
      · rfl
      · exact absurd e running
      · rfl
    rw [same]
    exact .refl _

theorem State.counted_holdAtEnd (s : State) (toHeld : Bool) : s.Counted (s.holdAtEnd toHeld) :=
  State.counted_ite (s.counted_setDriveState _) (.refl s)

theorem State.loop_stopRunning (s : State) (m : Move) (e : MoveEnd) (r : Option EndReason) (i : LoopIx) :
    (s.stopRunning m e r).loop i = s.loop i := rfl

theorem State.mild_markLoopIf (s : State) (c : Bool) (i : LoopIx) (b : Bool) : s.Mild (s.markLoopIf c i b) :=
  (s.quiet_markLoopIf c i b).mild

/-- A move's end taken by the Drive Queue is the move stopped, the drive state, and mild operations. -/
theorem State.mild_takeEnd (s : State) (m : Move) (e : MoveEnd) (r : Option EndReason) (toHeld : Bool) :
    ((s.stopRunning m e r).putDriveState (s.drive.state.afterEnd toHeld)).Mild (s.takeEnd m e r toHeld) := by
  unfold State.takeEnd
  refine .trans ?_ (State.mild_markLoopIf _ _ _ _)
  refine .trans ?_ (State.mild_examineOpening _ _)
  exact .trans ((s.stopRunning m e r).mild_holdAtEnd toHeld) (State.mild_aim _ _)

section
variable (s : State) (m : Move) (e : MoveEnd) (r : Option EndReason) (toHeld : Bool)

theorem State.moving_takeEnd : (s.takeEnd m e r toHeld).drive.moving = none := (s.mild_takeEnd m e r toHeld).moving

theorem State.dwell_takeEnd : (s.takeEnd m e r toHeld).drive.dwell = some (m.ended e r) :=
  (s.mild_takeEnd m e r toHeld).dwell

theorem State.driveState_takeEnd : (s.takeEnd m e r toHeld).drive.state = s.drive.state.afterEnd toHeld :=
  (s.mild_takeEnd m e r toHeld).state

theorem State.onlyDrive_takeEnd :
    State.OnlyDrive [] (s.putDriveState (s.drive.state.afterEnd toHeld)) (s.takeEnd m e r toHeld) := by
  have stopped : State.OnlyDrive [] s (s.stopRunning m e r) :=
    (s.onlyDrive_setMoving none).trans (State.onlyDrive_setDwell _ _)
  exact (stopped.putDriveState _).trans (s.mild_takeEnd m e r toHeld).onlyDrive

theorem State.loop_takeEnd_self : (s.loop m.loop).aimed.Counted ((s.takeEnd m e r toHeld).loop m.loop) := by
  unfold State.takeEnd
  rw [State.loop_markLoopIf]
  have held := ((s.stopRunning m e r).counted_holdAtEnd toHeld).loop m.loop
  rw [State.loop_stopRunning] at held
  exact ((held.map (f := Loop.aimed) fun _ => rfl).trans (State.loop_aim _ _)).trans
    ((State.counted_examineOpening _ _).loop _)

theorem State.loop_takeEnd_ne {j : LoopIx} (h : j ≠ m.loop) :
    (s.loop j).Counted ((s.takeEnd m e r toHeld).loop j) := by
  unfold State.takeEnd
  rw [State.loop_markLoopIf]
  refine .trans ?_ ((State.counted_examineOpening _ _).loop _)
  rw [State.loop_aim_ne _ h]
  exact ((s.stopRunning m e r).counted_holdAtEnd toHeld).loop j

end

/-- Two changes of the same loops, the first of which leaves the Floor List alone. -/
theorem State.OnlyDrive.then {but : List LoopIx} {s t u : State} (h : State.OnlyDrive but s t)
    (floor : t.floorList = s.floorList) (g : State.OnlyDrive but t u) : State.OnlyDrive but s u := by
  refine ⟨g.powered.trans h.powered, g.rooms.trans h.rooms, g.house.trans h.house, g.storage.trans h.storage,
    g.channels.trans h.channels, g.pending.trans h.pending, g.driveState.trans h.driveState,
    g.members.trans h.members, fun i member => g.floor i (floor ▸ member), fun i out => ?_⟩
  rcases h.loops i out with kept | ⟨retiring, vacant⟩ <;> rcases g.loops i out with kept' | ⟨retiring', vacant'⟩
  · exact .inl (kept.trans kept')
  · exact .inr ⟨kept.life ▸ retiring', vacant'⟩
  · exact .inr ⟨retiring, kept'.life.trans vacant⟩
  · exact .inr ⟨retiring, vacant'⟩

theorem State.takeRestartMark_of_unmarked {s : State} {i : LoopIx} (h : (s.loop i).restartMark = false) :
    s.takeRestartMark i = s := if_neg (by simp [h])

theorem Loop.Counted.restartMark {l x : Loop} (h : l.Counted x) : x.restartMark = l.restartMark := by
  rcases h with rfl | rfl <;> rfl

theorem Loop.Counted.life {l x : Loop} (h : l.Counted x) : x.life = l.life := by
  rcases h with rfl | rfl <;> rfl

@[simp] theorem State.loop_tellHead (t before : State) (i j : LoopIx) : (t.tellHead before i).loop j = t.loop j :=
  t.loop_markLoopIf _ i _ j

@[simp] theorem State.drive_tellHead (t before : State) (i : LoopIx) : (t.tellHead before i).drive = t.drive := by
  simp [State.tellHead]

/-- The state of a move's end DONE once the Head Ports have taken it (R63, R72). -/
def State.arrives (s : State) (m : Move) (stroke : Nat) (driven : Bool) : State :=
  ((s.stopRunning m .done none).modLoop m.loop fun l => l.arrived stroke driven).recount m.loop

theorem State.moveDone_eq (s : State) (m : Move) (stroke : Nat) (driven : Bool) : s.moveDone m stroke driven =
    ((((s.arrives m stroke driven).retireAtEnd m).takeRestartMark m.loop).takeEnd m .done none false).tellHead s
      m.loop := rfl

section
variable (s : State) (m : Move) (stroke : Nat) (driven : Bool)

theorem State.loop_arrives_self :
    ((s.loop m.loop).arrived stroke driven).Counted ((s.arrives m stroke driven).loop m.loop) := by
  have told := (State.counted_recount ((s.stopRunning m .done none).modLoop m.loop fun l => l.arrived stroke driven)
    m.loop).loop m.loop
  rwa [State.loop_modLoop_self] at told

theorem State.loop_arrives_ne {j : LoopIx} (h : j ≠ m.loop) :
    (s.arrives m stroke driven).loop j = s.loop j := by
  rw [State.arrives, State.loop_recount_ne _ h, State.loop_modLoop_ne _ h, State.loop_stopRunning]

theorem State.driveState_arrives : (s.arrives m stroke driven).drive.state = s.drive.state := by
  rw [State.arrives, State.drive_recount]
  rfl

theorem State.floorList_arrives : (s.arrives m stroke driven).floorList = s.floorList := by
  rw [State.arrives, (State.quiet_recount _ m.loop).onlyDemand.floorList]
  simp [State.stopRunning]

theorem State.onlyDrive_arrives : State.OnlyDrive [m.loop] s (s.arrives m stroke driven) := by
  have stopped : State.OnlyDrive [] s (s.stopRunning m .done none) :=
    (s.onlyDrive_setMoving none).trans (State.onlyDrive_setDwell _ _)
  refine .trans ?_ (State.quiet_recount _ m.loop).mild.onlyDrive
  exact (stopped.widen [m.loop]).then rfl (State.onlyDrive_setLoop _ _ _)

theorem State.moving_moveDone : (s.moveDone m stroke driven).drive.moving = none := by
  rw [State.moveDone_eq, State.drive_tellHead]
  exact State.moving_takeEnd _ _ _ _ _

theorem State.dwell_moveDone : (s.moveDone m stroke driven).drive.dwell = some (m.ended .done none) := by
  rw [State.moveDone_eq, State.drive_tellHead]
  exact State.dwell_takeEnd _ _ _ _ _

end

section
variable {s : State} {m : Move} (unmarked : (s.loop m.loop).restartMark = false) (stroke : Nat) (driven : Bool)
include unmarked

theorem State.moveDone_of_stays (stays : m.kind ≠ .park ∨ (s.loop m.loop).life ≠ .retiring) :
    s.moveDone m stroke driven = ((s.arrives m stroke driven).takeEnd m .done none false).tellHead s m.loop := by
  have arrived := s.loop_arrives_self m stroke driven
  have kept : (s.arrives m stroke driven).retireAtEnd m = s.arrives m stroke driven := by
    refine if_neg ?_
    rw [arrived.life]
    rintro ⟨retiring, park⟩
    exact stays.elim (fun h => h park) fun h => h retiring
  rw [State.moveDone_eq, kept, State.takeRestartMark_of_unmarked (arrived.restartMark.trans unmarked)]

theorem State.loop_moveDone (stays : m.kind ≠ .park ∨ (s.loop m.loop).life ≠ .retiring) :
    ((s.loop m.loop).arrived stroke driven).aimed.Counted ((s.moveDone m stroke driven).loop m.loop) := by
  rw [State.moveDone_of_stays unmarked stroke driven stays, State.loop_tellHead]
  exact ((s.loop_arrives_self m stroke driven).map (f := Loop.aimed) fun _ => rfl).trans
    (State.loop_takeEnd_self _ _ _ _ _)

theorem State.loop_moveDone_ne (stays : m.kind ≠ .park ∨ (s.loop m.loop).life ≠ .retiring) {j : LoopIx}
    (other : j ≠ m.loop) : (s.loop j).Counted ((s.moveDone m stroke driven).loop j) := by
  rw [State.moveDone_of_stays unmarked stroke driven stays, State.loop_tellHead]
  exact s.loop_arrives_ne m stroke driven other ▸ State.loop_takeEnd_ne _ _ _ _ _ other

omit unmarked in
theorem State.moveDone_of_retires (park : m.kind = .park) (retiring : (s.loop m.loop).life = .retiring) :
    s.moveDone m stroke driven =
      (((s.arrives m stroke driven).becomeVacant m.loop).takeEnd m .done none false).tellHead s m.loop := by
  have retires : (s.arrives m stroke driven).retireAtEnd m = (s.arrives m stroke driven).becomeVacant m.loop :=
    if_pos ⟨(s.loop_arrives_self m stroke driven).life.trans retiring, park⟩
  rw [State.moveDone_eq, retires, State.takeRestartMark_of_unmarked]
  rw [State.loop_becomeVacant]
  rfl

omit unmarked in
theorem Loop.Counted.vacated {l x : Loop} (h : l.Counted x) : x.vacated = l.vacated := by
  rcases h with rfl | rfl <;> rfl

omit unmarked in
theorem Loop.aimed_vacated (l : Loop) : l.vacated.aimed = l.vacated := by
  cases h : l.position <;> simp [Loop.aimed, Loop.vacated, Loop.vacant, Loop.wantAt, Loop.setWant, Loop.setPending, h]

omit unmarked in
/-- The record of a loop whose PARK has made it VACANT (R19). -/
theorem State.loop_moveDone_of_retires (park : m.kind = .park) (retiring : (s.loop m.loop).life = .retiring) :
    (s.moveDone m stroke driven).loop m.loop = ((s.loop m.loop).arrived stroke driven).vacated := by
  rw [State.moveDone_of_retires stroke driven park retiring, State.loop_tellHead]
  have taken := State.loop_takeEnd_self ((s.arrives m stroke driven).becomeVacant m.loop) m .done none false
  rw [State.loop_becomeVacant, (s.loop_arrives_self m stroke driven).vacated, Loop.aimed_vacated] at taken
  exact taken.elim id id

omit unmarked in
theorem State.not_mem_floorList_of_retires (park : m.kind = .park) (retiring : (s.loop m.loop).life = .retiring) :
    m.loop ∉ (s.moveDone m stroke driven).floorList := by
  have taken := (State.mild_takeEnd ((s.arrives m stroke driven).becomeVacant m.loop) m .done none false).trans
    (State.quiet_tellHead _ s m.loop).mild
  have floor : (s.moveDone m stroke driven).floorList = ((s.arrives m stroke driven).becomeVacant m.loop).floorList := by
    rw [State.moveDone_of_retires stroke driven park retiring]
    rw [taken.floorList]
    simp [State.stopRunning]
  rw [floor, (State.vacates_becomeVacant _ m.loop).floorList]
  simp

theorem State.onlyDrive_moveDone :
    State.OnlyDrive [m.loop] (s.putDriveState s.drive.state.atEnd) (s.moveDone m stroke driven) := by
  have told (t : State) : State.OnlyDrive [] t (t.tellHead s m.loop) := (t.quiet_tellHead s m.loop).mild.onlyDrive
  have start : State.OnlyDrive [m.loop] (s.putDriveState s.drive.state.atEnd)
      ((s.arrives m stroke driven).putDriveState s.drive.state.atEnd) :=
    (s.onlyDrive_arrives m stroke driven).putDriveState _
  by_cases stays : m.kind ≠ .park ∨ (s.loop m.loop).life ≠ .retiring
  · rw [State.moveDone_of_stays unmarked stroke driven stays]
    refine .trans ?_ (told _)
    have ended := (s.arrives m stroke driven).onlyDrive_takeEnd m .done none false
    rw [State.driveState_arrives] at ended
    exact start.trans ended
  · rw [not_or, not_not, not_not] at stays
    obtain ⟨park, retiring⟩ := stays
    rw [State.moveDone_of_retires stroke driven park retiring]
    refine .trans ?_ (told _)
    have vacates := (s.arrives m stroke driven).vacates_becomeVacant m.loop
    have ended := ((s.arrives m stroke driven).becomeVacant m.loop).onlyDrive_takeEnd m .done none false
    rw [vacates.state, State.driveState_arrives] at ended
    exact (start.then (s.floorList_arrives m stroke driven) (vacates.onlyDrive.putDriveState _)).trans ended

end

/-! ### The start of a move (R83, R63, R85) -/

theorem State.OnlyDemand.drive {s t : State} (h : s.OnlyDemand t) :
    t.drive = { s.drive with queue := t.drive.queue } := by
  show t.drive = ⟨s.drive.moving, t.drive.queue, s.drive.dwell, s.drive.state⟩
  rw [← h.moving, ← h.dwell, ← h.driveState]

/-- The state of a move's start but for what a leg with no step to drive brings (R83). -/
def State.begun (s : State) (m : Move) : State :=
  ((((s.setMoving (some m)).wantAtStart m).modLoop m.loop fun l => l.setPosition none).recount m.loop).fill

theorem State.beginMove_eq (s : State) (m : Move) : s.beginMove m = (s.begun m).reachAtOnce m := rfl

/-- A loop's record at the start of its move (R83, R77, R133). -/
def Loop.begun (l : Loop) (kind : MoveKind) : Loop :=
  ((l.setWant (if kind = .home then l.want else none)).setPosition none).zeroCounter

theorem State.drive_unwant (s : State) (i : LoopIx) : (s.unwant i).drive = s.drive := by
  simp [State.unwant, State.tellWork, State.endWant]

theorem State.drive_wantAtStart (s : State) (m : Move) : (s.wantAtStart m).drive = s.drive := by
  unfold State.wantAtStart
  split_ifs
  · rfl
  · exact s.drive_unwant m.loop

theorem State.loop_unwant_self (s : State) (i : LoopIx) : (s.unwant i).loop i = (s.loop i).setWant none := by
  rw [State.unwant, State.loop_tellWork, State.endWant, State.loop_modLoop_self]

theorem State.loop_wantAtStart_self (s : State) (m : Move) : (s.wantAtStart m).loop m.loop =
    (s.loop m.loop).setWant (if m.kind = .home then (s.loop m.loop).want else none) := by
  unfold State.wantAtStart
  split_ifs
  · rfl
  · exact s.loop_unwant_self m.loop

theorem State.loop_wantAtStart_ne (s : State) (m : Move) {j : LoopIx} (h : j ≠ m.loop) :
    (s.wantAtStart m).loop j = s.loop j := by
  unfold State.wantAtStart
  split_ifs
  · rfl
  · rw [State.unwant, State.loop_tellWork, State.endWant, State.loop_modLoop_ne _ h]

/-- The open counter of a loop whose move runs returns to 0 at a report (R133). -/
theorem State.counts_of_moving {s : State} {i : LoopIx} (h : s.movingLoop i = true) : s.counts i = false := by
  simp [State.counts, h]

/-- The state as the driver has taken the entry up, before the free place is filled. -/
def State.takenUp (s : State) (m : Move) : State :=
  (((s.setMoving (some m)).wantAtStart m).modLoop m.loop fun l => l.setPosition none).recount m.loop

theorem State.begun_eq (s : State) (m : Move) : s.begun m = (s.takenUp m).fill := rfl

section
variable (s : State) (m : Move)

theorem State.drive_takenUp : (s.takenUp m).drive = { s.drive with moving := some m } := by
  rw [State.takenUp, State.drive_recount, State.modLoop_drive, State.drive_wantAtStart]
  rfl

theorem State.loop_begun_self : (s.begun m).loop m.loop = (s.loop m.loop).begun m.kind := by
  have moves : ((((s.setMoving (some m)).wantAtStart m).modLoop m.loop fun l => l.setPosition none)).movingLoop m.loop =
      true := by
    unfold State.movingLoop
    rw [State.modLoop_drive, State.drive_wantAtStart]
    simp [State.setMoving]
  rw [State.begun, State.loop_fill, State.recount, if_neg (by simp [State.counts_of_moving moves]),
    State.loop_modLoop_self, State.loop_modLoop_self, State.loop_wantAtStart_self]
  rfl

theorem State.loop_begun_ne {j : LoopIx} (h : j ≠ m.loop) : (s.begun m).loop j = s.loop j := by
  rw [State.begun, State.loop_fill, State.loop_recount_ne _ h, State.loop_modLoop_ne _ h, State.loop_wantAtStart_ne _ _ h]
  rfl

theorem State.queue_begun : (s.begun m).drive.queue = s.drive.queue ++
    ((allLoops.filter (s.takenUp m).outstanding).take (16 - s.drive.queue.length)).filterMap
      (s.takenUp m).wantedEntry := by
  rw [State.begun_eq, State.queue_fill, State.drive_takenUp]

theorem State.drive_begun : (s.begun m).drive =
    { s.drive with moving := some m, queue := (s.begun m).drive.queue } := by
  rw [State.begun_eq, (State.quiet_fill (s.takenUp m)).onlyDemand.drive, State.drive_takenUp]

theorem State.legTo_begun (n : Move) (h : n.loop = m.loop) :
    (s.begun m).legTo n = stepOf ((s.loop m.loop).capacity.getD 0) n.aimedAt := by
  rw [State.legTo, h, s.loop_begun_self]
  rfl

theorem State.legFrom_begun (n : Move) (h : n.loop = m.loop) :
    (s.begun m).legFrom n = (s.loop m.loop).stepPos.getD 0 := by
  rw [State.legFrom, h, s.loop_begun_self]
  rfl

end

/-- The three outcomes of a start: the first leg is driven, the second leg of an EXERCISE is, or the move is DONE with
no step driven. -/
theorem State.beginMove_drives {s : State} {e : Entry} (drives : s.Drives e) :
    s.beginMove e.move = s.begun e.move := by
  rw [State.beginMove_eq, State.reachAtOnce, s.legTo_begun e.move e.move rfl, s.legFrom_begun e.move e.move rfl]
  refine if_neg ?_
  rintro ⟨moves, there⟩
  exact drives.elim moves fun step => step there

/-- The move of an EXERCISE's second leg, none of whose steps has been driven (R85). -/
def State.turnedMove (s : State) (e : Entry) : Move :=
  e.move.secondLeg (s.loop e.loop).commanded false

theorem State.legDone_of_single {s : State} {m : Move} (h : m.kind ≠ .exercise ∨ m.leg = .second) (stroke : Nat)
    (driven : Bool) : s.legDone m stroke driven = s.moveDone m stroke driven := by
  refine if_neg ?_
  rintro ⟨kind, leg⟩
  rcases h with h | h
  · exact h kind
  · rw [leg] at h
    exact Leg.noConfusion h

section
variable {s : State} {e : Entry} (still : ¬s.Drives e)
include still

theorem State.beginMove_still : s.beginMove e.move = (s.begun e.move).legDone e.move e.move.aimedAt false := by
  rw [State.beginMove_eq, State.reachAtOnce, s.legTo_begun e.move e.move rfl, s.legFrom_begun e.move e.move rfl]
  rw [State.Drives, not_or, not_not] at still
  exact if_pos still

omit still in
theorem State.commanded_begun (s : State) (m : Move) :
    ((s.begun m).loop m.loop).commanded = (s.loop m.loop).commanded := by
  rw [s.loop_begun_self]
  rfl

omit still in
/-- The second leg of an EXERCISE has no step to drive exactly where it returns at once (R85). -/
theorem State.returns_iff (s : State) {e : Entry} (kind : e.kind = .exercise) :
    (s.begun e.move).legTo (s.turnedMove e) = (s.begun e.move).legFrom (s.turnedMove e) ↔ s.ReturnsAtOnce e := by
  have aimed : (s.turnedMove e).aimedAt = (s.loop e.loop).commanded := by
    unfold Move.aimedAt State.turnedMove
    rw [show (e.move.secondLeg (s.loop e.loop).commanded false).kind = .exercise from kind]
    rfl
  rw [s.legTo_begun e.move (s.turnedMove e) rfl, s.legFrom_begun e.move (s.turnedMove e) rfl, aimed]
  rfl

theorem State.beginMove_exercise (kind : e.kind = .exercise) :
    s.beginMove e.move = (s.begun e.move).beginReturn e.move false := by
  rw [State.beginMove_still still]
  exact if_pos ⟨kind, rfl⟩

theorem State.beginMove_turns (kind : e.kind = .exercise) (turns : ¬s.ReturnsAtOnce e) :
    s.beginMove e.move = (s.begun e.move).setMoving (some (s.turnedMove e)) := by
  rw [State.beginMove_exercise still kind, State.beginReturn, s.commanded_begun]
  exact if_neg fun there => turns ((s.returns_iff kind).1 there)

theorem State.beginMove_returns (kind : e.kind = .exercise) (returns : s.ReturnsAtOnce e) :
    s.beginMove e.move = ((s.begun e.move).setMoving (some (s.turnedMove e))).moveDone (s.turnedMove e)
      (s.loop e.loop).commanded false := by
  rw [State.beginMove_exercise still kind, State.beginReturn, s.commanded_begun]
  exact if_pos ((s.returns_iff kind).2 returns)

theorem State.beginMove_done (kind : e.kind ≠ .exercise) :
    s.beginMove e.move = (s.begun e.move).moveDone e.move e.move.aimedAt false := by
  rw [State.beginMove_still still, State.legDone_of_single (.inl kind)]

end

/-! ### The entry at the head has become the running move -/

theorem State.drive_examineOpening (s : State) (m : Manifold) : (s.examineOpening m).drive = s.drive := by
  unfold State.examineOpening
  split_ifs
  · rw [State.markHouse_drive, State.drive_enterRounds]
  · rfl

/-- Entries of other loops stand where they stood once a want has been set. -/
theorem State.queue_want_trails {s : State} {i : LoopIx} {rest more : List Entry} (apart : ∀ x ∈ rest, x.loop ≠ i)
    (stands : s.drive.queue = rest ++ more) (k : MoveKind) : ∃ more', (s.want i k).drive.queue = rest ++ more' := by
  by_cases set : supersede (s.loop i).want k = k
  · have same : (rest.map fun e => if e.loop = i then s.entryFor i k else e) = rest := by
      rw [List.map_congr_left fun e mem => if_neg (apart e mem), List.map_id']
    rw [State.queue_want set, stands, List.map_append, same, List.append_assoc]
    exact ⟨_, rfl⟩
  · rw [State.want, if_neg set]
    exact ⟨more, stands⟩

theorem State.queue_aim_trails {s : State} {i : LoopIx} {rest more : List Entry} (apart : ∀ x ∈ rest, x.loop ≠ i)
    (stands : s.drive.queue = rest ++ more) : ∃ more', (s.aim i).drive.queue = rest ++ more' := by
  rw [State.aim, State.modLoop_drive]
  unfold State.wantAim
  split
  · split_ifs
    · exact State.queue_want_trails apart stands _
    · exact ⟨more, stands⟩
  · exact ⟨more, stands⟩

section
variable {s : State} {m : Move} (unmarked : (s.loop m.loop).restartMark = false)
  (running : s.drive.state = .running) (stays : m.kind ≠ .park ∨ (s.loop m.loop).life ≠ .retiring)
  (stroke : Nat) (driven : Bool)
include unmarked running stays

theorem State.queue_moveDone {rest more : List Entry} (apart : ∀ x ∈ rest, x.loop ≠ m.loop)
    (stands : s.drive.queue = rest ++ more) :
    ∃ more', (s.moveDone m stroke driven).drive.queue = rest ++ more' := by
  have runs : ((s.arrives m stroke driven).stopRunning m .done none).drive.state = .running :=
    (s.driveState_arrives m stroke driven).trans running
  have free : ((s.arrives m stroke driven).stopRunning m .done none).holdAtEnd false =
      (s.arrives m stroke driven).stopRunning m .done none := by
    refine if_neg ?_
    rw [runs]
    exact not_or.2 ⟨Bool.false_ne_true, DriveState.noConfusion⟩
  have queue : ((s.arrives m stroke driven).stopRunning m .done none).drive.queue = rest ++ more := by
    have arrived : (s.arrives m stroke driven).drive.queue = s.drive.queue := by
      rw [State.arrives, State.drive_recount, State.modLoop_drive]
      rfl
    exact arrived.trans stands
  rw [State.moveDone_of_stays unmarked stroke driven stays, State.drive_tellHead, State.takeEnd,
    State.markLoopIf_drive, State.drive_examineOpening, free]
  exact State.queue_aim_trails apart queue

end

theorem Loop.Counted.want {l x : Loop} (h : l.Counted x) : x.want = l.want := by
  rcases h with rfl | rfl <;> rfl

theorem Loop.Counted.position {l x : Loop} (h : l.Counted x) : x.position = l.position := by
  rcases h with rfl | rfl <;> rfl

theorem Loop.Counted.stallCount {l x : Loop} (h : l.Counted x) : x.stallCount = l.stallCount := by
  rcases h with rfl | rfl <;> rfl

theorem dwellOf_homed {kind : MoveKind} (h : kind ≠ .home) : dwellOf kind = 2 := by
  cases kind with
  | home => exact absurd rfl h
  | position => rfl
  | park => rfl
  | exercise => rfl

/-- The want after a start that is DONE at once (R77, R87). -/
theorem Loop.want_begun_aimed {l : Loop} {kind : MoveKind} {stroke : Nat} (moves : kind ≠ .home) :
    ((l.begun kind).arrived stroke false).aimed.want = (l.setWant none).wantAt stroke := by
  unfold Loop.begun
  rw [if_neg moves]
  rfl

theorem State.strokeOfEntry_exercise {s : State} {e : Entry} (kind : e.kind = .exercise) :
    s.strokeOfEntry e = (s.loop e.loop).commanded := if_pos kind

theorem State.strokeOfEntry_other {s : State} {e : Entry} (kind : e.kind ≠ .exercise) :
    s.strokeOfEntry e = e.move.aimedAt := if_neg kind

/-- An entry's move that is DONE with no step driven, however its legs got there. -/
theorem State.entryEnds_of_moveDone {s v : State} {e : Entry} {rest more : List Entry} {m : Move}
    (loop : m.loop = e.loop) (kind : m.kind = e.kind) (moves : e.kind ≠ .home) (free : s.Free)
    (state : v.drive.state = .running) (queue : v.drive.queue = rest ++ more)
    (begun : v.loop e.loop = (s.loop e.loop).begun e.kind)
    (stays : e.kind = .park → (s.loop e.loop).life ≠ .retiring) :
    s.EntryEnds e rest (v.moveDone m (s.strokeOfEntry e) false) := by
  have record : v.loop m.loop = (s.loop e.loop).begun e.kind := by rw [loop, begun]
  have unmarked : (v.loop m.loop).restartMark = false := by rw [record]; exact free.marks e.loop
  have remains : m.kind ≠ .park ∨ (v.loop m.loop).life ≠ .retiring := by
    rw [kind, record]
    exact or_iff_not_imp_left.2 fun park => stays (not_not.1 park)
  have done := State.loop_moveDone unmarked (s.strokeOfEntry e) false remains
  rw [loop, begun] at done
  refine ⟨State.moving_moveDone _ _ _ _, ?_, fun apart => ?_, ?_, ?_, ?_⟩
  · rw [State.dwell_moveDone, Move.ended, loop, kind, dwellOf_homed moves]
  · exact State.queue_moveDone unmarked state remains _ _ (loop ▸ apart) queue
  · rw [done.position]
    rfl
  · rw [done.stallCount]
    rfl
  · rw [done.want, Loop.want_begun_aimed moves]

/-- What EXERCISE, PARK and POSITION share at a move's start and end. -/
theorem State.entryRuns_of_begun {s v : State} {e : Entry} {rest : List Entry} {leg : Leg} {back : Option Nat}
    (moving : v.drive.moving = some ⟨e.loop, e.kind, e.target, leg, back, false⟩) (dwell : v.drive.dwell = none)
    (queue : ∃ more, v.drive.queue = rest ++ more) (begun : v.loop e.loop = (s.loop e.loop).begun e.kind) :
    s.EntryRuns e rest leg back v :=
  ⟨moving, dwell, queue, by rw [begun]; rfl, by rw [begun]; rfl⟩

/-- The entry of a free drive, started (R83, R63, R85, R19). -/
theorem State.entryStarts_beginMove {s : State} (free : s.Free) (rested : s.drive.dwell = none) (e : Entry) :
    s.EntryStarts e s.drive.queue (s.beginMove e.move) := by
  have moving : (s.begun e.move).drive.moving = some e.move := by rw [s.drive_begun]
  have dwell : (s.begun e.move).drive.dwell = none := by rw [s.drive_begun]; exact rested
  have state : (s.begun e.move).drive.state = .running := by rw [s.drive_begun]; exact free.state
  have queue := s.queue_begun e.move
  have begun := s.loop_begun_self e.move
  refine ⟨?_, fun drives => ?_, fun still kind turns => ?_, fun still returns stays => ?_, fun still park retiring => ?_⟩
  · refine ((s.begun e.move).steps_reachAtOnce e.move).counter e.loop ?_
    rw [show (s.begun e.move).loop e.loop = _ from begun]
    rfl
  · rw [State.beginMove_drives drives]
    exact State.entryRuns_of_begun moving dwell ⟨_, queue⟩ begun
  · rw [State.beginMove_turns still kind turns]
    generalize s.begun e.move = v at moving dwell state queue begun
    exact State.entryRuns_of_begun (v := v.setMoving (some (s.turnedMove e))) rfl dwell ⟨_, queue⟩ begun
  · have moves : e.kind ≠ .home := fun home => still (.inl home)
    by_cases kind : e.kind = .exercise
    · rw [State.beginMove_returns still kind (returns kind), ← State.strokeOfEntry_exercise kind]
      generalize s.begun e.move = v at moving dwell state queue begun
      exact State.entryEnds_of_moveDone (v := v.setMoving (some (s.turnedMove e))) (m := s.turnedMove e) rfl rfl moves
        free state queue begun stays
    · rw [State.beginMove_done still kind, ← State.strokeOfEntry_other kind]
      exact State.entryEnds_of_moveDone (m := e.move) rfl rfl moves free state queue begun stays
  · rw [State.beginMove_done still (by rw [park]; exact MoveKind.noConfusion)]
    have life : ((s.begun e.move).loop e.move.loop).life = .retiring := by rw [begun]; exact retiring
    refine ⟨State.moving_moveDone _ _ _ _, ?_, ?_⟩
    · rw [State.dwell_moveDone, Move.ended, show e.move.kind = .park from park]
      rfl
    · have vacant := State.loop_moveDone_of_retires e.move.aimedAt false (m := e.move) park life
      rw [show (State.loop _ e.loop) = _ from vacant]
      rfl

/-! ### The start, as an obligation speaks of it -/

theorem State.EntryRuns.of_records {s t u : State} {e : Entry} {rest : List Entry} {leg : Leg} {back : Option Nat}
    (h : s.EntryRuns e rest leg back t) (g : t.SameRecords u) : s.EntryRuns e rest leg back u := by
  obtain ⟨moving, dwell, queue, position, want⟩ := h
  rw [← g.drive] at moving dwell queue
  rw [← g.loop] at position want
  exact ⟨moving, dwell, queue, position, want⟩

theorem State.EntryEnds.of_records {s t u : State} {e : Entry} {rest : List Entry} (h : s.EntryEnds e rest t)
    (g : t.SameRecords u) : s.EntryEnds e rest u := by
  obtain ⟨moving, dwell, queue, position, stalls, want⟩ := h
  rw [← g.drive] at moving dwell queue
  rw [← g.loop] at position stalls want
  exact ⟨moving, dwell, queue, position, stalls, want⟩

theorem State.EntryStarts.of_records {s t u : State} {e : Entry} {rest : List Entry} (h : s.EntryStarts e rest t)
    (g : t.SameRecords u) : s.EntryStarts e rest u := by
  obtain ⟨counter, drives, turns, ends, retires⟩ := h
  rw [← g.loop] at counter
  rw [← g.drive, ← g.loop] at retires
  exact ⟨counter, fun d => (drives d).of_records g, fun d k r => (turns d k r).of_records g,
    fun d r k => (ends d r k).of_records g, retires⟩

section
variable {s u : State} {e : Entry} (same : (s.loop e.loop).Counted (u.loop e.loop))
include same

theorem State.drives_congr : u.Drives e ↔ s.Drives e := by
  unfold State.Drives
  rcases same with h | h <;> rw [h]
  rfl

theorem State.returnsAtOnce_congr : u.ReturnsAtOnce e ↔ s.ReturnsAtOnce e := by
  unfold State.ReturnsAtOnce
  rcases same with h | h <;> rw [h]
  rfl

theorem State.strokeOfEntry_congr : u.strokeOfEntry e = s.strokeOfEntry e := by
  unfold State.strokeOfEntry
  rcases same with h | h <;> rw [h]
  rfl

theorem State.EntryRuns.of_counted {rest : List Entry} {leg : Leg} {back : Option Nat} {t : State}
    (h : u.EntryRuns e rest leg back t) : s.EntryRuns e rest leg back t := by
  obtain ⟨moving, dwell, queue, position, want⟩ := h
  rw [same.want] at want
  exact ⟨moving, dwell, queue, position, want⟩

theorem State.EntryEnds.of_counted {rest : List Entry} {t : State} (h : u.EntryEnds e rest t) :
    s.EntryEnds e rest t := by
  obtain ⟨moving, dwell, queue, position, stalls, want⟩ := h
  have wants : ((u.loop e.loop).setWant none).wantAt (s.strokeOfEntry e) =
      ((s.loop e.loop).setWant none).wantAt (s.strokeOfEntry e) := by
    rcases same with h | h <;> rw [h]
    rfl
  rw [State.strokeOfEntry_congr same] at position want
  exact ⟨moving, dwell, queue, position, stalls, want.trans wants⟩

/-- What the start of an entry's move is said of, the open counter of its loop aside. -/
theorem State.EntryStarts.of_counted {rest : List Entry} {t : State} (h : u.EntryStarts e rest t) :
    s.EntryStarts e rest t := by
  have commanded : (u.loop e.loop).commanded = (s.loop e.loop).commanded := by
    rcases same with h | h <;> rw [h]
    rfl
  obtain ⟨counter, drives, turns, ends, retires⟩ := h
  rw [State.drives_congr same] at drives turns ends retires
  rw [State.returnsAtOnce_congr same, commanded] at turns
  rw [State.returnsAtOnce_congr same, same.life] at ends
  rw [same.life] at retires
  exact ⟨counter, fun d => (drives d).of_counted same, fun d k r => (turns d k r).of_counted same,
    fun d r k => (ends d r k).of_counted same, retires⟩

end

theorem State.serve_of_start {s : State} {e : Entry} {rest : List Entry} (start : s.canStart = true)
    (queue : s.drive.queue = e :: rest) : s.serve = (s.setQueue rest).beginMove e.move := by
  rw [State.serve, if_pos start, State.startMove, queue]

theorem State.entryStarts_serve {s : State} {e : Entry} {rest : List Entry} (marks : s.MarkLaw)
    (start : s.canStart = true) (queue : s.drive.queue = e :: rest) : s.EntryStarts e rest s.serve := by
  have free := marks.free start
  have rested : s.drive.dwell = none := ((s.canStart_iff).1 start).2.1
  rw [State.serve_of_start start queue]
  have started : (s.setQueue rest).EntryStarts e rest ((s.setQueue rest).beginMove e.move) :=
    State.entryStarts_beginMove (s := s.setQueue rest) ⟨free.state, free.marks⟩ rested e
  exact State.EntryStarts.of_counted (s := s) (u := s.setQueue rest) (.refl _) started

/-! ### The end of a dwell (R88) -/

theorem State.drive_dwellOver (s : State) : s.dwellOver.drive = { s.drive with dwell := none } :=
  State.drive_tellIdle _ _

/-- The end of a dwell changes the driver alone. -/
theorem State.onlyDrive_dwellOver (s : State) : State.OnlyDrive [] s s.dwellOver :=
  (s.onlyDrive_setDwell none).trans (State.quiet_tellIdle _ s).mild.onlyDrive

theorem State.link_dwellOver (s : State) : s.dwellOver.link = s.link := (State.quiet_tellIdle _ s).link

theorem State.marks_dwellOver {s : State} (marks : s.MarkLaw) : s.dwellOver.MarkLaw :=
  marks.of_marks (fun i => by rw [State.dwellOver, State.loop_tellIdle]; rfl) (by rw [State.drive_dwellOver])

theorem State.records_dwellOver (s : State) :
    s.dwellOver.loops = s.loops ∧ s.dwellOver.campaigns = s.campaigns ∧ s.dwellOver.timers = s.timers := by
  simp [State.dwellOver, State.tellIdle]

theorem State.counted_dwellOver (s : State) (i : LoopIx) : (s.loop i).Counted (s.dwellOver.loop i) :=
  .inl (State.loop_congr s.records_dwellOver.1 i)

/-- Where no move waits or may run, a dwell's end starts none. -/
theorem State.serve_dwellOver {s : State}
    (h : s.drive.moving ≠ none ∨ s.drive.state ≠ .running ∨ s.drive.queue = []) : s.dwellOver.serve = s.dwellOver := by
  refine if_neg fun start => ?_
  obtain ⟨moving, -, state, queue⟩ := (State.canStart_iff _).1 start
  rw [State.drive_dwellOver] at moving state queue
  rcases h with h | h | h
  · exact h moving
  · exact h state
  · exact queue h

theorem State.canStart_dwellOver {s : State} {e : Entry} {rest : List Entry} (moving : s.drive.moving = none)
    (state : s.drive.state = .running) (queue : s.drive.queue = e :: rest) : s.dwellOver.canStart = true := by
  refine (State.canStart_iff _).2 ?_
  rw [State.drive_dwellOver]
  exact ⟨moving, rfl, state, by simp [queue]⟩

theorem exec_moveStart_next {s : State} (p : s.powered = true) : exec .moveStart s = .next s.serve.tellWatches := by
  rw [exec_moveStart, execMoveStart, event_next p]

theorem exec_dwellExpiry_next {s : State} (p : s.powered = true) :
    exec .dwellExpiry s = .next s.dwellOver.serve.tellWatches := by
  rw [exec_dwellExpiry, execDwellExpiry, event_next p]

end Sys2Proof.Machine

open Sys2Proof Sys2Proof.Machine

/-- Settles O32, by the start of the entry at the head: its move runs, turns or is DONE. -/
theorem movesStartWhenTheDriverIsFree : Obligations.MovesStartWhenTheDriverIsFree := by
  refine ⟨fun s p quiet marks => ⟨fun stays => ?_, fun e rest start queue => ?_⟩, fun s p marks => ?_⟩
  · rw [exec_moveStart_next p, State.serve, if_neg (by simp [stays]), State.tellWatches_quiet quiet]
  · have told := s.serve.tellWatches_records
    exact ⟨_, exec_moveStart_next p, State.linkKept_told s.link_serve,
      (State.onlyDrive_serve marks).trans told.onlyDrive, (State.entryStarts_serve marks start queue).of_records told⟩
  · have told := s.dwellOver.serve.tellWatches_records
    have link : s.dwellOver.serve.link = s.link := s.dwellOver.link_serve.trans s.link_dwellOver
    refine ⟨_, exec_dwellExpiry_next p, State.linkKept_told link,
      (s.onlyDrive_dwellOver.trans (State.onlyDrive_serve (State.marks_dwellOver marks))).trans told.onlyDrive,
      fun stays => ?_, fun moving state e rest queue => ?_⟩
    · rw [State.serve_dwellOver stays] at told ⊢
      obtain ⟨loops, campaigns, timers⟩ := s.records_dwellOver
      exact ⟨told.drive.trans s.drive_dwellOver, told.loops.trans loops, told.campaigns.trans campaigns,
        told.timers.trans timers⟩
    · have waits : s.dwellOver.drive.queue = e :: rest := by rw [State.drive_dwellOver]; exact queue
      have started := State.entryStarts_serve (State.marks_dwellOver marks)
        (State.canStart_dwellOver moving state queue) waits
      exact (started.of_counted (s.counted_dwellOver e.loop)).of_records told
end

section
/-! PROOF. O45: midnight, and the exercise minute: the wants it sets one after another, and the start of the first of them (R72,
R166). -/

namespace Sys2Proof.Machine

/-! ### Midnight (R72) -/

theorem State.records_markLoopIf (s : State) (c : Bool) (i : LoopIx) (b : Bool) :
    s.SameRecords (s.markLoopIf c i b) := by
  unfold State.markLoopIf
  split_ifs
  · exact s.mark_records _ _ _
  · exact .refl s

theorem State.records_midnight (s : State) :
    ((s.setHouse { s.house with midnightDue := false }).mapLoops fun _ l =>
      { l with idleDays := if l.present = true then min 255 (l.idleDays + 1) else l.idleDays }).SameRecords s.midnight :=
  State.forEach_rel (R := State.SameRecords) .refl (fun _ _ _ => .trans)
    (fun t i => t.records_markLoopIf _ i _) allLoops _

/-! ### The exercise minute (R166) -/

/-- A loop's record once it wants a kind of move (R80, R133). -/
def Loop.wanted (l : Loop) (k : MoveKind) : Loop :=
  if supersede l.want k = k then (l.setWant (some k)).zeroCounter else l

theorem State.loop_want_eq (s : State) (i : LoopIx) (k : MoveKind) : (s.want i k).loop i = (s.loop i).wanted k := by
  unfold Loop.wanted
  split_ifs with set
  · exact s.loop_want_self i k set
  · rw [State.want, if_neg set]

theorem Loop.want_wanted (l : Loop) (k : MoveKind) : (l.wanted k).want = some (supersede l.want k) := by
  unfold Loop.wanted
  split_ifs with set
  · rw [set]
    rfl
  · exact (supersede_of_dropped set).symm

/-- The exercise wants of the loops a predicate chooses, along a list of loops (R166). -/
def State.exerciseAll (s : State) (chosen : LoopIx → Bool) (l : List LoopIx) : State :=
  s.forEach l fun t i => if chosen i = true then t.want i .exercise else t

theorem State.exercise_eq (s : State) :
    s.exercise = (s.setHouse s.house.exerciseTaken).exerciseAll (fun i => (s.loop i).chosen) allLoops := rfl

theorem State.quiet_exerciseAll (s : State) (chosen : LoopIx → Bool) (l : List LoopIx) :
    s.Quiet (s.exerciseAll chosen l) := by
  refine s.quiet_forEach l fun t i => ?_
  split_ifs
  · exact t.quiet_want i _
  · exact .refl t

theorem State.loop_exerciseAll (s : State) (chosen : LoopIx → Bool) (i : LoopIx) :
    (s.exerciseAll chosen allLoops).loop i = if chosen i = true then (s.loop i).wanted .exercise else s.loop i := by
  refine (State.loop_forEach_own (keeps := fun _ => True)
    (g := fun i l => if chosen i = true then l.wanted .exercise else l) (fun t j _ => ?_) (fun t j k other => ?_)
    (fun _ _ _ => trivial) trivial nodup_allLoops i).trans (if_pos (List.mem_finRange i))
  · split_ifs
    · exact t.loop_want_eq j _
    · rfl
  · split_ifs
    · exact t.loop_want_ne other _
    · rfl

/-- A waiting entry after a want is the one the want makes, or waited before. -/
theorem State.mem_queue_want {s : State} {i : LoopIx} {k : MoveKind} {e : Entry}
    (mem : e ∈ (s.want i k).drive.queue) : e ∈ s.drive.queue ∨ e = s.entryFor i k := by
  by_cases set : supersede (s.loop i).want k = k
  · rw [State.queue_want set, List.mem_append, List.mem_map] at mem
    rcases mem with ⟨x, mem, rfl⟩ | mem
    · by_cases self : x.loop = i
      · exact .inr (if_pos self)
      · exact .inl (by rwa [if_neg self])
    · exact .inr (List.mem_singleton.1 (List.mem_ite_nil_left.1 mem).2)
  · rw [State.want, if_neg set] at mem
    exact .inl mem

/-- Where no entry waited, every waiting entry is an EXERCISE. -/
theorem State.kind_exerciseAll {s : State} (empty : s.drive.queue = []) (chosen : LoopIx → Bool) (l : List LoopIx) :
    ∀ e ∈ (s.exerciseAll chosen l).drive.queue, e.kind = .exercise := by
  refine State.forEach_keeps (P := fun t => ∀ e ∈ t.drive.queue, e.kind = .exercise) (fun t i kinds => ?_) l s
    (by simp [empty])
  split_ifs
  · intro e mem
    rcases State.mem_queue_want mem with waits | rfl
    · exact kinds e waits
    · rfl
  · exact kinds

/-! ### The start of an exercise leaves the other wants -/

theorem State.EntryStarts.names {s t : State} {e : Entry} {rest : List Entry} (h : s.EntryStarts e rest t) :
    (∃ m, t.drive.moving = some m ∧ m.loop = e.loop) ∨ ∃ d, t.drive.dwell = some d ∧ d.loop = e.loop := by
  by_cases drives : s.Drives e
  · exact .inl ⟨_, (h.drives drives).moving, rfl⟩
  by_cases turns : e.kind = .exercise ∧ ¬s.ReturnsAtOnce e
  · exact .inl ⟨_, (h.turns drives turns.1 turns.2).moving, rfl⟩
  by_cases retires : e.kind = .park ∧ (s.loop e.loop).life = .retiring
  · exact .inr ⟨_, (h.retires drives retires.1 retires.2).2.1, rfl⟩
  · rw [not_and, not_not] at turns
    rw [not_and] at retires
    exact .inr ⟨_, (h.ends drives turns retires).dwell, rfl⟩

/-- The start of an EXERCISE leaves every other loop's record as it was, the open counter aside. -/
theorem State.loop_beginMove_ne {s : State} (free : s.Free) {e : Entry} (kind : e.kind = .exercise) {j : LoopIx}
    (other : j ≠ e.loop) : (s.loop j).Counted ((s.beginMove e.move).loop j) := by
  have begun := s.loop_begun_ne e.move other
  by_cases drives : s.Drives e
  · rw [State.beginMove_drives drives, begun]
    exact .refl _
  by_cases returns : s.ReturnsAtOnce e
  · have mark : ((s.begun e.move).loop e.loop).restartMark = false := by
      rw [show (s.begun e.move).loop e.loop = _ from s.loop_begun_self e.move]
      exact free.marks e.loop
    have parks : (s.turnedMove e).kind ≠ .park := by
      rw [show (s.turnedMove e).kind = .exercise from kind]
      exact MoveKind.noConfusion
    rw [State.beginMove_returns drives kind returns, ← begun]
    generalize s.begun e.move = v at mark
    exact State.loop_moveDone_ne (s := v.setMoving (some (s.turnedMove e))) (m := s.turnedMove e) mark _ _ (.inl parks)
      other
  · rw [State.beginMove_turns drives kind returns, State.loop_setMoving, begun]
    exact .refl _

/-! ### The exercise of a free drive -/

theorem Loop.Steady.capacity {l x : Loop} (h : l.Steady x) : x.capacity = l.capacity := by
  have field := congrArg Loop.capacity h
  exact field

theorem Loop.Steady.stepPos {l x : Loop} (h : l.Steady x) : x.stepPos = l.stepPos := by
  have field := congrArg Loop.stepPos h
  exact field

/-- The entry of an exercise. -/
def exerciseEntry (i : LoopIx) : Entry := ⟨i, .exercise, none⟩

/-- A drive on which no move runs, and whose wants and entries are the exercises of a list of loops, in its order. -/
structure State.Exercises (t : State) (done : List LoopIx) : Prop where
  moving : t.drive.moving = none
  want : ∀ j, (t.loop j).want = if j ∈ done then some .exercise else none
  queue : t.drive.queue = (done.take 16).map exerciseEntry

theorem State.queued_of_exercises {t : State} {l : List LoopIx} (queue : t.drive.queue = l.map exerciseEntry)
    (j : LoopIx) : t.queued j = true ↔ j ∈ l := by
  rw [State.queued, queue]
  rw [List.any_map, List.any_eq_true]
  exact ⟨fun ⟨x, mem, self⟩ => of_decide_eq_true self ▸ mem, fun mem => ⟨j, mem, decide_eq_true rfl⟩⟩

theorem State.Exercises.outstanding {t : State} {done : List LoopIx} (h : t.Exercises done) {j : LoopIx}
    (waits : t.outstanding j = true) : 16 < done.length := by
  obtain ⟨wants, unqueued, -⟩ := (t.outstanding_iff j).1 waits
  have mem : j ∈ done := by
    rw [h.want, ne_eq, ite_eq_right_iff, Classical.not_imp] at wants
    exact wants.1
  have out : j ∉ done.take 16 := fun taken =>
    (Bool.eq_false_iff.1 ((t.queued_eq_false j).2 unqueued)) ((State.queued_of_exercises h.queue j).2 taken)
  by_contra short
  exact out (by rwa [List.take_of_length_le (by omega)])

theorem State.Exercises.want_one {t : State} {done : List LoopIx} (h : t.Exercises done) {j : LoopIx} (fresh : j ∉ done) :
    (t.want j .exercise).Exercises (done ++ [j]) := by
  have none : (t.loop j).want = none := by rw [h.want, if_neg fresh]
  have set : supersede (t.loop j).want .exercise = .exercise := by rw [none]; rfl
  refine ⟨((t.quiet_want j .exercise).onlyDemand.moving).trans h.moving, fun i => ?_, ?_⟩
  · by_cases self : i = j
    · rw [self, t.loop_want_self j _ set]
      simp [Loop.setWant, Loop.zeroCounter]
    · rw [t.loop_want_ne self, h.want]
      simp [self]
  · have apart : ∀ e ∈ t.drive.queue, e.loop ≠ j := by
      rw [h.queue]
      simp only [List.mem_map]
      rintro e ⟨i, mem, rfl⟩ rfl
      exact fresh (List.mem_of_mem_take mem)
    have same : (t.drive.queue.map fun e => if e.loop = j then t.entryFor j .exercise else e) = t.drive.queue := by
      rw [List.map_congr_left fun e mem => if_neg (apart e mem), List.map_id']
    rw [State.queue_want set, same]
    by_cases full : 16 ≤ done.length
    · have length : 16 ≤ t.drive.queue.length := by simp [h.queue, full]
      rw [if_pos (.inr (.inr (.inl length))), List.append_nil, h.queue, List.take_append_of_le_length full]
    · rw [if_neg, h.queue, List.take_of_length_le (by omega), List.take_of_length_le (by simp; omega), List.map_append]
      · rfl
      · rintro (⟨e, mem, self⟩ | ⟨home, -⟩ | length | ⟨i, -, waits⟩)
        · exact apart e mem self
        · exact MoveKind.noConfusion home
        · rw [h.queue, List.length_map, List.length_take] at length
          omega
        · have := h.outstanding waits
          omega

theorem State.Exercises.all {chosen : LoopIx → Bool} {l : List LoopIx} {t : State} {done : List LoopIx}
    (h : t.Exercises done) (fresh : ∀ j ∈ l, j ∉ done) (once : l.Nodup) :
    (t.exerciseAll chosen l).Exercises (done ++ l.filter chosen) := by
  induction l generalizing t done with
  | nil => simpa [State.exerciseAll, State.forEach] using h
  | cons i l ih =>
    obtain ⟨new, once⟩ := List.nodup_cons.1 once
    have first := fresh i List.mem_cons_self
    rw [State.exerciseAll, State.forEach, List.foldl_cons]
    rcases pick : chosen i with _ | _
    · rw [if_neg (by simp), List.filter_cons_of_neg (by simp [pick])]
      exact ih h (fun j mem => fresh j (List.mem_cons_of_mem _ mem)) once
    · rw [if_pos rfl, List.filter_cons_of_pos pick, List.append_cons]
      refine ih (h.want_one first) (fun j mem => ?_) once
      rw [List.mem_append, List.mem_singleton, not_or]
      exact ⟨fresh j (List.mem_cons_of_mem _ mem), fun e => new (e ▸ mem)⟩

/-- The members of a sublist, picked out of the list. -/
theorem filter_mem_of_sublist {l r : List LoopIx} (sub : l.Sublist r) (once : r.Nodup) :
    r.filter (fun j => decide (j ∈ l)) = l := by
  induction sub with
  | slnil => rfl
  | cons a sub ih =>
    obtain ⟨new, once⟩ := List.nodup_cons.1 once
    rw [List.filter_cons_of_neg (by simpa using fun mem => new (sub.subset mem)), ih once]
  | @cons_cons l r a sub ih =>
    obtain ⟨new, once⟩ := List.nodup_cons.1 once
    rw [List.filter_cons_of_pos (by simp)]
    have rest : (r.filter fun j => decide (j ∈ a :: l)) = r.filter fun j => decide (j ∈ l) :=
      List.filter_congr fun j mem => by
        have : j ≠ a := fun e => new (e ▸ mem)
        simp [this]
    rw [rest, ih once]

section
variable {s : State} {i : LoopIx} {others : List LoopIx} (h : s.Exercises (i :: others))
  (listed : (i :: others).Sublist allLoops) (steps : stepOf ((s.loop i).capacity.getD 0) 1000 ≠ (s.loop i).stepPos.getD 0)
include h

theorem State.Exercises.waiting : s.drive.queue = exerciseEntry i :: (others.take 15).map exerciseEntry := by
  rw [h.queue, List.take_succ_cons, List.map_cons]

include listed

/-- Once the first exercise is taken up, the wants that wait are those behind the entries. -/
theorem State.Exercises.outstanding_takenUp (j : LoopIx) :
    ((s.setQueue ((others.take 15).map exerciseEntry)).takenUp (exerciseEntry i).move).outstanding j =
      decide (j ∈ others.drop 15) := by
  have once : (i :: others).Nodup := nodup_allLoops.sublist listed
  obtain ⟨fresh, once⟩ := List.nodup_cons.1 once
  have parts : j ∈ others ↔ j ∈ others.take 15 ∨ j ∈ others.drop 15 := by
    rw [← List.mem_append, List.take_append_drop]
  have apart : j ∈ others.take 15 → j ∉ others.drop 15 := fun a b => List.disjoint_take_drop once (le_refl 15) a b
  generalize up : s.setQueue ((others.take 15).map exerciseEntry) = u
  have loops : ∀ k, u.loop k = s.loop k := fun k => by rw [← up]; rfl
  have drive := u.drive_takenUp (exerciseEntry i).move
  have queue : (u.takenUp (exerciseEntry i).move).drive.queue = (others.take 15).map exerciseEntry := by
    rw [drive, ← up]
    rfl
  have want : ((u.takenUp (exerciseEntry i).move).loop j).want = if j ∈ others then some .exercise else none := by
    rw [← State.loop_fill, ← State.begun_eq]
    by_cases self : j = i
    · rw [self, show (u.begun _).loop i = _ from u.loop_begun_self (exerciseEntry i).move, if_neg fresh]
      rfl
    · rw [u.loop_begun_ne _ self, loops, h.want]
      simp [self]
  rw [Bool.eq_iff_iff, State.outstanding_iff, State.Outstanding, want, decide_eq_true_eq]
  have unqueued : (∀ e ∈ (u.takenUp (exerciseEntry i).move).drive.queue, e.loop ≠ j) ↔ j ∉ others.take 15 := by
    rw [← State.queued_eq_false, ← Bool.not_eq_true, State.queued_of_exercises queue]
  rw [unqueued]
  constructor
  · rintro ⟨wants, out, -⟩
    rw [ne_eq, ite_eq_right_iff, Classical.not_imp] at wants
    exact (parts.1 wants.1).resolve_left out
  · intro mem
    have wants := parts.2 (.inr mem)
    rw [if_pos wants]
    exact ⟨Option.some_ne_none _, fun taken => apart taken mem, fun home => MoveKind.noConfusion (Option.some.inj home.1)⟩

include steps

/-- The lowest of the exercises is driven, and the next 16 wait (R166, R78, R79, R83). -/
theorem State.Exercises.serve (free : s.Free) (rested : s.drive.dwell = none) :
    s.serve.drive = ⟨some ⟨i, .exercise, none, .first, none, false⟩, (others.take 16).map exerciseEntry, none, .running⟩ ∧
      (s.serve.loop i).want = none := by
  have start : s.canStart = true :=
    (State.canStart_iff s).2 ⟨h.moving, rested, free.state, by rw [h.waiting]; exact List.cons_ne_nil _ _⟩
  have out := h.outstanding_takenUp listed
  have serve := State.serve_of_start start h.waiting
  have drives : (s.setQueue ((others.take 15).map exerciseEntry)).Drives (exerciseEntry i) := .inr steps
  rw [State.beginMove_drives drives] at serve
  have wanted : ∀ j ∈ others.drop 15, ((s.setQueue ((others.take 15).map exerciseEntry)).takenUp
      (exerciseEntry i).move).wantedEntry j = some (exerciseEntry j) := fun j mem => by
    have fresh : j ≠ i := fun e => by
      subst e
      exact (List.nodup_cons.1 (nodup_allLoops.sublist listed)).1 (List.mem_of_mem_drop mem)
    have loop : ((s.setQueue ((others.take 15).map exerciseEntry)).takenUp (exerciseEntry i).move).loop j = s.loop j := by
      rw [← State.loop_fill, ← State.begun_eq, State.loop_begun_ne _ _ fresh]
      rfl
    rw [State.wantedEntry, loop, h.want, if_pos (List.mem_cons_of_mem _ (List.mem_of_mem_drop mem))]
    rfl
  have queue : ((s.setQueue ((others.take 15).map exerciseEntry)).begun (exerciseEntry i).move).drive.queue =
      (others.take 16).map exerciseEntry := by
    have tail : (others.drop 15).Sublist allLoops :=
      ((List.drop_sublist 15 others).trans (List.sublist_cons_self i others)).trans listed
    have room : (others.drop 15).take (16 - (others.take 15).length) = (others.drop 15).take 1 := by
      rw [List.length_take]
      rcases Nat.lt_or_ge 15 others.length with long | short
      · rw [Nat.min_eq_left (by omega)]
      · rw [List.drop_of_length_le short, List.take_nil, List.take_nil]
    rw [State.queue_begun, funext out, filter_mem_of_sublist tail nodup_allLoops]
    show (others.take 15).map exerciseEntry ++ List.filterMap _ ((others.drop 15).take
      (16 - ((others.take 15).map exerciseEntry).length)) = _
    rw [List.length_map, room, List.filterMap_congr fun j mem => wanted j (List.mem_of_mem_take mem)]
    change _ ++ List.filterMap (some ∘ exerciseEntry) _ = _
    rw [List.filterMap_eq_map, ← List.map_append, ← List.take_add]
  rw [serve]
  refine ⟨?_, ?_⟩
  · rw [State.drive_begun, queue]
    show (⟨_, _, s.drive.dwell, s.drive.state⟩ : Drive) = _
    rw [rested, free.state]
    rfl
  · rw [show (State.begun _ _).loop i = _ from State.loop_begun_self _ (exerciseEntry i).move]
    rfl

end

/-! ### The minute, taken -/

theorem State.quiet_exercise (s : State) : (s.setHouse s.house.exerciseTaken).Quiet s.exercise := by
  rw [State.exercise_eq]
  exact State.quiet_exerciseAll _ _ _

theorem State.want_exercise (s : State) (i : LoopIx) : (s.exercise.loop i).want =
    if (s.loop i).chosen = true then some (supersede (s.loop i).want .exercise) else (s.loop i).want := by
  rw [State.exercise_eq, State.loop_exerciseAll]
  by_cases chosen : (s.loop i).chosen = true
  · rw [if_pos chosen, if_pos chosen, Loop.want_wanted]
    rfl
  · rw [if_neg chosen, if_neg chosen]
    rfl

theorem State.markLaw_exercise {s : State} (marks : s.MarkLaw) : s.exercise.MarkLaw :=
  s.quiet_exercise.markLaw (marks.of_marks (fun _ => rfl) rfl)

/-- The start of the next move after the exercise minute leaves the want of every loop it does not name (R166, R83). -/
theorem State.want_serve_exercise {s : State} (marks : s.MarkLaw) {i : LoopIx}
    (h : s.DriverBusy ∨ s.StartLaw ∧ (∀ m, s.exercise.serve.drive.moving = some m → m.loop ≠ i) ∧
      ∀ d, s.exercise.serve.drive.dwell = some d → d.loop ≠ i) :
    (s.exercise.serve.loop i).want = (s.exercise.loop i).want := by
  by_cases start : s.exercise.canStart = true
  · rcases h with busy | ⟨law, moving, dwell⟩
    · have busy : s.exercise.DriverBusy := s.quiet_exercise.busy busy
      rw [busy.serve]
    · obtain ⟨still, rested, running, waits⟩ := (State.canStart_iff _).1 start
      have demand := s.quiet_exercise.onlyDemand
      have empty : s.drive.queue = [] := by
        by_contra some
        have starts : s.canStart = true := (State.canStart_iff s).2
          ⟨demand.moving.symm.trans still, demand.dwell.symm.trans rested, demand.driveState.symm.trans running, some⟩
        exact Bool.false_ne_true (Eq.trans (Eq.symm law) starts)
      obtain ⟨e, rest, queue⟩ := List.exists_cons_of_ne_nil waits
      have free := (State.markLaw_exercise marks).free start
      have kind : e.kind = .exercise := by
        have kinds := State.kind_exerciseAll (s := s.setHouse s.house.exerciseTaken) empty (fun i => (s.loop i).chosen)
          allLoops
        rw [← State.exercise_eq, queue] at kinds
        exact kinds e List.mem_cons_self
      have other : i ≠ e.loop := by
        rcases (State.entryStarts_serve (State.markLaw_exercise marks) start queue).names with ⟨m, runs, loop⟩ | ⟨d, ends, loop⟩
        · exact fun self => moving m runs (loop.trans self.symm)
        · exact fun self => dwell d ends (loop.trans self.symm)
      rw [State.serve_of_start start queue]
      have kept := State.loop_beginMove_ne (s := s.exercise.setQueue rest) ⟨free.state, free.marks⟩ kind other
      exact kept.want
  · rw [State.serve, if_neg start]

theorem exec_midnight_next {s : State} (p : s.powered = true) (due : s.house.midnightDue = true) :
    exec .midnight s = .next s.midnight.tellWatches := by
  rw [exec_midnight, execMidnight, event_next p, if_pos due]

theorem exec_exerciseMinute_next {s : State} (p : s.powered = true) (due : s.house.exerciseDue = true)
    (past : s.house.midnightDue = false) : exec .exerciseMinute s = .next s.exercise.serve.tellWatches := by
  rw [exec_exerciseMinute, execExerciseMinute, event_next p, if_pos (by simp [due, past])]

theorem State.link_midnight (s : State) : s.midnight.link = s.link := by
  unfold State.midnight
  exact State.forEach_keeps (P := fun t => t.link = s.link) (fun t i kept => (t.quiet_markLoopIf _ i _).link.trans kept)
    allLoops _ (by simp)

theorem State.link_serve_exercise (s : State) : s.exercise.serve.link = s.link :=
  s.exercise.link_serve.trans s.quiet_exercise.link

end Sys2Proof.Machine

open Sys2Proof Sys2Proof.Machine

/-- Settles O45, by the wants that the exercise minute sets one after another, and the start of the first of them. -/
theorem midnightAndTheExerciseMinute : Obligations.MidnightAndTheExerciseMinute := by
  refine ⟨fun s p quiet => ⟨fun idle => ?_, fun due => ?_⟩, fun s p quiet marks => ⟨fun idle => ?_, fun due past => ?_⟩⟩
  · rw [exec_midnight, execMidnight, event_next p, if_neg (by simp [idle]), State.tellWatches_quiet quiet]
  · exact ⟨_, exec_midnight_next p due, State.linkKept_told s.link_midnight,
      s.records_midnight.trans (State.tellWatches_records _)⟩
  · have rests : ¬(s.house.exerciseDue && !s.house.midnightDue) = true := by
      rcases idle with h | h <;> simp [h]
    rw [exec_exerciseMinute, execExerciseMinute, event_next p, if_neg rests, State.tellWatches_quiet quiet]
  · have told := s.exercise.serve.tellWatches_records
    refine ⟨_, exec_exerciseMinute_next p due past, State.linkKept_told s.link_serve_exercise,
      (s.quiet_exercise.follows (marks.of_marks (fun _ => rfl) rfl)).before told, fun i h => ?_,
      fun moving dwell state empty unwanted i others due steps => ?_⟩
    · rw [told.drive] at h
      rw [told.loop, State.want_serve_exercise marks h, s.want_exercise]
      simp only [← Loop.chosen_iff]
      exact ⟨fun chosen => if_pos chosen, fun chosen => if_neg chosen⟩
    · have begin : (s.setHouse s.house.exerciseTaken).Exercises [] :=
        ⟨moving, fun j => unwanted j, empty⟩
      have all := begin.all (chosen := fun j => (s.loop j).chosen) (l := allLoops) (fun _ _ => List.not_mem_nil)
        nodup_allLoops
      have chosen : allLoops.filter (fun j => (s.loop j).chosen) = i :: others := by
        rw [← due]
        refine List.filter_congr fun j _ => ?_
        rw [Bool.eq_iff_iff, Loop.chosen_iff, decide_eq_true_eq]
        rfl
      rw [List.nil_append, chosen, ← State.exercise_eq] at all
      have demand := s.quiet_exercise.onlyDemand
      have ready : s.exercise.Free := ⟨demand.driveState.trans state, fun j => by
        rw [(demand.loops j).restartMark]
        refine Bool.eq_false_iff.2 fun marked => ?_
        have moves := marks j marked
        rw [State.movingLoop, moving] at moves
        exact Bool.false_ne_true moves⟩
      have listed : (i :: others).Sublist allLoops := chosen ▸ List.filter_sublist
      have drives : stepOf ((s.exercise.loop i).capacity.getD 0) 1000 ≠ (s.exercise.loop i).stepPos.getD 0 := by
        rw [(demand.loops i).capacity, (demand.loops i).stepPos]
        exact steps
      obtain ⟨drive, want⟩ := all.serve listed drives ready (demand.dwell.trans dwell)
      exact ⟨told.drive.trans drive, by rw [told.loop]; exact want⟩
end

section
/-! PROOF. O37: a leg of a move over (R63, R72, R85). -/

namespace Sys2Proof.Machine

/-! ### Events of the running move -/

/-- An event that finds a move running (R58). -/
theorem onMove_next {s : State} {m : Move} (p : s.powered = true) (moving : s.drive.moving = some m)
    (f : State → Move → State) : onMove s f = .next (f s m).tellWatches := by
  rw [onMove, event_next p, moving]

/-! ### A leg over (R63, R72) -/

/-- A loop's record where a move of it has ended DONE at a step and a stroke, from the record before (R63, R72, R87). -/
structure Loop.LegEnded (l : Loop) (step stroke : Nat) (driven : Bool) (x : Loop) : Prop where
  stepPos : x.stepPos = some step
  position : x.position = some stroke
  stallCount : x.stallCount = 0
  pendingTarget : x.pendingTarget = none
  config : l.SameConfig x
  life : x.life = l.life
  homed : x.homed = l.homed
  faults : x.faults = l.faults
  commanded : x.commanded = l.commanded
  want : x.want = l.wantAt stroke
  idleDays : x.idleDays = if driven = true then 0 else l.idleDays

theorem Loop.want_ended (l : Loop) (step stroke : Nat) (driven : Bool) :
    ((l.setStep step).arrived stroke driven).aimed.want = l.wantAt stroke := by
  simp only [Loop.aimed, Loop.arrived, Loop.setStep, Loop.setPending, Loop.setWant, Option.map_some, Option.getD_some,
    Loop.wantAt]

theorem Loop.legEnded_aimed (l : Loop) (step stroke : Nat) (driven : Bool) :
    l.LegEnded step stroke driven ((l.setStep step).arrived stroke driven).aimed := by
  constructor
  case config => constructor <;> rfl
  case want => exact l.want_ended step stroke driven
  all_goals rfl

theorem Loop.LegEnded.counted {l x y : Loop} {step stroke : Nat} {driven : Bool} (h : l.LegEnded step stroke driven x)
    (same : x.Counted y) : l.LegEnded step stroke driven y := by
  rcases same with rfl | rfl
  · exact h
  · obtain ⟨stepPos, position, stalls, pending, config, life, homed, faults, commanded, want, idle⟩ := h
    obtain ⟨room, length, covering, owner, override, ceiling⟩ := config
    exact ⟨stepPos, position, stalls, pending, ⟨room, length, covering, owner, override, ceiling⟩, life, homed, faults,
      commanded, want, idle⟩

/-- A leg has been reached at a step and a stroke, and the move, of a kind other than HOME, has ended DONE there. -/
structure State.LegEnds (s : State) (m : Move) (step stroke : Nat) (driven : Bool) (t : State) : Prop where
  onlyDrive : State.OnlyDrive [m.loop] (s.putDriveState s.drive.state.atEnd) t
  moving : t.drive.moving = none
  dwell : t.drive.dwell = some ⟨m.loop, m.kind, .done, none, 2⟩
  loop : (s.loop m.loop).LegEnded step stroke driven (t.loop m.loop)

/-- The same of a RETIRING loop's PARK, which has made the loop VACANT (R19). -/
structure State.LegRetires (s : State) (m : Move) (step stroke : Nat) (t : State) : Prop where
  onlyDrive : State.OnlyDrive [m.loop] (s.putDriveState s.drive.state.atEnd) t
  moving : t.drive.moving = none
  dwell : t.drive.dwell = some ⟨m.loop, .park, .done, none, 2⟩
  life : (t.loop m.loop).life = .vacant
  stepPos : (t.loop m.loop).stepPos = some step
  position : (t.loop m.loop).position = some stroke
  room : (t.loop m.loop).room = none
  ceiling : (t.loop m.loop).ceiling = 1000
  floor : m.loop ∉ t.floorList
  mark : (t.loop m.loop).restartMark = false
  want : (t.loop m.loop).want = none

section
variable {s : State} {m : Move} (step stroke : Nat) (driven : Bool)

theorem State.loop_atStep (s : State) (m : Move) (step : Nat) :
    (s.atStep m step).loop m.loop = (s.loop m.loop).setStep step := by
  rw [State.atStep, State.loop_modLoop_self]

theorem State.onlyDrive_atStep (s : State) (m : Move) (step : Nat) :
    State.OnlyDrive [m.loop] s (s.atStep m step) := s.onlyDrive_setLoop _ _

theorem State.onlyDrive_done (unmarked : (s.loop m.loop).restartMark = false) :
    State.OnlyDrive [m.loop] (s.putDriveState s.drive.state.atEnd) ((s.atStep m step).moveDone m stroke driven) := by
  have mark : ((s.atStep m step).loop m.loop).restartMark = false := by rw [s.loop_atStep]; exact unmarked
  exact ((s.onlyDrive_atStep m step).putDriveState _).then (by simp [State.atStep])
    (State.onlyDrive_moveDone mark stroke driven)

theorem State.legEnds (moves : m.kind ≠ .home) (unmarked : (s.loop m.loop).restartMark = false)
    (stays : m.kind ≠ .park ∨ (s.loop m.loop).life ≠ .retiring) :
    s.LegEnds m step stroke driven ((s.atStep m step).moveDone m stroke driven) := by
  have atStep := s.loop_atStep m step
  have done := State.loop_moveDone (s := s.atStep m step) (by rw [atStep]; exact unmarked) stroke driven
    (by rw [atStep]; exact stays)
  rw [atStep] at done
  refine ⟨State.onlyDrive_done step stroke driven unmarked, State.moving_moveDone _ _ _ _, ?_, (Loop.legEnded_aimed _ _ _ _).counted done⟩
  rw [State.dwell_moveDone, Move.ended, dwellOf_homed moves]

theorem State.legRetires (park : m.kind = .park) (retiring : (s.loop m.loop).life = .retiring)
    (unmarked : (s.loop m.loop).restartMark = false) :
    s.LegRetires m step stroke ((s.atStep m step).moveDone m stroke driven) := by
  have atStep := s.loop_atStep m step
  have life : ((s.atStep m step).loop m.loop).life = .retiring := by rw [atStep]; exact retiring
  have loop := State.loop_moveDone_of_retires stroke driven park life
  rw [atStep] at loop
  refine ⟨State.onlyDrive_done step stroke driven unmarked, State.moving_moveDone _ _ _ _, ?_, ?_, ?_, ?_, ?_, ?_,
    State.not_mem_floorList_of_retires stroke driven park life, ?_, ?_⟩
  · rw [State.dwell_moveDone, Move.ended, park]
    rfl
  all_goals
    rw [loop]
    rfl

end

theorem State.link_atStep_moveDone (s : State) (m : Move) (step stroke : Nat) (driven : Bool) :
    ((s.atStep m step).moveDone m stroke driven).link = s.link :=
  ((s.steps_atStep m step).trans (State.steps_moveDone _ m stroke driven)).calm.link

theorem Loop.LegEnded.of_eq {l x y : Loop} {step stroke : Nat} {driven : Bool} (h : l.LegEnded step stroke driven x)
    (e : y = x) : l.LegEnded step stroke driven y := e ▸ h

theorem State.LegEnds.of_records {s t u : State} {m : Move} {step stroke : Nat} {driven : Bool}
    (h : s.LegEnds m step stroke driven t) (g : t.SameRecords u) : s.LegEnds m step stroke driven u :=
  ⟨h.onlyDrive.trans g.onlyDrive, g.drive ▸ h.moving, g.drive ▸ h.dwell, h.loop.of_eq (g.loop _)⟩

theorem State.LegRetires.of_records {s t u : State} {m : Move} {step stroke : Nat}
    (h : s.LegRetires m step stroke t) (g : t.SameRecords u) : s.LegRetires m step stroke u := by
  obtain ⟨onlyDrive, moving, dwell, life, stepPos, position, room, ceiling, floor, mark, want⟩ := h
  rw [← g.drive] at moving dwell
  rw [← g.loop] at life stepPos position room ceiling mark want
  rw [← g.floorList] at floor
  exact ⟨onlyDrive.trans g.onlyDrive, moving, dwell, life, stepPos, position, room, ceiling, floor, mark, want⟩

/-! ### The target of a leg reached -/

section
variable {s : State} {m : Move}

theorem exec_legReached_next (p : s.powered = true) (moving : s.drive.moving = some m) :
    exec .legReached s = .next (s.legReached m).tellWatches := by
  rw [exec_legReached, execLegReached, onMove_next p moving]

theorem State.legReached_done (moves : m.kind ≠ .home) (single : m.kind ≠ .exercise ∨ m.leg = .second) :
    s.legReached m = (s.atStep m (s.legTo m)).moveDone m m.aimedAt (m.driven || decide (s.legTo m ≠ s.legFrom m)) := by
  rw [State.legReached, if_neg moves, State.legDone_of_single single]

/-- The second leg of an EXERCISE, driven back to the commanded stroke of the moment (R85). -/
theorem State.legDone_turns (kind : m.kind = .exercise) (leg : m.leg = .first) {step : Nat} {cap : Nat}
    (capacity : (s.loop m.loop).capacity = some cap) (away : stepOf cap (s.loop m.loop).commanded ≠ step)
    (stroke : Nat) (driven : Bool) : (s.atStep m step).legDone m stroke driven =
      (s.atStep m step).setMoving (some (m.secondLeg (s.loop m.loop).commanded driven)) := by
  have atStep := s.loop_atStep m step
  have aimed : (m.secondLeg (s.loop m.loop).commanded driven).aimedAt = (s.loop m.loop).commanded := by
    unfold Move.aimedAt
    rw [show (m.secondLeg (s.loop m.loop).commanded driven).kind = .exercise from kind]
    rfl
  have same : (m.secondLeg (s.loop m.loop).commanded driven).loop = m.loop := rfl
  have goal : (s.atStep m step).legTo (m.secondLeg (s.loop m.loop).commanded driven) =
      stepOf cap (s.loop m.loop).commanded := by
    rw [State.legTo, aimed, same, atStep, show ((s.loop m.loop).setStep step).capacity = some cap from capacity]
    rfl
  have here : (s.atStep m step).legFrom (m.secondLeg (s.loop m.loop).commanded driven) = step := by
    rw [State.legFrom, same, atStep]
    rfl
  rw [State.legDone, if_pos ⟨kind, leg⟩, State.beginReturn,
    show ((s.atStep m step).loop m.loop).commanded = (s.loop m.loop).commanded by rw [atStep]; rfl]
  exact if_neg (by rw [goal, here]; exact away)

theorem State.onlyDrive_turns (step : Nat) (n : Move) :
    State.OnlyDrive [m.loop] s ((s.atStep m step).setMoving (some n)) :=
  (s.onlyDrive_atStep m step).trans (State.onlyDrive_setMoving _ _)

theorem State.link_turns (step : Nat) (n : Move) : ((s.atStep m step).setMoving (some n)).link = s.link := by
  simp [State.atStep]

theorem State.drive_turns (step : Nat) (n : Move) :
    ((s.atStep m step).setMoving (some n)).drive = { s.drive with moving := some n } := by
  simp [State.atStep, State.setMoving]

theorem State.loop_turns (step : Nat) (n : Move) :
    ((s.atStep m step).setMoving (some n)).loop m.loop = (s.loop m.loop).setStep step := by
  rw [State.loop_setMoving, s.loop_atStep]

theorem Move.aimedAt_exercise (kind : m.kind = .exercise) (leg : m.leg = .first) : m.aimedAt = 1000 := by
  rw [Move.aimedAt, kind]
  exact if_pos leg

theorem Move.aimedAt_park (kind : m.kind = .park) : m.aimedAt = 0 := by
  rw [Move.aimedAt, kind]

end

end Sys2Proof.Machine

open Sys2Proof Sys2Proof.Machine

/-- Settles O37, by the leg's end: DONE at the stroke it aimed at, or the second leg of an EXERCISE. -/
theorem reachedLegsEndOrTurnTheMove : Obligations.ReachedLegsEndOrTurnTheMove := by
  refine ⟨fun s m p moving moves single unmarked => ⟨fun stays => ?_, fun park retiring => ?_⟩,
    fun s m cap p moving kind leg capacity away => ?_⟩
  · have ends := State.legEnds (s.legTo m) m.aimedAt (m.driven || decide (s.legTo m ≠ s.legFrom m)) moves unmarked stays
    rw [← State.legReached_done moves single] at ends
    have link : (s.legReached m).link = s.link := by
      rw [State.legReached_done moves single]
      exact s.link_atStep_moveDone _ _ _ _
    obtain ⟨onlyDrive, still, dwell, loop⟩ := ends.of_records (State.tellWatches_records _)
    refine ⟨_, exec_legReached_next p moving, State.linkKept_told link, onlyDrive, still, dwell, loop.stepPos,
      loop.position, loop.stallCount, loop.pendingTarget, loop.config, loop.life, loop.homed, loop.faults,
      loop.commanded, loop.want, loop.idleDays.trans ?_⟩
    simp only [Bool.or_eq_true, decide_eq_true_eq]
    rfl
  · have ends := State.legRetires (s.legTo m) m.aimedAt (m.driven || decide (s.legTo m ≠ s.legFrom m)) park retiring
      unmarked
    rw [← State.legReached_done moves single] at ends
    have link : (s.legReached m).link = s.link := by
      rw [State.legReached_done moves single]
      exact s.link_atStep_moveDone _ _ _ _
    have ends := ends.of_records (State.tellWatches_records _)
    exact ⟨_, exec_legReached_next p moving, State.linkKept_told link, ends.onlyDrive, ends.moving, ends.dwell,
      ends.life, Move.aimedAt_park park ▸ ends.position, ends.room, ends.ceiling, ends.floor⟩
  · have moves : m.kind ≠ .home := by rw [kind]; exact MoveKind.noConfusion
    have goal : s.legTo m = stepOf cap 1000 := by
      rw [State.legTo, capacity, Move.aimedAt_exercise kind leg]
      rfl
    have turns : s.legReached m = (s.atStep m (stepOf cap 1000)).setMoving
        (some (m.secondLeg (s.loop m.loop).commanded (m.driven || decide (stepOf cap 1000 ≠ s.legFrom m)))) := by
      rw [State.legReached, if_neg moves, goal]
      exact State.legDone_turns kind leg capacity away _ _
    have told := (s.legReached m).tellWatches_records
    rw [turns] at told
    refine ⟨_, by rw [exec_legReached_next p moving, turns], State.linkKept_told (State.link_turns _ _),
      (State.onlyDrive_turns _ _).trans told.onlyDrive,
      ⟨m.driven || decide (stepOf cap 1000 ≠ s.legFrom m), told.drive.trans (State.drive_turns _ _)⟩,
      (told.loop _).trans (State.loop_turns _ _)⟩
end

section
/-! PROOF. O29: the change of the drive state off RUNNING, said whole (R130, R133, R156), and HOLD (R90). -/

namespace Sys2Proof.Machine

/-! ### A drive off RUNNING (R130, R133, R156) -/

@[simp] theorem PerManifold.set_get {α : Type} (p : PerManifold α) (m : Manifold) : p.set m (p.get m) = p := by
  cases m <;> rfl

/-- A campaign record with its causes of suspension taken, one holding (R156). -/
def Campaign.halted (c : Campaign) : Campaign :=
  match c.state with
  | .opening => { c with state := .suspended, resume := some .opening }
  | .rounds => { c with state := .suspended, resume := some .rounds }
  | .idle => c
  | .suspended => c

section
variable {c : Campaign}

theorem Campaign.halted_opening (h : c.state = .opening) :
    c.halted = { c with state := .suspended, resume := some .opening } := by simp [Campaign.halted, h]

theorem Campaign.halted_rounds (h : c.state = .rounds) :
    c.halted = { c with state := .suspended, resume := some .rounds } := by simp [Campaign.halted, h]

theorem Campaign.halted_closed (h : c.state = .idle ∨ c.state = .suspended) : c.halted = c := by
  rcases h with h | h <;> simp [Campaign.halted, h]

end

theorem State.counts_off {s : State} (off : s.drive.state ≠ .running) (i : LoopIx) : s.counts i = false := by
  simp [State.counts, off]

theorem State.timerRuns_off {s : State} (off : s.drive.state ≠ .running) (m : Manifold) : s.timerRuns m = false := by
  simp [State.timerRuns, off]

theorem State.held_off {s : State} (off : s.drive.state ≠ .running) (m : Manifold) : s.held m = true := by
  simp [State.held, off]

theorem RoundTimer.frozen_of_none {t : RoundTimer} (h : t.remaining = none) : t.frozen = t := by
  rw [RoundTimer.frozen, ← h]

theorem State.checkTimer_frozen {s : State} (off : s.drive.state ≠ .running) {m : Manifold}
    (frozen : (s.timer m).remaining = none) : s.checkTimer m = s := by
  simp [State.checkTimer, State.timerRuns_off off, State.timerRunning, frozen]

theorem State.checkTimer_off {s : State} (off : s.drive.state ≠ .running) (m : Manifold) :
    s.checkTimer m = s.setTimer m (s.timer m).frozen := by
  rcases running : (s.timer m).remaining with _ | n
  · rw [State.checkTimer_frozen off running, RoundTimer.frozen_of_none running]
    unfold State.setTimer State.timer
    rw [PerManifold.set_get]
  · simp [State.checkTimer, State.timerRuns_off off, State.timerRunning, running]

theorem State.suspend_off {s : State} (off : s.drive.state ≠ .running) {m : Manifold}
    (frozen : (s.timer m).remaining = none) (r : ResumeState) :
    s.suspend m r = s.setCampaign m { s.campaign m with state := .suspended, resume := some r } := by
  unfold State.suspend State.checkTimerIf
  split_ifs
  · exact State.checkTimer_frozen (s := s.setCampaign m _) off frozen
  · rfl

theorem State.checkCampaign_off {s : State} (off : s.drive.state ≠ .running) {m : Manifold}
    (frozen : (s.timer m).remaining = none) :
    (s.setCampaign m (s.campaign m).halted).SameRecords (s.checkCampaign m) := by
  have stays : (s.setCampaign m (s.campaign m)).SameRecords s := by
    constructor <;> simp [State.setCampaign, State.campaign]
  unfold State.checkCampaign
  split
  next state => rwa [Campaign.halted_closed (.inl state)]
  next state =>
    rw [Campaign.halted_opening state, if_pos (State.held_off off m), State.suspend_off off frozen]
    exact State.mark_records _ _ _ _
  next state =>
    rw [Campaign.halted_rounds state, if_pos (State.held_off off m), State.suspend_off off frozen]
    exact State.mark_records _ _ _ _
  next state =>
    rw [Campaign.halted_closed (.inr state), if_pos (State.held_off off m)]
    exact stays

theorem State.SameRecords.setCampaign {s t : State} (h : s.SameRecords t) (m : Manifold) (c : Campaign) :
    (s.setCampaign m c).SameRecords (t.setCampaign m c) := by
  constructor <;> simp [State.setCampaign, h.powered, h.loops, h.rooms, h.floorList, h.floorShort, h.house, h.storage,
    h.drive, h.channels, h.supplyRefs, h.timers, h.campaigns, h.pending]

/-- Both timers FROZEN. -/
def State.freeze (s : State) : State := (s.setTimer .a (s.timer .a).frozen).setTimer .b (s.timer .b).frozen

/-- Both campaigns with their causes of suspension taken. -/
def State.haltCampaigns (s : State) : State :=
  (s.setCampaign .a (s.campaign .a).halted).setCampaign .b (s.campaign .b).halted

theorem State.checkTimers_off {s : State} (off : s.drive.state ≠ .running) :
    (s.checkTimer .a).checkTimer .b = s.freeze := by
  rw [State.checkTimer_off off, State.checkTimer_off (s := s.setTimer .a (s.timer .a).frozen) off]
  rfl

/-- The campaigns of a drive off RUNNING whose timers stand FROZEN, examined one after the other. -/
theorem State.checkCampaigns_off {s : State} (off : s.drive.state ≠ .running)
    (frozen : ∀ m, (s.timer m).remaining = none) :
    s.haltCampaigns.SameRecords ((s.checkCampaign .a).checkCampaign .b) := by
  have first := State.checkCampaign_off off (frozen .a)
  have drive : (s.checkCampaign .a).drive = s.drive := s.drive_checkCampaign .a
  have timer : (s.checkCampaign .a).timer .b = s.timer .b := by
    rw [State.timer_congr first.timers]
    rfl
  have campaign : (s.checkCampaign .a).campaign .b = s.campaign .b := by
    rw [State.campaign, first.campaigns]
    rfl
  have second := State.checkCampaign_off (s := s.checkCampaign .a) (m := .b) (by rw [drive]; exact off)
    (by rw [timer]; exact frozen .b)
  rw [campaign] at second
  exact (first.setCampaign .b _).trans second

section
variable (s : State)

theorem State.drive_freeze : s.freeze.drive = s.drive := rfl

theorem State.timer_freeze (m : Manifold) : s.freeze.timer m = (s.timer m).frozen := by cases m <;> rfl

theorem State.campaign_freeze (m : Manifold) : s.freeze.campaign m = s.campaign m := rfl

theorem State.campaign_haltCampaigns (m : Manifold) : s.haltCampaigns.campaign m = (s.campaign m).halted := by
  cases m <;> rfl

theorem State.timer_haltCampaigns (m : Manifold) : s.haltCampaigns.timer m = s.timer m := rfl

theorem State.loop_haltCampaigns (i : LoopIx) : s.freeze.haltCampaigns.loop i = s.loop i := by
  simp [State.freeze, State.haltCampaigns]

end

/-- A state that differs from another in its timers FROZEN and its campaigns halted, and in nothing else but the
link. -/
structure State.Freezes (s t : State) : Prop where
  powered : t.powered = s.powered
  loops : t.loops = s.loops
  rooms : t.rooms = s.rooms
  floorList : t.floorList = s.floorList
  floorShort : t.floorShort = s.floorShort
  house : t.house = s.house
  storage : t.storage = s.storage
  drive : t.drive = s.drive
  channels : t.channels = s.channels
  supplyRefs : t.supplyRefs = s.supplyRefs
  timers : ∀ m, t.timer m = (s.timer m).frozen
  campaigns : ∀ m, t.campaign m = (s.campaign m).halted
  pending : t.pending = s.pending

theorem State.freezes_freeze (s : State) : s.Freezes s.freeze.haltCampaigns := by
  refine ⟨?_, ?_, ?_, ?_, ?_, ?_, ?_, ?_, ?_, ?_, s.timer_freeze,
    fun m => s.freeze.campaign_haltCampaigns m, ?_⟩
  all_goals simp [State.freeze, State.haltCampaigns]

theorem State.Freezes.of_records {s t u : State} (h : s.Freezes t) (g : t.SameRecords u) : s.Freezes u :=
  ⟨g.powered.trans h.powered, g.loops.trans h.loops, g.rooms.trans h.rooms, g.floorList.trans h.floorList,
    g.floorShort.trans h.floorShort, g.house.trans h.house, g.storage.trans h.storage, g.drive.trans h.drive,
    g.channels.trans h.channels, g.supplyRefs.trans h.supplyRefs, fun m => (State.timer_congr g.timers m).trans (h.timers m),
    fun m => (congrArg (PerManifold.get · m) g.campaigns).trans (h.campaigns m), g.pending.trans h.pending⟩

/-- The state whose drive has left RUNNING, before the timers and the campaigns hear of it. -/
def State.stood (s : State) (d : DriveState) : State := (s.putDriveState d).mapLoops fun _ l => l.zeroCounter

theorem State.recountAll_off {s : State} (off : s.drive.state ≠ .running) :
    s.recountAll = s.mapLoops fun _ l => l.zeroCounter := by
  unfold State.recountAll
  simp only [State.counts_off off, Bool.false_eq_true, if_false]

/-- A change of the drive state to another one than RUNNING, said whole (R82). -/
theorem State.freezes_setDriveState {s : State} {d : DriveState} (moves : s.drive.state ≠ d) (off : d ≠ .running) :
    (s.stood d).Freezes (s.setDriveState d) := by
  have counters : (s.putDriveState d).recountAll = s.stood d := State.recountAll_off (s := s.putDriveState d) off
  have state : (s.stood d).drive.state = d := rfl
  rw [State.setDriveState, if_neg moves, counters]
  generalize s.stood d = u at state
  have still : u.drive.state ≠ .running := by rwa [state]
  rw [State.checkTimers_off still]
  refine u.freezes_freeze.of_records ?_
  refine .trans (State.checkCampaigns_off (s := u.freeze) still fun m => ?_) (State.mark_records _ _ _ _)
  rw [State.timer_freeze]
  rfl

/-- The drive has left RUNNING for a drive state, and what it measures stands still; the rest is as it was, but for the
link. -/
structure State.Halts (s : State) (d : DriveState) (t : State) : Prop where
  powered : t.powered = s.powered
  loops : ∀ i, t.loop i = { s.loop i with openCounter := 0 }
  rooms : t.rooms = s.rooms
  floorList : t.floorList = s.floorList
  floorShort : t.floorShort = s.floorShort
  house : t.house = s.house
  storage : t.storage = s.storage
  drive : t.drive = { s.drive with state := d }
  channels : t.channels = s.channels
  supplyRefs : t.supplyRefs = s.supplyRefs
  timers : ∀ m, t.timer m = { s.timer m with remaining := none }
  campaigns : ∀ m, t.campaign m = (s.campaign m).halted
  pending : t.pending = s.pending

theorem State.halts_setDriveState {s : State} {d : DriveState} (moves : s.drive.state ≠ d) (off : d ≠ .running) :
    s.Halts d (s.setDriveState d) := by
  have freezes := State.freezes_setDriveState moves off
  refine ⟨freezes.powered.trans ?_, fun i => ?_, freezes.rooms.trans ?_, freezes.floorList.trans ?_,
    freezes.floorShort.trans ?_, freezes.house.trans ?_, freezes.storage.trans ?_, freezes.drive.trans rfl,
    freezes.channels.trans ?_, freezes.supplyRefs.trans ?_, fun m => (freezes.timers m).trans ?_,
    fun m => (freezes.campaigns m).trans ?_, freezes.pending.trans ?_⟩
  case refine_2 =>
    rw [State.loop_congr freezes.loops, State.stood, State.loop_mapLoops]
    rfl
  all_goals simp [State.stood, State.timer, State.campaign, RoundTimer.frozen]

theorem State.Halts.of_records {s t u : State} {d : DriveState} (h : s.Halts d t) (g : t.SameRecords u) :
    s.Halts d u := by
  refine ⟨g.powered.trans h.powered, fun i => (g.loop i).trans (h.loops i), g.rooms.trans h.rooms,
    g.floorList.trans h.floorList, g.floorShort.trans h.floorShort, g.house.trans h.house, g.storage.trans h.storage,
    g.drive.trans h.drive, g.channels.trans h.channels, g.supplyRefs.trans h.supplyRefs,
    fun m => (State.timer_congr g.timers m).trans (h.timers m), fun m => ?_, g.pending.trans h.pending⟩
  rw [State.campaign, g.campaigns]
  exact h.campaigns m

theorem State.Halts.after {s t u : State} {d : DriveState} (g : s.SameRecords t) (h : t.Halts d u) : s.Halts d u := by
  obtain ⟨powered, loops, rooms, floorList, floorShort, house, storage, drive, channels, supplyRefs, timers, campaigns,
    pending⟩ := h
  have timer (m : Manifold) : t.timer m = s.timer m := State.timer_congr g.timers m
  have campaign (m : Manifold) : t.campaign m = s.campaign m := by rw [State.campaign, g.campaigns]; rfl
  simp only [g.loop, g.drive, timer, campaign] at loops drive timers campaigns
  exact ⟨powered.trans g.powered, loops, rooms.trans g.rooms, floorList.trans g.floorList, floorShort.trans g.floorShort,
    house.trans g.house, storage.trans g.storage, drive, channels.trans g.channels, supplyRefs.trans g.supplyRefs, timers,
    campaigns, pending.trans g.pending⟩

section
variable {s t : State} {d : DriveState} (h : s.Halts d t)
include h

theorem State.Halts.opening {m : Manifold} (opening : (s.campaign m).state = .opening) :
    t.campaign m = { s.campaign m with state := .suspended, resume := some .opening } :=
  (h.campaigns m).trans (Campaign.halted_opening opening)

theorem State.Halts.rounds {m : Manifold} (rounds : (s.campaign m).state = .rounds) :
    t.campaign m = { s.campaign m with state := .suspended, resume := some .rounds } :=
  (h.campaigns m).trans (Campaign.halted_rounds rounds)

theorem State.Halts.closed {m : Manifold} (closed : (s.campaign m).state = .idle ∨ (s.campaign m).state = .suspended) :
    t.campaign m = s.campaign m := (h.campaigns m).trans (Campaign.halted_closed closed)

/-- What the drive measures stands still. -/
theorem State.Halts.measurementStops : s.MeasurementStops t :=
  ⟨fun i => by rw [h.loops], h.timers, h.supplyRefs, fun _ => h.opening, fun _ => h.rounds, fun _ => h.closed⟩

end

/-! ### HOLD (R90) -/

/-- An order of the service station, taken by its owner (R179). -/
theorem State.Polled.ordered {s : State} {k : SlotIx} {x : Slot} (h : s.Polled k x) (service : slotKind k = .service)
    {c : Instr} {take : State → Taken} (e : exec c s = serviceOrder [] s take) :
    exec c s = .next ((take (s.heard k x)).finish k) := by
  rw [e]
  unfold serviceOrder
  rw [h.allowed (serviceStation_of service)]
  rfl

/-- A change of the drive state, off RUNNING, that a request has brought. -/
theorem State.halts_ordered {s : State} {k : SlotIx} {x : Slot} {d : DriveState} (moves : s.drive.state ≠ d)
    (off : d ≠ .running) (status : Status) :
    s.Halts d (Taken.finish ⟨status, [], (s.heard k x).setDriveState d⟩ k) :=
  .after (s.heard_records k x)
    ((State.halts_setDriveState (s := s.heard k x) moves off).of_records (Taken.finish_records ⟨status, [], _⟩ k))

theorem State.replies_setDriveState (s : State) (k : SlotIx) (x : Slot) (d : DriveState) (status : Status) :
    s.Replies k x status [] (Taken.finish ⟨status, [], (s.heard k x).setDriveState d⟩ k) :=
  State.replies_finish ((s.heard k x).steps_setDriveState d).calm.link status []

section
variable {s : State}

theorem State.hold_moving (running : s.drive.state = .running) {m : Move} (moving : s.drive.moving = some m) :
    s.hold = ⟨.deferred, [], s.setDriveState .holding⟩ := by
  simp only [State.hold, running, moving, Option.isSome_some, if_true]

theorem State.hold_still (running : s.drive.state = .running) (still : s.drive.moving = none) :
    s.hold = ⟨.done, [], s.setDriveState .held⟩ := by
  simp [State.hold, running, still]

theorem State.hold_holding (state : s.drive.state = .holding) : s.hold = s.refuse .deferred := by
  simp only [State.hold, state]

theorem State.hold_held (state : s.drive.state = .held) : s.hold = s.refuse .done := by
  simp only [State.hold, state]

/-- The drive state a HOLD brings a RUNNING drive to, and its answer (R90). -/
def Drive.heldState (d : Drive) : DriveState := if d.moving = none then .held else .holding

def Drive.holdStatus (d : Drive) : Status := if d.moving = none then .done else .deferred

theorem State.hold_running (running : s.drive.state = .running) :
    s.hold = ⟨s.drive.holdStatus, [], s.setDriveState s.drive.heldState⟩ := by
  unfold Drive.holdStatus Drive.heldState
  rcases moving : s.drive.moving with _ | m
  · rw [State.hold_still running moving]
    rfl
  · rw [State.hold_moving running moving]
    rfl

theorem Drive.heldState_off (d : Drive) : d.heldState ≠ .running := by
  unfold Drive.heldState
  split_ifs
  · exact DriveState.noConfusion
  · exact DriveState.noConfusion

end

end Sys2Proof.Machine

open Sys2Proof Sys2Proof.Machine

/-- Settles O29, by the rows of R90: a HOLD of a RUNNING drive is the change of its state, said whole. -/
theorem holdFollowsItsTable : Obligations.HoldFollowsItsTable := by
  intro s k x h service
  have hold := h.ordered (c := .hold []) service (exec_hold [] s)
  refine ⟨fun state => ?_, fun state => ?_, fun state => ?_⟩
  · rw [State.hold_holding (s := s.heard k x) state] at hold
    exact ⟨_, hold, s.onlyAnswers_finish k x .deferred []⟩
  · rw [State.hold_held (s := s.heard k x) state] at hold
    exact ⟨_, hold, s.onlyAnswers_finish k x .done []⟩
  · have drive : (s.heard k x).drive = s.drive := rfl
    rw [State.hold_running (s := s.heard k x) state, drive] at hold
    have halts :=
      State.halts_ordered (s := s) (k := k) (x := x) (by rw [state]; exact s.drive.heldState_off.symm) s.drive.heldState_off
        s.drive.holdStatus
    exact ⟨_, hold, s.replies_setDriveState k x s.drive.heldState s.drive.holdStatus, halts.drive, halts.powered,
      halts.rooms, halts.floorList, halts.floorShort, halts.house, halts.storage, halts.channels,
      halts.supplyRefs, halts.pending, halts.loops,
      fun m => ⟨halts.timers m, halts.opening, halts.rounds, halts.closed⟩⟩
end

section
/-! PROOF. O30 and O40: a move that stops short of its end: STOP (R71, R91), a stall and the stall limit (R69, R70). -/

namespace Sys2Proof.Machine

/-! ### What the Drive Queue's taking of an end leaves of strokes and rounds -/

section
variable (s : State) (m : Move) (e : MoveEnd) (r : Option EndReason) (toHeld : Bool)

theorem State.sameDemand_stopRunning : s.SameDemand (s.stopRunning m e r) :=
  (s.sameDemand_setDrive _).trans (State.sameDemand_setDrive _ _)

theorem State.sameDemand_aim (i : LoopIx) : s.SameDemand (s.aim i) := by
  have wants : s.SameDemand (s.wantAim i) := by
    unfold State.wantAim
    split
    · exact State.sameDemand_ite (fun _ => s.sameDemand_want i _) fun _ => .refl s
    · exact .refl s
  exact wants.trans (State.sameDemand_modLoop _ i fun l => ⟨rfl, ⟨rfl, rfl, rfl, rfl, rfl, rfl⟩, rfl, rfl⟩)

theorem State.sameDemand_takeEnd : s.SameDemand (s.takeEnd m e r toHeld) := by
  unfold State.takeEnd
  refine .trans ?_ (State.sameDemand_markLoopIf _ _ _ _)
  refine .trans ?_ (State.sameDemand_examineOpening _ _)
  refine .trans ?_ (State.sameDemand_aim _ _)
  exact (s.sameDemand_stopRunning m e r).trans
    (State.sameDemand_ite (fun _ => State.sameDemand_setDriveState _ _) fun _ => .refl _)

theorem State.spares_stopRunning (n : Manifold) : s.Spares n (s.stopRunning m e r) :=
  ⟨rfl, ⟨rfl, rfl⟩, rfl, rfl, rfl, fun _ => id⟩

theorem State.examineOpening_of_other {s : State} {n : Manifold} (h : (s.campaign n).state ≠ .opening) :
    s.examineOpening n = s := if_neg fun opening => h opening.1

/-- The examination of one manifold's opening leaves another campaign alone, and one that is not in OPENING. -/
theorem State.spares_examineOpening {s : State} {n : Manifold} (h : (s.campaign n).state ≠ .opening) (k : Manifold) :
    s.Spares n (s.examineOpening k) := by
  by_cases same : k = n
  · subst same
    rw [State.examineOpening_of_other h]
    exact .refl s k
  · unfold State.examineOpening
    split_ifs
    · exact (s.spares_enterRounds same).trans ((State.mark_records _ _ _ _).spares n)
    · exact .refl s n

/-- What of an end comes after the drive state leaves a campaign that is not in OPENING alone, and its round. -/
theorem State.spares_aimed {s : State} {n : Manifold} (h : (s.campaign n).state ≠ .opening) (i : LoopIx) (k : Manifold)
    (c : Bool) (b : Bool) : s.Spares n (((s.aim i).examineOpening k).markLoopIf c i b) := by
  have aimed : s.Spares n (s.aim i) := (s.quiet_aim i).spares (s.steps_aim i) n
  exact (aimed.trans (State.spares_examineOpening (by rw [aimed.campaign]; exact h) k)).trans
    ((State.records_markLoopIf _ c i b).spares n)

end

theorem Campaign.halted_state {c : Campaign} : c.halted.state ≠ .opening := by
  unfold Campaign.halted
  split
  · exact CampaignState.noConfusion
  · exact CampaignState.noConfusion
  next idle => rw [idle]; exact CampaignState.noConfusion
  next suspended => rw [suspended]; exact CampaignState.noConfusion

/-- A fresh round of a drive that leaves RUNNING is FROZEN, and fresh still. -/
theorem State.Halts.freshRound {s t : State} {d : DriveState} {n : Manifold} {runs : Prop} (h : s.Halts d t)
    (fresh : s.FreshRound n runs) : t.FreshRound n False := by
  obtain ⟨⟨-, -, settleBase, design, deadband, supplyRef⟩, -⟩ := fresh
  refine ⟨⟨False.elim, fun _ => by rw [h.timers], ?_, ?_, ?_, ?_⟩, fun i _ => by rw [h.loops]⟩
  · rw [h.timers, h.house]
    exact settleBase
  · rw [h.timers, h.house]
    exact design
  · rw [h.timers, h.house]
    exact deadband
  · rw [h.supplyRefs, State.channel_congr h.channels]
    exact supplyRef

theorem State.FreshRound.congr {t : State} {n : Manifold} {p q : Prop} (h : t.FreshRound n p) (same : p ↔ q) :
    t.FreshRound n q := propext same ▸ h

/-- A fresh round at a move's end: FROZEN where the drive becomes HELD, else left alone, unless a campaign in OPENING
enters ROUNDS there (R86, R90). -/
theorem State.FreshRound.takeEnd {s : State} {n : Manifold} {runs : Prop} (fresh : s.FreshRound n runs)
    (unopened : (s.campaign n).state ≠ .opening) (m : Move) (e : MoveEnd) (r : Option EndReason) :
    (s.takeEnd m e r false).FreshRound n (runs ∧ s.drive.state ≠ .holding) := by
  have stopped := s.spares_stopRunning m e r n
  have state : (s.stopRunning m e r).drive.state = s.drive.state := rfl
  unfold State.takeEnd State.holdAtEnd
  by_cases holding : s.drive.state = .holding
  · rw [if_pos (.inr holding)]
    have halts : (s.stopRunning m e r).Halts .held ((s.stopRunning m e r).setDriveState .held) :=
      State.halts_setDriveState (by rw [state, holding]; exact DriveState.noConfusion) DriveState.noConfusion
    refine ((halts.freshRound (fresh.of_spares stopped)).of_spares (State.spares_aimed ?_ _ _ _ _)).congr ?_
    · rw [halts.campaigns]
      exact Campaign.halted_state
    · simp [holding]
  · rw [if_neg (by rw [state]; simp [holding])]
    refine ((fresh.of_spares stopped).of_spares (State.spares_aimed ?_ _ _ _ _)).congr ?_
    · rw [stopped.campaign]
      exact unopened
    · simp [holding]

theorem perManifold_ext {α : Type} {p q : PerManifold α} (h : ∀ m, p.get m = q.get m) : p = q := by
  rcases p with ⟨a, b⟩
  rw [show a = q.a from h .a, show b = q.b from h .b]

/-- An end that makes the drive HELD stops the measurement. -/
theorem State.measurementStops_takeEnd {s : State} (moves : s.drive.state ≠ .held) (m : Move) (e : MoveEnd)
    (r : Option EndReason) : s.MeasurementStops (s.takeEnd m e r true) := by
  have halts : (s.stopRunning m e r).Halts .held ((s.stopRunning m e r).setDriveState .held) :=
    State.halts_setDriveState (s := s.stopRunning m e r) moves DriveState.noConfusion
  unfold State.takeEnd State.holdAtEnd
  rw [if_pos (.inl rfl)]
  generalize (s.stopRunning m e r).setDriveState .held = u at halts
  have spares (n : Manifold) := State.spares_aimed (s := u) (n := n) (by rw [halts.campaigns]; exact Campaign.halted_state)
    m.loop (manifoldOf m.loop) (s.loop m.loop).pendingTarget.isSome false
  generalize ((u.aim m.loop).examineOpening (manifoldOf m.loop)).markLoopIf _ m.loop false = t at spares
  refine ⟨fun i => ?_, fun n => ?_, ?_, fun n opening => ?_, fun n rounds => ?_, fun n closed => ?_⟩
  · exact (spares .a).counters i (by rw [halts.loops])
  · rw [(spares n).round.timer, halts.timers]
    rfl
  · have refs (n : Manifold) : t.supplyRefs.get n = s.supplyRefs.get n := by
      rw [(spares n).round.supplyRef, halts.supplyRefs]
      rfl
    exact perManifold_ext refs
  · exact (spares n).campaign.trans (halts.opening opening)
  · exact (spares n).campaign.trans (halts.rounds rounds)
  · exact (spares n).campaign.trans (halts.closed closed)

/-! ### A move that stopped short of its end (R69, R71) -/

theorem clampStep_eq {a b step : Nat} (low : min a b ≤ step) (high : step ≤ max a b) : clampStep a b step = step := by
  unfold clampStep
  omega

/-- A RETIRING loop's PARK that did not complete is wanted again (R19). -/
def Loop.parkedAgain (l : Loop) (kind : MoveKind) : Loop :=
  if l.life = .retiring ∧ kind = .park then l.setWant (some (supersede l.want .park)) else l

theorem Loop.parkedAgain_zeroCounter (l : Loop) (kind : MoveKind) :
    l.zeroCounter.parkedAgain kind = (l.parkedAgain kind).zeroCounter :=
  (apply_ite Loop.zeroCounter (l.life = .retiring ∧ kind = .park) (l.setWant (some (supersede l.want .park))) l).symm

theorem Loop.parkedAgain_restartMark (l : Loop) (kind : MoveKind) : (l.parkedAgain kind).restartMark = l.restartMark := by
  unfold Loop.parkedAgain
  split_ifs <;> rfl

/-- A loop's record where a move of it stopped short, and the stall limit has not been reached (R69, R71, R72, R87). -/
structure Loop.LegStopped (l : Loop) (m : Move) (step stroke stalls : Nat) (driven : Bool) (x : Loop) : Prop where
  stepPos : x.stepPos = some step
  position : x.position = some stroke
  stallCount : x.stallCount = min 3 (l.stallCount + stalls)
  pendingTarget : x.pendingTarget = none
  config : l.SameConfig x
  life : x.life = l.life
  homed : x.homed = l.homed
  faults : x.faults = l.faults
  commanded : x.commanded = l.commanded
  want : x.want = m.wantAgain l stroke
  idleDays : x.idleDays = if driven = true then 0 else l.idleDays

theorem Loop.LegStopped.counted {l x y : Loop} {m : Move} {step stroke stalls : Nat} {driven : Bool}
    (h : l.LegStopped m step stroke stalls driven x) (same : x.Counted y) :
    l.LegStopped m step stroke stalls driven y := by
  rcases same with rfl | rfl
  · exact h
  · obtain ⟨stepPos, position, stallCount, pending, config, life, homed, faults, commanded, want, idle⟩ := h
    obtain ⟨room, length, covering, owner, override, ceiling⟩ := config
    exact ⟨stepPos, position, stallCount, pending, ⟨room, length, covering, owner, override, ceiling⟩, life, homed,
      faults, commanded, want, idle⟩

theorem Loop.legStopped_aimed {l : Loop} {cap : Nat} (capacity : l.capacity = some cap) (m : Move) (step stalls : Nat)
    (driven : Bool) : l.LegStopped m step (step * 1000 / cap) stalls driven
      ((l.stoppedAt step stalls driven).parkedAgain m.kind).aimed := by
  have position : (l.stoppedAt step stalls driven).position = some (step * 1000 / cap) := by
    simp [Loop.stoppedAt, strokeOf, capacity]
  by_cases again : l.life = .retiring ∧ m.kind = .park
  · have parked : (l.stoppedAt step stalls driven).parkedAgain m.kind =
        (l.stoppedAt step stalls driven).setWant (some (supersede l.want .park)) := if_pos again
    have want : (((l.stoppedAt step stalls driven).setWant (some (supersede l.want .park))).aimed).want =
        m.wantAgain l (step * 1000 / cap) := by
      rw [Move.wantAgain, if_pos again]
      unfold Loop.aimed
      rw [show (((l.stoppedAt step stalls driven).setWant (some (supersede l.want .park))).position) = _ from position]
      simp [Loop.wantAt, Loop.setWant, Loop.setPending, Loop.stoppedAt, again.1]
    rw [parked]
    constructor
    case config => constructor <;> rfl
    case want => exact want
    case position => exact position
    all_goals rfl
  · have parked : (l.stoppedAt step stalls driven).parkedAgain m.kind = l.stoppedAt step stalls driven := if_neg again
    have want : (l.stoppedAt step stalls driven).aimed.want = m.wantAgain l (step * 1000 / cap) := by
      rw [Move.wantAgain, if_neg again]
      unfold Loop.aimed
      rw [position]
      simp [Loop.wantAt, Loop.setWant, Loop.setPending, Loop.stoppedAt]
    rw [parked]
    constructor
    case config => constructor <;> rfl
    case want => exact want
    case position => exact position
    all_goals rfl

section
variable (s : State) (m : Move)

theorem State.loop_parkAgain : ((s.loop m.loop).parkedAgain m.kind).Counted ((s.parkAgain m).loop m.loop) := by
  unfold State.parkAgain Loop.parkedAgain
  split_ifs
  · exact s.loop_want_counted m.loop .park
  · exact .refl _

theorem State.quiet_parkAgain : s.Quiet (s.parkAgain m) := by
  unfold State.parkAgain
  split_ifs
  · exact s.quiet_want _ _
  · exact .refl s

variable (ending : MoveEnd) (reason : Option EndReason) (step stalls : Nat)

/-- A move stopped short has driven a step where it had before, or has left its leg's start (R72). -/
def State.drivenTo (step : Nat) : Bool := m.driven || decide (s.stopStep m step ≠ s.legFrom m)

theorem State.loop_stopAt_self : ((s.loop m.loop).stoppedAt (s.stopStep m step) stalls (s.drivenTo m step)).Counted
    ((s.stopAt m ending reason step stalls).loop m.loop) := by
  have told := (State.counted_recount ((s.stopRunning m ending reason).modLoop m.loop fun l =>
    l.stoppedAt (s.stopStep m step) stalls (s.drivenTo m step)) m.loop).loop m.loop
  rwa [State.loop_modLoop_self] at told

theorem State.drive_stopAt : (s.stopAt m ending reason step stalls).drive = (s.stopRunning m ending reason).drive := by
  rw [State.stopAt, State.drive_recount, State.modLoop_drive]

theorem State.onlyDrive_stopRunning : State.OnlyDrive [] s (s.stopRunning m ending reason) :=
  (s.onlyDrive_setMoving none).trans (State.onlyDrive_setDwell _ _)

theorem State.onlyDrive_stopAt : State.OnlyDrive [m.loop] s (s.stopAt m ending reason step stalls) := by
  refine .trans ?_ (State.quiet_recount _ m.loop).mild.onlyDrive
  exact ((s.onlyDrive_stopRunning m ending reason).widen [m.loop]).then rfl (State.onlyDrive_setLoop _ _ _)

theorem State.spares_modLoop (i : LoopIx) {f : Loop → Loop} (z : ∀ l : Loop, l.openCounter = 0 → (f l).openCounter = 0)
    (n : Manifold) : s.Spares n (s.modLoop i f) := by
  refine ⟨rfl, ⟨rfl, rfl⟩, rfl, rfl, rfl, fun j => ?_⟩
  rw [State.loop_modLoop]
  split
  next e => exact e ▸ z _
  · exact id

theorem State.spares_recount (i : LoopIx) (n : Manifold) : s.Spares n (s.recount i) :=
  (s.quiet_recount i).spares (s.steps_recount i) n

theorem State.spares_stopAt (n : Manifold) : s.Spares n (s.stopAt m ending reason step stalls) := by
  refine .trans ?_ (State.spares_recount _ m.loop n)
  refine (s.spares_stopRunning m ending reason n).trans (State.spares_modLoop _ _ ?_ n)
  exact fun _ z => z

end

/-- The end of a move that stopped short, below the stall limit (R69, R71, R86). -/
def State.endsShort (s : State) (m : Move) (ending : MoveEnd) (reason : Option EndReason) (step stalls : Nat)
    (toHeld : Bool) : State :=
  ((((s.stopAt m ending reason step stalls).parkAgain m).takeRestartMark m.loop).takeEnd m ending reason
    toHeld).tellHead s m.loop

/-- What an end short of the leg's target leaves, in the words of the obligations. -/
structure State.LegStops (s : State) (m : Move) (ending : MoveEnd) (reason : Option EndReason) (step stroke stalls : Nat)
    (driven toHeld : Bool) (t : State) : Prop where
  onlyDrive : State.OnlyDrive [m.loop] (s.putDriveState (s.drive.state.afterEnd toHeld)) t
  moving : t.drive.moving = none
  dwell : t.drive.dwell = some ⟨m.loop, m.kind, ending, reason, 2⟩
  loop : (s.loop m.loop).LegStopped m step stroke stalls driven (t.loop m.loop)

theorem State.LegStops.of_records {s t u : State} {m : Move} {ending : MoveEnd} {reason : Option EndReason}
    {step stroke stalls : Nat} {driven toHeld : Bool} (h : s.LegStops m ending reason step stroke stalls driven toHeld t)
    (g : t.SameRecords u) : s.LegStops m ending reason step stroke stalls driven toHeld u :=
  ⟨h.onlyDrive.trans g.onlyDrive, g.drive ▸ h.moving, g.drive ▸ h.dwell, h.loop.counted (.inl (g.loop _))⟩

section
variable {s : State} {m : Move} {step cap start : Nat}

theorem State.stopStep_eq (capacity : (s.loop m.loop).capacity = some cap) (from_ : (s.loop m.loop).stepPos = some start)
    (low : min start (stepOf cap m.aimedAt) ≤ step) (high : step ≤ max start (stepOf cap m.aimedAt)) :
    s.stopStep m step = step := by
  rw [State.stopStep, State.legFrom, State.legTo, capacity, from_]
  exact clampStep_eq low high

theorem State.drivenTo_iff (from_ : (s.loop m.loop).stepPos = some start) (stops : s.stopStep m step = step) :
    s.drivenTo m step = true ↔ m.driven = true ∨ step ≠ start := by
  rw [State.drivenTo, stops, State.legFrom, from_, Bool.or_eq_true, decide_eq_true_eq]
  rfl

theorem State.loop_parked (ending : MoveEnd) (reason : Option EndReason) (stalls : Nat) :
    (((s.loop m.loop).stoppedAt (s.stopStep m step) stalls (s.drivenTo m step)).parkedAgain m.kind).Counted
      (((s.stopAt m ending reason step stalls).parkAgain m).loop m.loop) :=
  ((s.loop_stopAt_self m ending reason step stalls).map (f := fun l => l.parkedAgain m.kind) fun l =>
    l.parkedAgain_zeroCounter m.kind).trans (State.loop_parkAgain _ m)

theorem State.legStops {ending : MoveEnd} {reason : Option EndReason} {stalls : Nat} (toHeld : Bool) (moves : m.kind ≠ .home)
    (unmarked : (s.loop m.loop).restartMark = false) (capacity : (s.loop m.loop).capacity = some cap)
    (stops : s.stopStep m step = step) :
    s.LegStops m ending reason step (step * 1000 / cap) stalls (s.drivenTo m step) toHeld
      (s.endsShort m ending reason step stalls toHeld) := by
  have parked := State.loop_parked (s := s) (m := m) (step := step) ending reason stalls
  have mark : (((s.stopAt m ending reason step stalls).parkAgain m).loop m.loop).restartMark = false := by
    rw [parked.restartMark, Loop.parkedAgain_restartMark]
    exact unmarked
  have state : ((s.stopAt m ending reason step stalls).parkAgain m).drive.state = s.drive.state :=
    (State.quiet_parkAgain _ m).state.trans (by rw [State.drive_stopAt]; rfl)
  have begun : State.OnlyDrive [m.loop] s ((s.stopAt m ending reason step stalls).parkAgain m) :=
    (s.onlyDrive_stopAt m ending reason step stalls).trans (State.quiet_parkAgain _ m).mild.onlyDrive
  rw [State.endsShort, State.takeRestartMark_of_unmarked mark]
  generalize (s.stopAt m ending reason step stalls).parkAgain m = u at parked state begun
  refine ⟨?_, ?_, ?_, ?_⟩
  · have ended := u.onlyDrive_takeEnd m ending reason toHeld
    rw [state] at ended
    exact ((begun.putDriveState _).trans ended).trans (State.quiet_tellHead _ s m.loop).mild.onlyDrive
  · rw [State.drive_tellHead, State.moving_takeEnd]
  · rw [State.drive_tellHead, State.dwell_takeEnd, Move.ended, dwellOf_homed moves]
  · rw [stops] at parked
    rw [State.loop_tellHead]
    exact (Loop.legStopped_aimed capacity m step stalls (s.drivenTo m step)).counted
      ((parked.map (f := Loop.aimed) fun _ => rfl).trans (u.loop_takeEnd_self m ending reason toHeld))

end

/-! ### STOP (R91) -/

theorem State.moveStopped_eq (s : State) (m : Move) (step : Nat) :
    s.moveStopped m step = s.endsShort m .aborted (some .stop) step 0 true := rfl

section
variable {s : State} {m : Move}

theorem State.stop_home (moving : s.drive.moving = some m) (home : m.kind = .home) (step : Nat) :
    s.stop step = s.refuse .locked := by
  simp only [State.stop, moving]
  exact if_pos home

theorem State.stop_move (moving : s.drive.moving = some m) (moves : m.kind ≠ .home) (step : Nat) :
    s.stop step = ⟨.done, [], s.moveStopped m step⟩ := by
  simp only [State.stop, moving]
  exact if_neg moves

theorem State.stop_still (still : s.drive.moving = none) (step : Nat) :
    s.stop step = ⟨.done, [], s.setDriveState .held⟩ := by
  simp only [State.stop, still]

end

/-- What a change that measures nothing leaves between a state and its stop. -/
theorem State.MeasurementStops.after {s u t : State} (spares : ∀ n, s.Spares n u) (h : u.MeasurementStops t) :
    s.MeasurementStops t := by
  obtain ⟨counters, timers, supplyRefs, opening, rounds, others⟩ := h
  have campaign (n : Manifold) := (spares n).campaign
  have timer (n : Manifold) := (spares n).round.timer
  have refs : u.supplyRefs = s.supplyRefs := perManifold_ext fun n => (spares n).round.supplyRef
  simp only [campaign] at opening rounds others
  simp only [timer] at timers
  exact ⟨counters, timers, supplyRefs.trans refs, opening, rounds, others⟩

theorem State.MeasurementStops.of_records {s t u : State} (h : s.MeasurementStops t) (g : t.SameRecords u) :
    s.MeasurementStops u := by
  obtain ⟨counters, timers, supplyRefs, opening, rounds, others⟩ := h
  have campaign (n : Manifold) : u.campaign n = t.campaign n := congrArg (PerManifold.get · n) g.campaigns
  exact ⟨fun i => by rw [g.loop]; exact counters i, fun n => (State.timer_congr g.timers n).trans (timers n),
    g.supplyRefs.trans supplyRefs, fun n o => (campaign n).trans (opening n o),
    fun n o => (campaign n).trans (rounds n o), fun n o => (campaign n).trans (others n o)⟩

theorem State.spares_parkAgain (s : State) (m : Move) (n : Manifold) : s.Spares n (s.parkAgain m) :=
  (s.quiet_parkAgain m).spares (s.steps_parkAgain m) n

/-- A STOP of a move on a drive that is not HELD stops the measurement (R91). -/
theorem State.measurementStops_endsShort {s : State} (moves : s.drive.state ≠ .held) {m : Move}
    (unmarked : (s.loop m.loop).restartMark = false) (ending : MoveEnd) (reason : Option EndReason) (step stalls : Nat) :
    s.MeasurementStops (s.endsShort m ending reason step stalls true) := by
  have parked := State.loop_parked (s := s) (m := m) (step := step) ending reason stalls
  have mark : (((s.stopAt m ending reason step stalls).parkAgain m).loop m.loop).restartMark = false := by
    rw [parked.restartMark, Loop.parkedAgain_restartMark]
    exact unmarked
  have spares (n : Manifold) : s.Spares n ((s.stopAt m ending reason step stalls).parkAgain m) :=
    (s.spares_stopAt m ending reason step stalls n).trans (State.spares_parkAgain _ m n)
  rw [State.endsShort, State.takeRestartMark_of_unmarked mark]
  generalize (s.stopAt m ending reason step stalls).parkAgain m = u at spares
  have stops := State.measurementStops_takeEnd (s := u) (by rw [(spares .a).driveState]; exact moves) m ending reason
  exact (State.MeasurementStops.after spares stops).of_records (State.records_markLoopIf _ _ _ _)

theorem State.onlyDrive_setDriveState (s : State) (d : DriveState) :
    State.OnlyDrive [] (s.putDriveState d) (s.setDriveState d) := (s.mild_setDriveState d).onlyDrive

theorem State.drive_setDriveState_held (s : State) :
    (s.setDriveState .held).drive = { s.drive with state := .held } := by
  by_cases held : s.drive.state = .held
  · rw [State.setDriveState, if_pos held, ← held]
  · exact (State.halts_setDriveState held DriveState.noConfusion).drive

/-! ### The stall limit (R70, R12) -/

/-- A change of one loop and of what the Demand Unit and the Drive Queue make of it, that leaves the Floor List alone. -/
structure State.Touches (i : LoopIx) (s t : State) : Prop where
  onlyDrive : State.OnlyDrive [i] s t
  floorList : t.floorList = s.floorList

theorem State.Touches.trans {i : LoopIx} {s t u : State} (h : State.Touches i s t) (g : State.Touches i t u) :
    State.Touches i s u := ⟨h.onlyDrive.then h.floorList g.onlyDrive, g.floorList.trans h.floorList⟩

theorem State.Mild.touches {s t : State} (h : s.Mild t) (i : LoopIx) : State.Touches i s t :=
  ⟨h.onlyDrive.widen [i], h.floorList⟩

theorem State.touches_modLoop (s : State) (i : LoopIx) (f : Loop → Loop) : State.Touches i s (s.modLoop i f) :=
  ⟨s.onlyDrive_setLoop i _, rfl⟩

theorem State.Touches.refl (i : LoopIx) (s : State) : State.Touches i s s := (State.Mild.refl s).touches i

section
variable (s : State) (i : LoopIx)

theorem State.touches_wantHome : State.Touches i s (s.wantHome i) :=
  ((s.touches_modLoop i _).trans ((State.quiet_recount _ i).mild.touches i)).trans
    ((State.quiet_want _ i .home).mild.touches i)

theorem State.touches_latchStall : State.Touches i s (s.latchStall i) := by
  unfold State.latchStall
  split_ifs
  · exact (s.touches_modLoop i _).trans ((State.mild_markLoopIf _ true i false).touches i)
  · exact .refl i s

theorem State.touches_setLife (new : Lifecycle) : State.Touches i s (s.setLife i new) :=
  (s.touches_modLoop i _).trans ((State.mild_lifeChanged _ i _).touches i)

theorem State.touches_lifeAtLimit : State.Touches i s (s.lifeAtLimit i) := by
  unfold State.lifeAtLimit
  split_ifs
  · exact s.touches_setLife i _
  · exact .refl i s

theorem State.touches_stallLimit : State.Touches i s (s.stallLimit i) :=
  ((s.touches_wantHome i).trans (State.touches_latchStall _ i)).trans (State.touches_lifeAtLimit _ i)

theorem State.spares_wantHome (n : Manifold) : s.Spares n (s.wantHome i) := by
  refine .trans (.trans (State.spares_modLoop s i ?_ n) (State.spares_recount _ i n))
    ((State.quiet_want _ i .home).spares (State.steps_want _ i .home) n)
  exact fun _ z => z

theorem State.spares_latchStall (n : Manifold) : s.Spares n (s.latchStall i) := by
  unfold State.latchStall
  split_ifs
  · refine .trans (State.spares_modLoop s i ?_ n) ((State.mark_records _ _ _ _).spares n)
    exact fun _ z => z
  · exact .refl s n

/-- The record of a loop whose head is to be homed afresh (R64). -/
theorem State.loop_wantHome : ((s.loop i).unhomed.setWant (some .home)).Counted ((s.wantHome i).loop i) := by
  have home (w : Option MoveKind) : supersede w .home = .home := by
    rcases w with _ | w
    · rfl
    · cases w <;> rfl
  have unhomed : (s.loop i).unhomed.Counted ((s.unhome i).loop i) := by
    have told := (State.counted_recount (s.modLoop i Loop.unhomed) i).loop i
    rwa [State.loop_modLoop_self] at told
  have wanted := (s.unhome i).loop_want_counted i .home
  rw [home] at wanted
  exact (unhomed.map (f := fun l => l.setWant (some .home)) fun _ => rfl).trans wanted

/-- A loop's record at the stall limit, before the Loop Table takes it (R70). -/
def Loop.limited (l : Loop) : Loop := (l.unhomed.setWant (some .home)).setFaults l.faults.withStall

theorem State.loop_latched {s : State} {i : LoopIx} (occupied : (s.loop i).life ≠ .vacant) :
    (s.loop i).limited.Counted (((s.wantHome i).latchStall i).loop i) := by
  have wanted := s.loop_wantHome i
  have held : ((s.wantHome i).loop i).occupied = true := by
    rw [Loop.occupied, wanted.life]
    exact decide_eq_true occupied
  rw [State.latchStall, if_pos held, State.loop_markLoop, State.loop_modLoop_self]
  rcases wanted with e | e <;> rw [e]
  · exact .inl rfl
  · exact .inr rfl

end

/-! ### A lifecycle change is a coupling event where READY is entered or left (R9, R134) -/

section
variable {s : State} {i : LoopIx} {old : Lifecycle}

/-- The state of a crossing of READY once the Trimming Engine has taken it. -/
def State.coupled (s : State) (i : LoopIx) : State := (s.recompute.coupling (manifoldOf i)).recount i

theorem State.lifeChanged_of_crossed (crossed : s.crossed i old = true) :
    s.lifeChanged i old = ((s.coupled i).examineOpening (manifoldOf i)).markLoop i true := by
  rw [State.lifeChanged, crossed]
  rfl

theorem State.freshRound_coupled (s : State) (i : LoopIx) :
    (s.coupled i).FreshRound (manifoldOf i) ((s.timer (manifoldOf i)).remaining ≠ none) := by
  have running : s.recompute.timerRunning (manifoldOf i) = true ↔ (s.timer (manifoldOf i)).remaining ≠ none := by
    rw [State.timerRunning, State.timer_congr s.quiet_recompute.timers, Option.isSome_iff_ne_none]
  exact ((s.recompute.freshRound_coupling (manifoldOf i)).congr running).of_spares (State.spares_recount _ i _)

theorem State.campaign_coupled (s : State) (i : LoopIx) (n : Manifold) : (s.coupled i).campaign n = s.campaign n := by
  have coupling : (s.recompute.coupling (manifoldOf i)).campaigns = s.campaigns := by
    simp [State.coupling, State.clearCounters, State.roundStart, s.quiet_recompute.campaigns]
  exact (State.spares_recount (s.recompute.coupling (manifoldOf i)) i n).campaign.trans
    (congrArg (PerManifold.get · n) coupling)

theorem State.campaign_lifeChanged (crossed : s.crossed i old = true)
    (unopened : (s.campaign (manifoldOf i)).state ≠ .opening) (n : Manifold) :
    (s.lifeChanged i old).campaign n = s.campaign n := by
  rw [State.lifeChanged_of_crossed crossed, State.examineOpening_of_other (by rw [State.campaign_coupled]; exact unopened)]
  exact ((State.mark_records (s.coupled i) _ _ _).spares n).campaign.trans (s.campaign_coupled i n)

theorem State.freshRound_lifeChanged (crossed : s.crossed i old = true)
    (unopened : (s.campaign (manifoldOf i)).state ≠ .opening) :
    (s.lifeChanged i old).FreshRound (manifoldOf i) ((s.timer (manifoldOf i)).remaining ≠ none) := by
  rw [State.lifeChanged_of_crossed crossed, State.examineOpening_of_other (by rw [State.campaign_coupled]; exact unopened)]
  exact (s.freshRound_coupled i).of_spares ((State.mark_records _ _ _ _).spares _)

theorem State.counters_lifeChanged (crossed : s.crossed i old = true) {j : LoopIx} (same : manifoldOf j = manifoldOf i) :
    ((s.lifeChanged i old).loop j).openCounter = 0 := by
  rw [State.lifeChanged_of_crossed crossed]
  exact ((State.steps_examineOpening _ _).trans (State.steps_markLoop _ i true)).counter j
    ((s.freshRound_coupled i).counters j same)

end

/-! ### A stall (R69, R70) -/

/-- A loop's record once the stall limit has been taken, from the record before the stall (R70, R12). -/
structure Loop.Limited (l : Loop) (life : Lifecycle) (x : Loop) : Prop where
  life : x.life = life
  faults : x.faults = { l.faults with headStall := true }
  homed : x.homed = false
  capacity : x.capacity = none
  stepPos : x.stepPos = none
  position : x.position = none
  stallCount : x.stallCount = 3
  want : x.want = some .home
  config : l.SameConfig x

theorem Loop.Limited.counted {l x y : Loop} {life : Lifecycle} (h : l.Limited life x) (same : x.Counted y) :
    l.Limited life y := by
  rcases same with rfl | rfl
  · exact h
  · obtain ⟨life, faults, homed, capacity, stepPos, position, stallCount, want, config⟩ := h
    obtain ⟨room, length, covering, owner, override, ceiling⟩ := config
    exact ⟨life, faults, homed, capacity, stepPos, position, stallCount, want,
      ⟨room, length, covering, owner, override, ceiling⟩⟩

theorem Loop.stallCount_aimed (l : Loop) : l.aimed.stallCount = l.stallCount := rfl
theorem Loop.stallCount_limited (l : Loop) : l.limited.stallCount = l.stallCount := rfl
theorem Loop.stallCount_unready (l : Loop) (x : Lifecycle) :
    ((l.setLife x).setStroke 0 false).stallCount = l.stallCount := rfl
theorem Loop.life_limited (l : Loop) : l.limited.life = l.life := rfl
theorem Loop.life_stoppedAt (l : Loop) (step stalls : Nat) (driven : Bool) :
    (l.stoppedAt step stalls driven).life = l.life := rfl

section
variable {l : Loop} (limit : 2 ≤ l.stallCount) (step : Nat) (driven : Bool)
include limit

theorem Loop.stallCount_stopped : (l.stoppedAt step 1 driven).stallCount = 3 := by
  have least : min 3 (l.stallCount + 1) = 3 := by omega
  exact least

theorem Loop.limited_homing :
    l.Limited .homing (((l.stoppedAt step 1 driven).limited.setLife .homing).setStroke 0 false).aimed := by
  constructor
  case config => constructor <;> rfl
  case stallCount =>
    rw [Loop.stallCount_aimed, Loop.stallCount_unready, Loop.stallCount_limited, Loop.stallCount_stopped limit]
  all_goals rfl

theorem Loop.limited_retiring : l.Limited l.life ((l.stoppedAt step 1 driven).limited).aimed := by
  have stalls : ((l.stoppedAt step 1 driven).limited).aimed.stallCount = 3 := by
    rw [Loop.stallCount_aimed, Loop.stallCount_limited, Loop.stallCount_stopped limit]
  rcases l with ⟨⟩
  constructor
  case config => constructor <;> rfl
  case stallCount => exact stalls
  all_goals rfl

end

section
variable {s : State} {i : LoopIx}

/-- A READY loop whose lifecycle state has become another one. -/
def State.leftReady (s : State) (i : LoopIx) (new : Lifecycle) : State := s.modLoop i fun l => l.setLife new

theorem State.setLife_eq (s : State) (i : LoopIx) (new : Lifecycle) :
    s.setLife i new = (s.leftReady i new).lifeChanged i (s.loop i).life := rfl

theorem State.loop_leftReady (s : State) (i : LoopIx) (new : Lifecycle) :
    (s.leftReady i new).loop i = (s.loop i).setLife new := s.loop_modLoop_self i _

theorem State.crossed_leftReady {new : Lifecycle} (crosses : (s.loop i).life = .ready ↔ new ≠ .ready) :
    (s.leftReady i new).crossed i (s.loop i).life = true := by
  rw [State.crossed, State.loop_leftReady]
  by_cases ready : (s.loop i).life = .ready
  · simp [ready, crosses.1 ready, Loop.setLife]
  · have enters : new = .ready := by
      by_contra other
      exact ready (crosses.2 other)
    simp [ready, enters, Loop.setLife]

theorem State.spares_leftReady (s : State) (i : LoopIx) (new : Lifecycle) (n : Manifold) :
    s.Spares n (s.leftReady i new) := by
  refine State.spares_modLoop s i ?_ n
  exact fun _ z => z

/-- The record of a loop that has left READY, or not entered it. -/
theorem State.loop_setLife {new : Lifecycle} (unready : new ≠ .ready) :
    (((s.loop i).setLife new).setStroke 0 false).Counted ((s.setLife i new).loop i) := by
  have record := s.loop_leftReady i new
  have changed := (s.leftReady i new).loop_lifeChanged i (s.loop i).life i (by rw [record]; exact unready)
  rwa [record] at changed

end

section
variable {s : State} {m : Move} {step : Nat}

/-- The state of a stalled move once the Head Ports have recorded the stall. -/
def State.stalledAt (s : State) (m : Move) (step : Nat) : State := s.stopAt m .failed (some .stall) step 1

theorem State.loop_stalledAt : ((s.loop m.loop).stoppedAt (s.stopStep m step) 1 (s.drivenTo m step)).Counted
    ((s.stalledAt m step).loop m.loop) := s.loop_stopAt_self m .failed (some .stall) step 1

theorem State.moveStalled_below (below : (s.loop m.loop).stallCount < 2) :
    s.moveStalled m step = s.endsShort m .failed (some .stall) step 1 false := by
  have stalls : ((s.stalledAt m step).loop m.loop).stallCount = min 3 ((s.loop m.loop).stallCount + 1) :=
    State.loop_stalledAt.stallCount
  have after : (s.stalledAt m step).afterStall m = (s.stalledAt m step).parkAgain m := by
    refine if_neg ?_
    rw [stalls]
    have limit : Config.stallLimit = 3 := rfl
    omega
  have whole : s.moveStalled m step = ((((s.stalledAt m step).afterStall m).takeRestartMark m.loop).takeEnd m .failed
      (some .stall) false).tellHead s m.loop := rfl
  rw [whole, after]
  rfl

theorem State.moveStalled_limit (limit : 2 ≤ (s.loop m.loop).stallCount) :
    s.moveStalled m step = ((((s.stalledAt m step).stallLimit m.loop).takeRestartMark m.loop).takeEnd m .failed
      (some .stall) false).tellHead s m.loop := by
  have stalls : ((s.stalledAt m step).loop m.loop).stallCount = min 3 ((s.loop m.loop).stallCount + 1) :=
    State.loop_stalledAt.stallCount
  have after : (s.stalledAt m step).afterStall m = (s.stalledAt m step).stallLimit m.loop := by
    refine if_pos ?_
    rw [stalls]
    have reached : Config.stallLimit = 3 := rfl
    omega
  rw [← after]
  rfl

/-- The state of a stall at the limit before the Loop Table takes it. -/
def State.latched (s : State) (m : Move) (step : Nat) : State :=
  ((s.stalledAt m step).wantHome m.loop).latchStall m.loop

theorem State.loop_latched_stalled (occupied : (s.loop m.loop).life ≠ .vacant) :
    ((s.loop m.loop).stoppedAt (s.stopStep m step) 1 (s.drivenTo m step)).limited.Counted
      ((s.latched m step).loop m.loop) := by
  have stalled : ((s.loop m.loop).stoppedAt (s.stopStep m step) 1 (s.drivenTo m step)).Counted
    ((s.stalledAt m step).loop m.loop) := State.loop_stalledAt
  have occ : ((s.stalledAt m step).loop m.loop).life ≠ .vacant := by rw [stalled.life]; exact occupied
  exact (stalled.map (f := Loop.limited) fun _ => rfl).trans (State.loop_latched occ)

theorem State.life_latched (occupied : (s.loop m.loop).life ≠ .vacant) :
    ((s.latched m step).loop m.loop).life = (s.loop m.loop).life := by
  rw [(State.loop_latched_stalled occupied).life, Loop.life_limited, Loop.life_stoppedAt]

theorem State.touches_stalledAt : State.Touches m.loop s (s.stalledAt m step) := by
  refine ⟨s.onlyDrive_stopAt m _ _ step 1, ?_⟩
  rw [State.stalledAt, State.stopAt, (State.quiet_recount _ m.loop).floorList]
  simp [State.stopRunning]

theorem State.spares_latched (n : Manifold) : s.Spares n (s.latched m step) :=
  ((s.spares_stopAt m .failed (some .stall) step 1 n).trans (State.spares_wantHome _ m.loop n)).trans
    (State.spares_latchStall _ m.loop n)

theorem State.touches_latched : State.Touches m.loop s (s.latched m step) :=
  (State.touches_stalledAt.trans (State.touches_wantHome _ m.loop)).trans (State.touches_latchStall _ m.loop)

theorem State.stallLimit_eq :
    (s.stalledAt m step).stallLimit m.loop = (s.latched m step).lifeAtLimit m.loop := rfl

/-- A READY loop at the limit becomes HOMING (R12). -/
theorem State.stallLimit_ready (ready : (s.loop m.loop).life = .ready) :
    (s.stalledAt m step).stallLimit m.loop = (s.latched m step).setLife m.loop .homing := by
  have latched := State.life_latched (s := s) (m := m) (step := step) (by rw [ready]; exact Lifecycle.noConfusion)
  rw [State.stallLimit_eq, State.lifeAtLimit, if_pos (latched.trans ready)]

theorem State.stallLimit_other (occupied : (s.loop m.loop).life ≠ .vacant) (other : (s.loop m.loop).life ≠ .ready) :
    (s.stalledAt m step).stallLimit m.loop = s.latched m step := by
  have latched := State.life_latched (s := s) (m := m) (step := step) occupied
  rw [State.stallLimit_eq, State.lifeAtLimit, if_neg fun ready => other (latched.symm.trans ready)]

end

section
variable {s : State} {m : Move} {step : Nat}

theorem exec_stall_next (p : s.powered = true) (moving : s.drive.moving = some m) (moves : m.kind ≠ .home) :
    exec (.stall step) s = .next (s.moveStalled m step).tellWatches := by
  rw [exec_stall, execStall, onMove_next p moving, if_neg moves]

theorem DriveState.atEnd_self (d : DriveState) : d.atEnd = d ↔ d ≠ .holding := by
  cases d <;> simp [DriveState.atEnd]

/-- The end of a stall at the limit, as the obligations speak of it: the drive, and the loop's record. -/
structure State.LimitEnds (s : State) (m : Move) (life : Lifecycle) (t : State) : Prop where
  onlyDrive : State.OnlyDrive [m.loop] (s.putDriveState s.drive.state.atEnd) t
  moving : t.drive.moving = none
  dwell : t.drive.dwell = some ⟨m.loop, m.kind, .failed, some .stall, 2⟩
  loop : (s.loop m.loop).Limited life (t.loop m.loop)

theorem State.LimitEnds.of_records {t u : State} {life : Lifecycle} (h : s.LimitEnds m life t) (g : t.SameRecords u) :
    s.LimitEnds m life u :=
  ⟨h.onlyDrive.trans g.onlyDrive, g.drive ▸ h.moving, g.drive ▸ h.dwell, h.loop.counted (.inl (g.loop _))⟩

/-- What the Drive Queue's end makes of a state in which the limit has been taken. -/
theorem State.limitEnds {u : State} {life : Lifecycle} {l : Loop} (moves : m.kind ≠ .home)
    (touches : State.Touches m.loop s u) (record : l.Counted (u.loop m.loop))
    (limited : (s.loop m.loop).Limited life l.aimed) :
    s.LimitEnds m life ((u.takeEnd m .failed (some .stall) false).tellHead s m.loop) := by
  refine ⟨?_, ?_, ?_, ?_⟩
  · have ended := u.onlyDrive_takeEnd m .failed (some .stall) false
    rw [touches.onlyDrive.driveState] at ended
    exact ((touches.onlyDrive.putDriveState _).trans ended).trans (State.quiet_tellHead _ s m.loop).mild.onlyDrive
  · rw [State.drive_tellHead, State.moving_takeEnd]
  · rw [State.drive_tellHead, State.dwell_takeEnd, Move.ended, dwellOf_homed moves]
  · rw [State.loop_tellHead]
    exact limited.counted ((record.map (f := Loop.aimed) fun _ => rfl).trans (u.loop_takeEnd_self m _ _ false))

/-- The state of a READY loop's stall at the limit before the Drive Queue takes the move's end. -/
def State.stalledHome (s : State) (m : Move) (step : Nat) : State := (s.latched m step).setLife m.loop .homing

section
variable (ready : (s.loop m.loop).life = .ready)
include ready

theorem State.loop_stalledHome :
    ((((s.loop m.loop).stoppedAt (s.stopStep m step) 1 (s.drivenTo m step)).limited.setLife .homing).setStroke 0
      false).Counted ((s.stalledHome m step).loop m.loop) := by
  have latched := State.loop_latched_stalled (s := s) (m := m) (step := step) (by rw [ready]; exact Lifecycle.noConfusion)
  exact (latched.map (f := fun l => (l.setLife .homing).setStroke 0 false) fun _ => rfl).trans
    (State.loop_setLife Lifecycle.noConfusion)

theorem State.crossed_stalledHome :
    ((s.latched m step).leftReady m.loop .homing).crossed m.loop ((s.latched m step).loop m.loop).life = true :=
  State.crossed_leftReady
    ⟨fun _ => Lifecycle.noConfusion, fun _ => (State.life_latched (by rw [ready]; exact Lifecycle.noConfusion)).trans ready⟩

theorem State.freshRound_stalledHome (unopened : (s.campaign (manifoldOf m.loop)).state ≠ .opening) :
    (s.stalledHome m step).FreshRound (manifoldOf m.loop) ((s.timer (manifoldOf m.loop)).remaining ≠ none) ∧
      (s.stalledHome m step).campaign (manifoldOf m.loop) = s.campaign (manifoldOf m.loop) := by
  have spares := (State.spares_latched (s := s) (m := m) (step := step) (manifoldOf m.loop)).trans
    (State.spares_leftReady _ m.loop .homing (manifoldOf m.loop))
  have crossed := State.crossed_stalledHome (s := s) (m := m) (step := step) ready
  rw [State.stalledHome, State.setLife_eq]
  generalize (s.latched m step).leftReady m.loop .homing = u at spares crossed
  have fresh := State.freshRound_lifeChanged crossed (by rw [spares.campaign]; exact unopened)
  rw [spares.round.timer] at fresh
  exact ⟨fresh, (State.campaign_lifeChanged crossed (by rw [spares.campaign]; exact unopened) _).trans spares.campaign⟩

theorem State.moveStalled_ready (limit : 2 ≤ (s.loop m.loop).stallCount)
    (unmarked : (s.loop m.loop).restartMark = false) : s.moveStalled m step =
      ((s.stalledHome m step).takeEnd m .failed (some .stall) false).tellHead s m.loop := by
  have mark : ((s.stalledHome m step).loop m.loop).restartMark = false :=
    (State.loop_stalledHome ready).restartMark.trans unmarked
  rw [State.moveStalled_limit limit, State.stallLimit_ready ready, ← State.stalledHome,
    State.takeRestartMark_of_unmarked mark]

end

theorem State.moveStalled_retiring (limit : 2 ≤ (s.loop m.loop).stallCount)
    (retiring : (s.loop m.loop).life = .retiring) (unmarked : (s.loop m.loop).restartMark = false) :
    s.moveStalled m step = ((s.latched m step).takeEnd m .failed (some .stall) false).tellHead s m.loop := by
  have occupied : (s.loop m.loop).life ≠ .vacant := by rw [retiring]; exact Lifecycle.noConfusion
  have mark : ((s.latched m step).loop m.loop).restartMark = false :=
    (State.loop_latched_stalled occupied).restartMark.trans unmarked
  rw [State.moveStalled_limit limit, State.stallLimit_other occupied (by rw [retiring]; exact Lifecycle.noConfusion),
    State.takeRestartMark_of_unmarked mark]

end

end Sys2Proof.Machine

open Sys2Proof Sys2Proof.Machine

/-- Settles O30, by the three cases of R91: a running HOME, no move, and a move that stops short. -/
theorem stopEndsTheMove : Obligations.StopEndsTheMove := by
  intro s k x step h service
  have stop := h.ordered (c := .stop [] step) service (exec_stop [] step s)
  have heard := s.heard_records k x
  refine ⟨fun m moving home => ?_, fun still => ?_, fun m moving moves unmarked cap capacity start place low high => ?_⟩
  · rw [State.stop_home (s := s.heard k x) moving home] at stop
    exact ⟨_, stop, s.onlyAnswers_finish k x .locked []⟩
  · rw [State.stop_still (s := s.heard k x) still] at stop
    have finish := Taken.finish_records ⟨.done, [], (s.heard k x).setDriveState .held⟩ k
    refine ⟨_, stop, s.replies_setDriveState k x .held .done, finish.drive.trans (s.heard k x).drive_setDriveState_held,
      ?_, fun moves => (State.halts_ordered moves DriveState.noConfusion .done).measurementStops⟩
    exact ((heard.onlyDrive.putDriveState .held).trans (State.onlyDrive_setDriveState _ _)).trans finish.onlyDrive
  · rw [State.stop_move (s := s.heard k x) moving moves, State.moveStopped_eq] at stop
    have stops := State.legStops (s := s.heard k x) (ending := .aborted) (reason := some .stop) (stalls := 0) true moves
      unmarked capacity (State.stopStep_eq (s := s.heard k x) capacity place low high)
    have driven := State.drivenTo_iff (s := s.heard k x) (m := m) place
      (State.stopStep_eq (s := s.heard k x) capacity place low high)
    have link : ((s.heard k x).endsShort m .aborted (some .stop) step 0 true).link = (s.heard k x).link :=
      ((s.heard k x).steps_moveStopped m step).calm.link
    have measured (runs : s.drive.state ≠ .held) :=
      State.measurementStops_endsShort (s := s.heard k x) (m := m) runs unmarked .aborted (some .stop) step 0
    generalize (s.heard k x).endsShort m .aborted (some .stop) step 0 true = u at stop stops link measured
    have finish := Taken.finish_records ⟨.done, [], u⟩ k
    obtain ⟨onlyDrive, rests, dwell, loop⟩ := stops.of_records finish
    refine ⟨_, stop, State.replies_finish link .done [], ?_, rests, dwell, loop.stepPos, loop.position, loop.stallCount,
      loop.homed, loop.life, loop.pendingTarget, loop.commanded, loop.want, loop.idleDays.trans ?_, fun moves => ?_⟩
    · exact ((heard.onlyDrive.putDriveState .held).widen [m.loop]).then rfl onlyDrive
    · simp only [driven]
      rfl
    · exact (State.MeasurementStops.after (fun n => heard.spares n) (measured moves)).of_records finish

/-- Settles O40, by the stall count: below the limit the move stops short, at the limit the head is homed afresh. -/
theorem stallsAreCountedToTheLimit : Obligations.StallsAreCountedToTheLimit := by
  intro s m step cap start p moving moves unmarked capacity place low high
  have stalled := exec_stall_next (step := step) p moving moves
  have link : (s.moveStalled m step).link = s.link := (s.steps_moveStalled m step).calm.link
  have told := (s.moveStalled m step).tellWatches_records
  have stops := State.stopStep_eq capacity place low high
  refine ⟨fun below => ?_, fun limit ready => ?_, fun limit retiring => ?_⟩
  · have ends := State.legStops (ending := .failed) (reason := some .stall) (stalls := 1) false moves unmarked capacity
      stops
    rw [← State.moveStalled_below below] at ends
    obtain ⟨onlyDrive, rests, dwell, loop⟩ := ends.of_records told
    have counted : min 3 ((s.loop m.loop).stallCount + 1) = (s.loop m.loop).stallCount + 1 := by omega
    refine ⟨_, stalled, State.linkKept_told link, onlyDrive, rests, dwell, loop.stepPos, loop.position,
      loop.stallCount.trans counted, loop.homed, loop.life, loop.faults, loop.config, loop.pendingTarget,
      loop.commanded, loop.want, loop.idleDays.trans ?_⟩
    simp only [State.drivenTo_iff place stops]
  · have ends := State.limitEnds (u := s.stalledHome m step) moves
      (State.touches_latched.trans (State.touches_setLife _ m.loop .homing)) (State.loop_stalledHome ready)
      (Loop.limited_homing limit _ _)
    have commanded := (State.commanded_setLife (s.latched m step) m.loop .homing).of_demand
      ((State.sameDemand_takeEnd _ m .failed (some .stall) false).trans (State.sameDemand_tellHead _ s m.loop))
    have state : (s.stalledHome m step).drive.state = s.drive.state :=
      (State.touches_latched.trans (State.touches_setLife _ m.loop .homing)).onlyDrive.driveState
    have after : (s.moveStalled m step).tellWatches.drive.state = s.drive.state.atEnd := by
      rw [told.drive, State.moveStalled_ready ready limit unmarked, State.drive_tellHead, State.driveState_takeEnd, state,
        DriveState.afterEnd_not]
    have fresh (unopened : (s.campaign (manifoldOf m.loop)).state ≠ .opening) :
        (s.moveStalled m step).FreshRound (manifoldOf m.loop)
          ((s.timer (manifoldOf m.loop)).remaining ≠ none ∧ s.drive.state ≠ .holding) := by
      obtain ⟨round, campaign⟩ := State.freshRound_stalledHome (step := step) ready unopened
      have ended := round.takeEnd (by rw [campaign]; exact unopened) m .failed (some .stall)
      rw [state] at ended
      rw [State.moveStalled_ready ready limit unmarked]
      exact ended.of_spares ((State.records_markLoopIf _ _ _ _).spares _)
    have zero (j : LoopIx) (same : manifoldOf j = manifoldOf m.loop) : ((s.moveStalled m step).loop j).openCounter = 0 := by
      have coupled := State.counters_lifeChanged (State.crossed_stalledHome (step := step) ready) same
      rw [State.moveStalled_ready ready limit unmarked]
      exact ((State.steps_takeEnd _ m .failed (some .stall) false).trans (State.steps_tellHead _ s m.loop)).counter j coupled
    rw [← State.stalledHome, ← State.moveStalled_ready ready limit unmarked] at commanded
    rw [← State.moveStalled_ready ready limit unmarked] at ends
    obtain ⟨onlyDrive, rests, dwell, loop⟩ := ends.of_records told
    refine ⟨_, stalled, State.linkKept_told link, onlyDrive, rests, dwell, loop.life, loop.faults, loop.homed,
      loop.capacity, loop.stepPos, loop.position, loop.stallCount, loop.want, loop.config, commanded.of_records told,
      fun unopened => ((fresh unopened).of_spares (told.spares _)).congr ?_, fun j same => ?_⟩
    · rw [after, DriveState.atEnd_self]
    · rw [told.loop]
      exact zero j same
  · have occupied : (s.loop m.loop).life ≠ .vacant := by rw [retiring]; exact Lifecycle.noConfusion
    have ends := State.limitEnds (u := s.latched m step) moves State.touches_latched
      (State.loop_latched_stalled occupied) (Loop.limited_retiring limit _ _)
    rw [← State.moveStalled_retiring limit retiring unmarked] at ends
    obtain ⟨onlyDrive, rests, dwell, loop⟩ := ends.of_records told
    exact ⟨_, stalled, State.linkKept_told link, onlyDrive, rests, dwell, loop.life.trans retiring, loop.faults,
      loop.homed, loop.capacity, loop.stepPos, loop.position, loop.stallCount, loop.want, loop.config⟩
end

section
/-! PROOF. O38 and O39: homing, as it fails and as it succeeds (R65 to R67, R11), and the end-stops of the other legs (R63). -/

namespace Sys2Proof.Machine

/-! ### A homing over (R66, R67, R11) -/

section
variable (s : State) (i : LoopIx) (b : Bool)

theorem State.loop_homeEnded : ((s.loop i).setWant none).Counted ((s.homeEnded i b).loop i) := by
  have ended := (s.counted_homeEnded i b).loop i
  rwa [State.endWant, State.loop_modLoop_self] at ended

theorem State.touches_homeEnded : State.Touches i s (s.homeEnded i b) := (s.mild_homeEnded i b).touches i

theorem State.spares_homeEnded {s : State} {i : LoopIx} {b : Bool} {n : Manifold}
    (h : (s.campaign n).state ≠ .opening ∨ b = false) : s.Spares n (s.homeEnded i b) := by
  have ended : s.Spares n ((s.endWant i).recount i) :=
    (State.spares_modLoop s i (f := fun l => l.setWant none) (fun _ z => z) n).trans (State.spares_recount _ i n)
  have told (t : State) : t.Spares n (t.tellWork s i) :=
    ((State.records_markLoopIf _ _ _ _).trans (State.records_markLoopIf _ _ _ _)).spares n
  unfold State.homeEnded State.examineOpeningIf
  rcases h with unopened | rfl
  · split_ifs
    · exact (ended.trans (State.spares_examineOpening (by rw [ended.campaign]; exact unopened) _)).trans (told _)
    · exact ended.trans (told _)
  · exact ended.trans (told _)

end

/-- The state of a homing's end once the Head Ports have recorded it. -/
def State.homingOver (s : State) (m : Move) (e : MoveEnd) (r : Option EndReason) (f : Loop → Loop) : State :=
  (s.stopRunning m e r).modLoop m.loop f

section
variable (s : State) (m : Move) (e : MoveEnd) (r : Option EndReason) (f : Loop → Loop)

theorem State.loop_homingOver : (s.homingOver m e r f).loop m.loop = f (s.loop m.loop) :=
  State.loop_modLoop_self _ _ _

theorem State.loop_homingOver_ne {j : LoopIx} (h : j ≠ m.loop) : (s.homingOver m e r f).loop j = s.loop j :=
  State.loop_modLoop_ne _ h _

theorem State.touches_homingOver : State.Touches m.loop s (s.homingOver m e r f) :=
  State.Touches.trans ⟨(s.onlyDrive_stopRunning m e r).widen [m.loop], rfl⟩ (State.touches_modLoop _ m.loop f)

theorem State.drive_homingOver :
    (s.homingOver m e r f).drive = { s.drive with moving := none, dwell := some (m.ended e r) } := rfl

theorem State.spares_homingOver {f : Loop → Loop} (z : ∀ l : Loop, l.openCounter = 0 → (f l).openCounter = 0)
    (n : Manifold) : s.Spares n (s.homingOver m e r f) :=
  (s.spares_stopRunning m e r n).trans (State.spares_modLoop _ m.loop z n)

end

/-- What a homing's end leaves of the driver, in the words of the obligations. -/
structure State.HomingEnds (s : State) (m : Move) (e : MoveEnd) (r : Option EndReason) (t : State) : Prop where
  onlyDrive : State.OnlyDrive [m.loop] (s.putDriveState s.drive.state.atEnd) t
  moving : t.drive.moving = none
  dwell : t.drive.dwell = some ⟨m.loop, .home, e, r, 10⟩
  state : t.drive.state = s.drive.state.atEnd

theorem State.HomingEnds.of_records {s t u : State} {m : Move} {e : MoveEnd} {r : Option EndReason}
    (h : s.HomingEnds m e r t) (g : t.SameRecords u) : s.HomingEnds m e r u :=
  ⟨h.onlyDrive.trans g.onlyDrive, g.drive ▸ h.moving, g.drive ▸ h.dwell, g.drive ▸ h.state⟩

theorem State.homingEnds {s u : State} {m : Move} {e : MoveEnd} {r : Option EndReason} (home : m.kind = .home)
    (before : State.OnlyDrive [m.loop] s u) : s.HomingEnds m e r ((u.takeEnd m e r false).tellHead s m.loop) := by
  refine ⟨?_, ?_, ?_, ?_⟩
  · have ended := u.onlyDrive_takeEnd m e r false
    rw [before.driveState] at ended
    exact ((before.putDriveState _).trans ended).trans (State.quiet_tellHead _ s m.loop).mild.onlyDrive
  · rw [State.drive_tellHead, State.moving_takeEnd]
  · rw [State.drive_tellHead, State.dwell_takeEnd, Move.ended, home]
    rfl
  · rw [State.drive_tellHead, State.driveState_takeEnd, before.driveState, DriveState.afterEnd_not]

/-- The record of the homed loop once the Drive Queue has taken the end. -/
theorem State.loop_homingEnds {s u : State} {m : Move} {l : Loop} (record : l.Counted (u.loop m.loop)) (e : MoveEnd)
    (r : Option EndReason) : l.aimed.Counted (((u.takeEnd m e r false).tellHead s m.loop).loop m.loop) := by
  rw [State.loop_tellHead]
  exact (record.map (f := Loop.aimed) fun _ => rfl).trans (u.loop_takeEnd_self m e r false)

/-! #### A homing that fails (R67) -/

/-- The state of a failed homing before the Loop Table takes it. -/
def State.homeFailing (s : State) (m : Move) (reason : EndReason) (driven : Bool) : State :=
  (s.homingOver m .failed (some reason) fun l => l.homeLost driven).homeEnded m.loop true

section
variable {s : State} {m : Move} (reason : EndReason) (driven : Bool)

theorem State.homeFailed_eq : s.homeFailed m reason driven =
    ((((s.homeFailing m reason driven).failTaken m.loop).takeRestartMark m.loop).takeEnd m .failed (some reason)
      false).tellHead s m.loop := rfl

theorem State.loop_homeFailing :
    (((s.loop m.loop).homeLost driven).setWant none).Counted ((s.homeFailing m reason driven).loop m.loop) := by
  have ended := (s.homingOver m .failed (some reason) fun l => l.homeLost driven).loop_homeEnded m.loop true
  rwa [State.loop_homingOver] at ended

theorem State.touches_homeFailing : State.Touches m.loop s (s.homeFailing m reason driven) :=
  (s.touches_homingOver m _ _ _).trans (State.touches_homeEnded _ _ _)

theorem State.life_homeFailing : ((s.homeFailing m reason driven).loop m.loop).life = (s.loop m.loop).life :=
  (State.loop_homeFailing reason driven).life

theorem State.failTaken_homing {u : State} {i : LoopIx} (homing : (u.loop i).life = .homing) :
    u.failTaken i = (u.modLoop i fun l => l.setFaults l.faults.withFail).setLife i .enrolled := by
  simp only [State.failTaken, homing]

theorem State.failTaken_retiring {u : State} {i : LoopIx} (retiring : (u.loop i).life = .retiring) :
    u.failTaken i = u.becomeVacant i := by
  simp only [State.failTaken, retiring]

theorem State.failTaken_other {u : State} {i : LoopIx} (homing : (u.loop i).life ≠ .homing)
    (retiring : (u.loop i).life ≠ .retiring) : u.failTaken i = u := by
  unfold State.failTaken
  split
  next h => exact absurd h homing
  next h => exact absurd h retiring
  · rfl

/-- A HOMING loop's record after a failed homing (R11, R67). -/
def Loop.failed (l : Loop) (driven : Bool) : Loop :=
  ((((l.homeLost driven).setWant none).setFaults l.faults.withFail).setLife .enrolled).setStroke 0 false

theorem State.loop_failTaken_homing (homing : (s.loop m.loop).life = .homing) :
    ((s.loop m.loop).failed driven).Counted (((s.homeFailing m reason driven).failTaken m.loop).loop m.loop) := by
  have failing := State.loop_homeFailing (s := s) (m := m) reason driven
  rw [State.failTaken_homing (failing.life.trans homing)]
  have faulted : ((((s.loop m.loop).homeLost driven).setWant none).setFaults
      (((s.loop m.loop).homeLost driven).setWant none).faults.withFail).Counted
      ((((s.homeFailing m reason driven).modLoop m.loop fun l => l.setFaults l.faults.withFail)).loop m.loop) := by
    rw [State.loop_modLoop_self]
    exact failing.map (f := fun l => l.setFaults l.faults.withFail) fun _ => rfl
  exact (faulted.map (f := fun l => (l.setLife .enrolled).setStroke 0 false) fun _ => rfl).trans
    (State.loop_setLife Lifecycle.noConfusion)

theorem State.touches_failTaken_homing (homing : (s.loop m.loop).life = .homing) :
    State.Touches m.loop s ((s.homeFailing m reason driven).failTaken m.loop) := by
  have failing := State.loop_homeFailing (s := s) (m := m) reason driven
  rw [State.failTaken_homing (failing.life.trans homing)]
  exact ((State.touches_homeFailing reason driven).trans (State.touches_modLoop _ m.loop _)).trans
    (State.touches_setLife _ m.loop _)

/-- The record of a RETIRING loop whose homing failed (R11, R14). -/
theorem State.loop_failTaken_retiring (retiring : (s.loop m.loop).life = .retiring) :
    ((s.homeFailing m reason driven).failTaken m.loop).loop m.loop = ((s.loop m.loop).homeLost driven).vacated := by
  have failing := State.loop_homeFailing (s := s) (m := m) reason driven
  rw [State.failTaken_retiring (failing.life.trans retiring), State.loop_becomeVacant, failing.vacated]
  rfl

theorem State.onlyDrive_failTaken_retiring (retiring : (s.loop m.loop).life = .retiring) :
    State.OnlyDrive [m.loop] s ((s.homeFailing m reason driven).failTaken m.loop) := by
  have failing := State.touches_homeFailing (s := s) (m := m) reason driven
  rw [State.failTaken_retiring ((State.life_homeFailing reason driven).trans retiring)]
  exact failing.onlyDrive.then failing.floorList (State.vacates_becomeVacant _ m.loop).onlyDrive

theorem State.not_mem_failTaken_retiring (retiring : (s.loop m.loop).life = .retiring) :
    m.loop ∉ ((s.homeFailing m reason driven).failTaken m.loop).floorList := by
  rw [State.failTaken_retiring ((State.life_homeFailing reason driven).trans retiring),
    (State.vacates_becomeVacant _ m.loop).floorList]
  simp

end

theorem State.floorList_takeEnd (u s : State) (m : Move) (e : MoveEnd) (r : Option EndReason) (i : LoopIx) :
    ((u.takeEnd m e r false).tellHead s i).floorList = u.floorList := by
  rw [(State.quiet_tellHead _ s i).floorList, (u.mild_takeEnd m e r false).floorList]
  simp [State.stopRunning]

/-- What of a loop's record a failed homing of a HOMING loop leaves (R11, R67). -/
structure Loop.HomeFailed (l x : Loop) : Prop where
  life : x.life = .enrolled
  faults : x.faults = { l.faults with headFail := true }
  homed : x.homed = false
  capacity : x.capacity = none
  stepPos : x.stepPos = none
  position : x.position = none
  stallCount : x.stallCount = l.stallCount
  want : x.want = none
  config : l.SameConfig x

theorem Loop.homeFailed_aimed (l : Loop) (driven : Bool) : l.HomeFailed (l.failed driven).aimed := by
  rcases l with ⟨⟩
  constructor
  case config => constructor <;> rfl
  all_goals rfl

theorem Loop.HomeFailed.counted {l x y : Loop} (h : l.HomeFailed x) (same : x.Counted y) : l.HomeFailed y := by
  rcases same with rfl | rfl
  · exact h
  · obtain ⟨life, faults, homed, capacity, stepPos, position, stallCount, want, config⟩ := h
    obtain ⟨room, length, covering, owner, override, ceiling⟩ := config
    exact ⟨life, faults, homed, capacity, stepPos, position, stallCount, want,
      ⟨room, length, covering, owner, override, ceiling⟩⟩

/-- The three ways in which a homing fails, with the reasons of their ends (R65, R66). -/
theorem exec_homeFailed {s : State} {m : Move} {n : Nat} (p : s.powered = true) (moving : s.drive.moving = some m)
    (home : m.kind = .home) {c : Instr × EndReason}
    (h : c ∈ [(Instr.homingTravelLimit, EndReason.travel), (.stall n, .stall)] ++
      (if m.leg = .second ∧ n < 200 then [(.endStopReached .openEnd n, .travel)] else [])) :
    ∃ driven, exec c.1 s = .next (s.homeFailed m c.2 driven).tellWatches := by
  rw [List.mem_append, List.mem_cons, List.mem_singleton] at h
  rcases h with (rfl | rfl) | h
  · exact ⟨true, by rw [exec_homingTravelLimit, execHomingTravelLimit, onMove_next p moving, if_pos home]⟩
  · exact ⟨m.driven || decide (0 < n), by rw [exec_stall, execStall, onMove_next p moving, if_pos home]⟩
  · obtain ⟨⟨leg, short⟩, mem⟩ := List.mem_ite_nil_right.1 h
    rw [List.mem_singleton.1 mem]
    have fails : s.homeEndStop m .openEnd n = s.homeFailed m .travel (m.driven || decide (0 < n)) := by
      simp only [State.homeEndStop, leg]
      exact if_pos short
    exact ⟨m.driven || decide (0 < n), by
      rw [exec_endStopReached, execEndStopReached, onMove_next p moving, if_pos home, fails]⟩

section
variable {s : State} {m : Move} (home : m.kind = .home) (unmarked : (s.loop m.loop).restartMark = false)
  (reason : EndReason) (driven : Bool)
include home unmarked

theorem State.homeFailed_homing (homing : (s.loop m.loop).life = .homing) :
    s.HomingEnds m .failed (some reason) (s.homeFailed m reason driven) ∧
      (s.loop m.loop).HomeFailed ((s.homeFailed m reason driven).loop m.loop) := by
  have record := State.loop_failTaken_homing (driven := driven) (reason := reason) homing
  have touches := State.touches_failTaken_homing (driven := driven) (reason := reason) homing
  have mark : (((s.homeFailing m reason driven).failTaken m.loop).loop m.loop).restartMark = false :=
    record.restartMark.trans unmarked
  rw [State.homeFailed_eq, State.takeRestartMark_of_unmarked mark]
  exact ⟨State.homingEnds home touches.onlyDrive,
    (Loop.homeFailed_aimed _ driven).counted (State.loop_homingEnds record _ _)⟩

omit unmarked in
theorem State.homeFailed_retiring (retiring : (s.loop m.loop).life = .retiring) :
    s.HomingEnds m .failed (some reason) (s.homeFailed m reason driven) ∧
      (s.homeFailed m reason driven).loop m.loop = ((s.loop m.loop).homeLost driven).vacated ∧
        m.loop ∉ (s.homeFailed m reason driven).floorList := by
  have record := State.loop_failTaken_retiring (driven := driven) (reason := reason) retiring
  have mark : (((s.homeFailing m reason driven).failTaken m.loop).loop m.loop).restartMark = false := by rw [record]; rfl
  rw [State.homeFailed_eq, State.takeRestartMark_of_unmarked mark]
  have loop := State.loop_homingEnds (s := s) (.inl record) .failed (some reason)
  rw [Loop.aimed_vacated] at loop
  exact ⟨State.homingEnds home (State.onlyDrive_failTaken_retiring _ _ retiring), loop.elim id id,
    by rw [State.floorList_takeEnd]; exact State.not_mem_failTaken_retiring reason driven retiring⟩

end

/-! #### A homing that succeeds (R66) -/

/-- The state of a successful homing before the Loop Table takes it. -/
def State.homeReached (s : State) (m : Move) (count : Nat) : State :=
  (s.homingOver m .done none fun l => l.homedAt count).homeEnded m.loop (decide ((s.loop m.loop).life ≠ .retiring))

section
variable {s : State} {m : Move} (count : Nat)

theorem State.homeDone_eq : s.homeDone m count =
    ((((s.homeReached m count).homeTaken m.loop).takeRestartMark m.loop).takeEnd m .done none false).tellHead s
      m.loop := rfl

theorem State.loop_homeReached :
    (((s.loop m.loop).homedAt count).setWant none).Counted ((s.homeReached m count).loop m.loop) := by
  have ended := (s.homingOver m .done none fun l => l.homedAt count).loop_homeEnded m.loop
    (decide ((s.loop m.loop).life ≠ .retiring))
  rwa [State.loop_homingOver] at ended

theorem State.touches_homeReached : State.Touches m.loop s (s.homeReached m count) :=
  (s.touches_homingOver m _ _ _).trans (State.touches_homeEnded _ _ _)

theorem State.homeTaken_homing {u : State} {i : LoopIx} (homing : (u.loop i).life = .homing) :
    u.homeTaken i = u.setLife i .ready := by
  simp only [State.homeTaken, homing]

theorem State.homeTaken_retiring {u : State} {i : LoopIx} (retiring : (u.loop i).life = .retiring) :
    u.homeTaken i = u.want i .park := by
  simp only [State.homeTaken, retiring]

theorem State.homeTaken_other {u : State} {i : LoopIx} (homing : (u.loop i).life ≠ .homing)
    (retiring : (u.loop i).life ≠ .retiring) : u.homeTaken i = u := by
  unfold State.homeTaken
  split
  next h => exact absurd h homing
  next h => exact absurd h retiring
  · rfl

/-- The state of a HOMING loop that has become READY, before its reports. -/
def State.homeReady (s : State) (m : Move) (count : Nat) : State := (s.homeReached m count).leftReady m.loop .ready

theorem State.homeTaken_homeReached (homing : (s.loop m.loop).life = .homing) :
    (s.homeReached m count).homeTaken m.loop = (s.homeReady m count).lifeChanged m.loop .homing := by
  have life : ((s.homeReached m count).loop m.loop).life = .homing := (State.loop_homeReached count).life.trans homing
  rw [State.homeTaken_homing life, State.setLife_eq, life]
  rfl

theorem State.loop_homeReady :
    ((((s.loop m.loop).homedAt count).setWant none).setLife .ready).Counted ((s.homeReady m count).loop m.loop) := by
  rw [State.homeReady, State.loop_leftReady]
  exact (State.loop_homeReached count).map (f := fun l => l.setLife .ready) fun _ => rfl

theorem State.crossed_homeReady : (s.homeReady m count).crossed m.loop .homing = true := by
  rw [State.crossed, (State.loop_homeReady count).life]
  rfl

theorem State.moving_homeReached : (s.homeReached m count).drive.moving = none :=
  (State.mild_homeEnded _ _ _).moving.trans rfl

end

/-- A recompute reads a change of the lifecycle state, and reports it; what comes after changes open counters alone. -/
theorem State.loop_lifeChanged_counted (s : State) (i : LoopIx) (old : Lifecycle) (j : LoopIx) :
    (s.recompute.loop j).Counted ((s.lifeChanged i old).loop j) := by
  have c : s.recompute.Counted (s.lifeChanged i old) := by
    unfold State.lifeChanged
    refine .trans ?_ (State.counted_of_loops fun _ => State.loop_markLoop _ _ _ _)
    refine .trans ?_ (State.counted_examineOpeningIf _ _ _)
    exact .trans (State.counted_couplingIf _ _ _) (State.counted_recount _ _)
  exact c.loop j

/-- A loop's record with a new stroke, and a POSITION want where the stroke has changed (R84). -/
def Loop.commandedTo (l : Loop) (stroke : Nat) (held : Bool) : Loop :=
  if l.commanded ≠ stroke then (l.setStroke stroke held).setWant (some .position) else l.setStroke stroke held

/-- A recompute of a READY loop that wants nothing and whose move does not run (R84, R117). -/
theorem State.loop_recompute_unwanted {s : State} {i : LoopIx} (ready : (s.loop i).life = .ready)
    (want : (s.loop i).want = none) (still : s.drive.moving = none) :
    ∃ stroke held, ((s.loop i).commandedTo stroke held).Counted (s.recompute.loop i) := by
  refine ⟨s.newStroke s.floorWalk.1 i, s.floorWalk.1.contains i, ?_⟩
  have moving : s.movingLoop i = false := by
    unfold State.movingLoop
    rw [still]
  have record := s.loop_evaluated i
  rw [s.loop_recompute_eq, record, moving]
  by_cases moved : (s.loop i).commanded ≠ s.newStroke s.floorWalk.1 i
  · rw [if_pos ⟨ready, moved⟩, Loop.commandedTo, if_pos moved, Loop.strokeTaken, if_neg (by simp), if_pos]
    · exact .inr rfl
    · have wants : ((s.loop i).setStroke (s.newStroke s.floorWalk.1 i) (s.floorWalk.1.contains i)).want = none := want
      rw [wants]
      rfl
  · rw [if_neg fun h => moved h.2, Loop.commandedTo, if_neg moved]
    exact .refl _

/-- What of a loop's record a successful homing of a HOMING loop leaves (R11, R66, R84, R87). -/
structure Loop.HomeDone (l : Loop) (count : Nat) (x : Loop) : Prop where
  life : x.life = .ready
  homed : x.homed = true
  capacity : x.capacity = some count
  stepPos : x.stepPos = some count
  position : x.position = some 1000
  stallCount : x.stallCount = 0
  idleDays : x.idleDays = 0
  faults : x.faults = l.faults
  config : l.SameConfig x
  want : x.want = if x.commanded = 1000 ∧ l.commanded = 1000 then none else some .position

theorem Loop.HomeDone.counted {l x y : Loop} {count : Nat} (h : l.HomeDone count x) (same : x.Counted y) :
    l.HomeDone count y := by
  rcases same with rfl | rfl
  · exact h
  · obtain ⟨life, homed, capacity, stepPos, position, stallCount, idleDays, faults, config, want⟩ := h
    obtain ⟨room, length, covering, owner, override, ceiling⟩ := config
    exact ⟨life, homed, capacity, stepPos, position, stallCount, idleDays, faults,
      ⟨room, length, covering, owner, override, ceiling⟩, want⟩

/-- A loop's record as its homing has made it READY, before the recompute. -/
def Loop.homedReady (l : Loop) (count : Nat) : Loop := ((l.homedAt count).setWant none).setLife .ready

theorem Loop.want_homedReady (l : Loop) (count stroke : Nat) (held : Bool) :
    ((l.homedReady count).commandedTo stroke held).aimed.want =
      if stroke = 1000 ∧ l.commanded = 1000 then none else some .position := by
  have before : (l.homedReady count).commanded = l.commanded := rfl
  by_cases moved : l.commanded = stroke
  · rw [Loop.commandedTo, if_neg (by rw [before, not_not]; exact moved)]
    by_cases full : stroke = 1000
    · simp [Loop.aimed, Loop.homedReady, Loop.homedAt, Loop.setWant, Loop.setLife, Loop.setStroke, Loop.setPending,
        Loop.wantAt, Config.fullStroke, full, moved]
    · have other : (1000 : Nat) ≠ stroke := fun e => full e.symm
      simp [Loop.aimed, Loop.homedReady, Loop.homedAt, Loop.setWant, Loop.setLife, Loop.setStroke, Loop.setPending,
        Loop.wantAt, Config.fullStroke, full, other, supersede]
  · rw [Loop.commandedTo, if_pos (by rw [before]; exact moved), if_neg fun both => moved (both.2.trans both.1.symm)]
    simp [Loop.aimed, Loop.homedReady, Loop.homedAt, Loop.setWant, Loop.setLife, Loop.setStroke, Loop.setPending,
      Loop.wantAt, supersede]

theorem Loop.homeDone_aimed (l : Loop) (count stroke : Nat) (held : Bool) :
    l.HomeDone count ((l.homedReady count).commandedTo stroke held).aimed := by
  have want := l.want_homedReady count stroke held
  by_cases moved : (l.homedReady count).commanded ≠ stroke
  · rw [Loop.commandedTo, if_pos moved] at want ⊢
    rcases l with ⟨⟩
    constructor
    case config => constructor <;> rfl
    case want => exact want
    all_goals rfl
  · rw [Loop.commandedTo, if_neg moved] at want ⊢
    rcases l with ⟨⟩
    constructor
    case config => constructor <;> rfl
    case want => exact want
    all_goals rfl

theorem Loop.commandedTo_zeroCounter (l : Loop) (stroke : Nat) (held : Bool) :
    l.zeroCounter.commandedTo stroke held = (l.commandedTo stroke held).zeroCounter :=
  (apply_ite Loop.zeroCounter (l.commanded ≠ stroke) ((l.setStroke stroke held).setWant (some .position))
    (l.setStroke stroke held)).symm

section
variable {s : State} {m : Move} (count : Nat)

theorem State.spares_takeEnd {s : State} {n : Manifold} (unopened : (s.campaign n).state ≠ .opening)
    (free : s.drive.state ≠ .holding) (m : Move) (e : MoveEnd) (r : Option EndReason) :
    s.Spares n (s.takeEnd m e r false) := by
  have stopped := s.spares_stopRunning m e r n
  unfold State.takeEnd State.holdAtEnd
  rw [if_neg (by simp [stopped.driveState, free])]
  exact stopped.trans (State.spares_aimed (by rw [stopped.campaign]; exact unopened) _ _ _ _)

/-- The record of the homed loop as the Loop Table has taken the success. -/
theorem State.loop_homedReady :
    ∃ stroke held, (((s.loop m.loop).homedReady count).commandedTo stroke held).Counted
      (((s.homeReady m count).lifeChanged m.loop .homing).loop m.loop) := by
  have record := State.loop_homeReady (s := s) (m := m) count
  have still : (s.homeReady m count).drive.moving = none := State.moving_homeReached count
  obtain ⟨stroke, held, counted⟩ := State.loop_recompute_unwanted (i := m.loop) record.life record.want still
  refine ⟨stroke, held, ?_⟩
  exact ((record.map (f := fun l => l.commandedTo stroke held) fun l => l.commandedTo_zeroCounter stroke held).trans
    counted).trans (State.loop_lifeChanged_counted _ _ _ _)

theorem State.touches_homedReady : State.Touches m.loop s ((s.homeReady m count).lifeChanged m.loop .homing) :=
  ((State.touches_homeReached count).trans (State.touches_modLoop _ m.loop _)).trans
    ((State.mild_lifeChanged _ m.loop _).touches m.loop)

section
variable (homing : (s.loop m.loop).life = .homing) (unmarked : (s.loop m.loop).restartMark = false)
include homing unmarked

theorem State.homeDone_ready : s.homeDone m count =
    (((s.homeReady m count).lifeChanged m.loop .homing).takeEnd m .done none false).tellHead s m.loop := by
  obtain ⟨stroke, held, record⟩ := State.loop_homedReady (s := s) (m := m) count
  have mark : (((s.homeReady m count).lifeChanged m.loop .homing).loop m.loop).restartMark = false := by
    rw [record.restartMark]
    refine Eq.trans ?_ unmarked
    unfold Loop.commandedTo
    split_ifs <;> rfl
  rw [State.homeDone_eq, State.homeTaken_homeReached count homing, State.takeRestartMark_of_unmarked mark]

theorem State.homeDone_homing (home : m.kind = .home) : s.HomingEnds m .done none (s.homeDone m count) ∧
    (s.loop m.loop).HomeDone count ((s.homeDone m count).loop m.loop) := by
  obtain ⟨stroke, held, record⟩ := State.loop_homedReady (s := s) (m := m) count
  rw [State.homeDone_ready count homing unmarked]
  exact ⟨State.homingEnds home (State.touches_homedReady count).onlyDrive,
    (Loop.homeDone_aimed _ count stroke held).counted (State.loop_homingEnds record _ _)⟩

theorem State.commanded_homeDone : (s.homeDone m count).Commanded (s.homeDone m count) := by
  rw [State.homeDone_ready count homing unmarked]
  exact (State.commanded_lifeChanged _ m.loop .homing).of_demand
    ((State.sameDemand_takeEnd _ m .done none false).trans (State.sameDemand_tellHead _ s m.loop))

theorem State.counters_homeDone {j : LoopIx} (same : manifoldOf j = manifoldOf m.loop) :
    ((s.homeDone m count).loop j).openCounter = 0 := by
  rw [State.homeDone_ready count homing unmarked]
  exact ((State.steps_takeEnd _ m .done none false).trans (State.steps_tellHead _ s m.loop)).counter j
    (State.counters_lifeChanged (State.crossed_homeReady count) same)

omit homing unmarked in
theorem State.spares_homeReached {n : Manifold} (unopened : (s.campaign n).state ≠ .opening) :
    s.Spares n (s.homeReached m count) := by
  have recorded := s.spares_homingOver m .done none (f := fun l => l.homedAt count) (fun _ z => z) n
  exact recorded.trans (State.spares_homeEnded (.inl (by rw [recorded.campaign]; exact unopened)))

theorem State.freshRound_homeDone (unopened : (s.campaign (manifoldOf m.loop)).state ≠ .opening) :
    (s.homeDone m count).FreshRound (manifoldOf m.loop)
      ((s.timer (manifoldOf m.loop)).remaining ≠ none ∧ s.drive.state ≠ .holding) := by
  have spares : s.Spares (manifoldOf m.loop) (s.homeReady m count) :=
    (State.spares_homeReached count unopened).trans (State.spares_leftReady _ m.loop .ready _)
  have ready : ((s.homeReady m count).campaign (manifoldOf m.loop)).state ≠ .opening := by
    rw [spares.campaign]
    exact unopened
  have fresh := State.freshRound_lifeChanged (State.crossed_homeReady count) ready
  have campaign := State.campaign_lifeChanged (State.crossed_homeReady count) ready (manifoldOf m.loop)
  have ended := fresh.takeEnd (by rw [campaign]; exact ready) m .done none
  rw [spares.round.timer, (State.mild_lifeChanged _ m.loop .homing).state, spares.driveState] at ended
  rw [State.homeDone_ready count homing unmarked]
  exact ended.of_spares ((State.records_markLoopIf _ _ _ _).spares _)

/-- Where nothing else of the manifold is wanted or driven, the homing's end is the end of opening (R152). -/
theorem State.campaign_homeDone (free : s.drive.state ≠ .holding)
    (opening : (s.campaign (manifoldOf m.loop)).state = .opening)
    (unwanted : ∀ j, manifoldOf j = manifoldOf m.loop → j ≠ m.loop → (s.loop j).want = none)
    (empty : ∀ e ∈ s.drive.queue, manifoldOf e.loop ≠ manifoldOf m.loop) :
    (s.homeDone m count).campaign (manifoldOf m.loop) =
      { s.campaign (manifoldOf m.loop) with state := .rounds, resume := none } := by
  have recorded : ((s.homingOver m .done none fun l => l.homedAt count).endWant m.loop).openingOver (manifoldOf m.loop) =
      true := by
    refine (State.openingOver_iff _ _).2 fun j same => ⟨?_, fun e mem self => empty e mem (self ▸ same), nofun⟩
    by_cases self : j = m.loop
    · rw [self, State.endWant, State.loop_modLoop_self]
      rfl
    · rw [State.endWant, State.loop_modLoop_ne _ self, State.loop_homingOver_ne _ _ _ _ _ self]
      exact unwanted j same self
  have reached : (s.homeReached m count).campaign (manifoldOf m.loop) =
      { s.campaign (manifoldOf m.loop) with state := .rounds, resume := none } := by
    rw [State.homeReached, homing, State.campaign_homeEnded]
    exact if_pos ⟨rfl, opening, recorded⟩
  have ready := (State.spares_leftReady (s.homeReached m count) m.loop .ready (manifoldOf m.loop)).campaign.trans reached
  have unopened : ((s.homeReady m count).campaign (manifoldOf m.loop)).state ≠ .opening := by
    rw [State.homeReady, ready]
    exact CampaignState.noConfusion
  have changed := State.campaign_lifeChanged (State.crossed_homeReady count) unopened (manifoldOf m.loop)
  have state := (State.touches_homedReady (s := s) (m := m) count).onlyDrive.driveState
  have ended := State.spares_takeEnd (by rw [changed]; exact unopened) (by rw [state]; exact free) m .done none
  rw [State.homeDone_ready count homing unmarked]
  exact (((State.records_markLoopIf _ _ _ _).spares _).campaign.trans ended.campaign).trans (changed.trans ready)

end

/-! A RETIRING loop's HOME is followed by its PARK (R19). -/

theorem State.examineOpening_of_wanting {u : State} {i : LoopIx} (wants : (u.loop i).want ≠ none) :
    u.examineOpening (manifoldOf i) = u :=
  if_neg fun ends => wants (((State.openingOver_iff u _).1 ends.2 i rfl).1)

/-- What of a loop's record a successful homing of a RETIRING loop leaves. -/
def Loop.homedRetiring (l : Loop) (count : Nat) : Loop := ((l.homedAt count).setWant none).setWant (some .park)

theorem Loop.want_homedRetiring {l : Loop} (retiring : l.life = .retiring) (count : Nat) :
    (l.homedRetiring count).aimed.want = some .park := by
  simp [Loop.aimed, Loop.homedRetiring, Loop.homedAt, Loop.setWant, Loop.setPending, Loop.wantAt, retiring]

theorem Loop.life_aimed (l : Loop) : l.aimed.life = l.life := rfl
theorem Loop.homed_aimed (l : Loop) : l.aimed.homed = l.homed := rfl
theorem Loop.position_aimed (l : Loop) : l.aimed.position = l.position := rfl

theorem Loop.Counted.homed {l x : Loop} (h : l.Counted x) : x.homed = l.homed := by
  rcases h with rfl | rfl <;> rfl

/-- Its record once the Drive Queue has taken the end. -/
theorem Loop.homedRetiring_aimed {l x : Loop} (retiring : l.life = .retiring) {count : Nat}
    (same : (l.homedRetiring count).aimed.Counted x) :
    x.life = .retiring ∧ x.homed = true ∧ x.position = some 1000 ∧ x.want = some .park := by
  rw [same.life, same.homed, same.position, same.want, Loop.life_aimed, Loop.homed_aimed, Loop.position_aimed,
    Loop.want_homedRetiring retiring]
  exact ⟨retiring, rfl, rfl, rfl⟩

theorem State.loop_homedRetiring (retiring : (s.loop m.loop).life = .retiring) :
    ((s.loop m.loop).homedRetiring count).Counted (((s.homeReached m count).homeTaken m.loop).loop m.loop) := by
  have record := State.loop_homeReached (s := s) (m := m) count
  have parks := (s.homeReached m count).loop_want_counted m.loop .park
  have unwanted : ((s.homeReached m count).loop m.loop).want = none := record.want
  rw [unwanted] at parks
  rw [State.homeTaken_retiring (record.life.trans retiring)]
  exact (record.map (f := fun l => l.setWant (some .park)) fun _ => rfl).trans parks

theorem State.quiet_homeTaken_retiring {u : State} {i : LoopIx} (retiring : (u.loop i).life = .retiring) :
    u.Quiet (u.homeTaken i) := by
  rw [State.homeTaken_retiring retiring]
  exact u.quiet_want i .park

section
variable (retiring : (s.loop m.loop).life = .retiring) (unmarked : (s.loop m.loop).restartMark = false)
include retiring unmarked

theorem State.homeDone_retiring : s.homeDone m count =
    (((s.homeReached m count).homeTaken m.loop).takeEnd m .done none false).tellHead s m.loop := by
  rw [State.homeDone_eq, State.takeRestartMark_of_unmarked
    ((State.loop_homedRetiring count retiring).restartMark.trans unmarked)]

theorem State.ends_homeDone_retiring (home : m.kind = .home) : s.HomingEnds m .done none (s.homeDone m count) ∧
    ((s.loop m.loop).homedRetiring count).aimed.Counted ((s.homeDone m count).loop m.loop) := by
  have taken := State.quiet_homeTaken_retiring ((State.loop_homeReached (s := s) (m := m) count).life.trans retiring)
  rw [State.homeDone_retiring count retiring unmarked]
  exact ⟨State.homingEnds home ((State.touches_homeReached count).trans (taken.mild.touches m.loop)).onlyDrive,
    State.loop_homingEnds (State.loop_homedRetiring count retiring) _ _⟩

/-- Its HOME does not end opening: its PARK is to come (R152). -/
theorem State.campaign_homeDone_retiring (free : s.drive.state ≠ .holding) :
    (s.homeDone m count).campaign (manifoldOf m.loop) = s.campaign (manifoldOf m.loop) := by
  have recorded := s.spares_homingOver m .done none (f := fun l => l.homedAt count) (fun _ z => z) (manifoldOf m.loop)
  have reached : s.Spares (manifoldOf m.loop) (s.homeReached m count) := by
    refine recorded.trans (State.spares_homeEnded (.inr ?_))
    simp [retiring]
  have taken := State.quiet_homeTaken_retiring ((State.loop_homeReached (s := s) (m := m) count).life.trans retiring)
  have parks := State.loop_homedRetiring (s := s) (m := m) count retiring
  have campaign : ((s.homeReached m count).homeTaken m.loop).campaign (manifoldOf m.loop) =
      s.campaign (manifoldOf m.loop) := (congrArg (PerManifold.get · _) taken.campaigns).trans reached.campaign
  have state : ((s.homeReached m count).homeTaken m.loop).drive.state = s.drive.state :=
    taken.state.trans reached.driveState
  rw [State.homeDone_retiring count retiring unmarked]
  refine ((State.records_markLoopIf _ _ _ _).spares (manifoldOf m.loop)).campaign.trans ?_
  generalize (s.homeReached m count).homeTaken m.loop = u at parks campaign state
  have stopped := u.spares_stopRunning m .done none (manifoldOf m.loop)
  have wants : (((u.stopRunning m .done none).aim m.loop).loop m.loop).want ≠ none := by
    have aimed := (parks.map (f := Loop.aimed) fun _ => rfl).trans ((u.stopRunning m .done none).loop_aim m.loop)
    rw [aimed.want, Loop.want_homedRetiring retiring count]
    exact Option.some_ne_none _
  unfold State.takeEnd State.holdAtEnd
  rw [if_neg (by simp [stopped.driveState, state, free]), State.examineOpening_of_wanting wants]
  refine ((State.records_markLoopIf _ _ _ _).spares (manifoldOf m.loop)).campaign.trans ?_
  exact (congrArg (PerManifold.get · _) (State.quiet_aim _ m.loop).campaigns).trans (stopped.campaign.trans campaign)

end
end

/-! ### End-stops (R63, R65) -/

section
variable {s : State} {m : Move} {n : Nat}

theorem exec_endStop_home (p : s.powered = true) (moving : s.drive.moving = some m) (home : m.kind = .home)
    (stop : EndStop) : exec (.endStopReached stop n) s = .next (s.homeEndStop m stop n).tellWatches := by
  rw [exec_endStopReached, execEndStopReached, onMove_next p moving, if_pos home]

theorem exec_endStop_leg (p : s.powered = true) (moving : s.drive.moving = some m) (moves : m.kind ≠ .home)
    (stop : EndStop) : exec (.endStopReached stop n) s = .next (s.legEndStop m stop n).tellWatches := by
  rw [exec_endStopReached, execEndStopReached, onMove_next p moving, if_neg moves]

theorem State.homeEndStop_closed (leg : m.leg = .first) (steps : n ≤ 1300) :
    s.homeEndStop m .closedEnd n = s.setMoving (some (m.openingLeg (m.driven || decide (0 < n)))) := by
  simp only [State.homeEndStop, leg]
  exact if_pos steps

theorem State.homeEndStop_open (leg : m.leg = .second) (least : 200 ≤ n) (most : n ≤ 1200) :
    s.homeEndStop m .openEnd n = s.homeDone m n := by
  simp only [State.homeEndStop, leg]
  exact (if_neg (Nat.not_lt.2 least)).trans (if_pos most)

theorem State.legEndStop_closed (way : stepOf ((s.loop m.loop).capacity.getD 0) m.aimedAt < (s.loop m.loop).stepPos.getD 0) :
    s.legEndStop m .closedEnd n = (s.atStep m 0).legDone m 0 (m.driven || decide (0 < n)) := if_pos way

theorem State.legEndStop_open (way : (s.loop m.loop).stepPos.getD 0 < stepOf ((s.loop m.loop).capacity.getD 0) m.aimedAt) :
    s.legEndStop m .openEnd n =
      (s.atStep m ((s.loop m.loop).capacity.getD 0)).legDone m 1000 (m.driven || decide (0 < n)) := if_pos way

/-- An end-stop on the way of a single or last leg ends the move there (R63). -/
theorem State.legEndStop_done (single : m.kind ≠ .exercise ∨ m.leg = .second) {stop : EndStop × Nat × Nat}
    (listed : stop ∈ [(.closedEnd, 0, 0), (.openEnd, (s.loop m.loop).capacity.getD 0, 1000)])
    (closes : stop.1 = .closedEnd →
      stepOf ((s.loop m.loop).capacity.getD 0) m.aimedAt < (s.loop m.loop).stepPos.getD 0)
    (opens : stop.1 = .openEnd →
      (s.loop m.loop).stepPos.getD 0 < stepOf ((s.loop m.loop).capacity.getD 0) m.aimedAt) :
    s.legEndStop m stop.1 n =
      (s.atStep m stop.2.1).moveDone m stop.2.2 (m.driven || decide (0 < n)) := by
  rw [List.mem_cons, List.mem_singleton] at listed
  rcases listed with rfl | rfl
  · exact (State.legEndStop_closed (closes rfl)).trans (State.legDone_of_single single _ _)
  · exact (State.legEndStop_open (opens rfl)).trans (State.legDone_of_single single _ _)

theorem Move.driven_or (m : Move) (n : Nat) : (m.driven || decide (0 < n)) = true ↔ m.driven = true ∨ 0 < n := by
  rw [Bool.or_eq_true, decide_eq_true_eq]

end

end Sys2Proof.Machine

open Sys2Proof Sys2Proof.Machine

/-- Settles O39, by what the Loop Table makes of the failed homing: an ENROLLED loop, or a VACANT one. -/
theorem failedHomingLeavesTheLoopEnrolled : Obligations.FailedHomingLeavesTheLoopEnrolled := by
  intro s m n p moving home unmarked c mem
  obtain ⟨driven, fails⟩ := exec_homeFailed p moving home mem
  have link : (s.homeFailed m c.2 driven).link = s.link := (s.steps_homeFailed m c.2 driven).calm.link
  have told := (s.homeFailed m c.2 driven).tellWatches_records
  refine ⟨fun homing => ?_, fun retiring => ?_⟩
  · obtain ⟨ends, loop⟩ := State.homeFailed_homing home unmarked c.2 driven homing
    have ends := ends.of_records told
    have loop := loop.counted (.inl (told.loop m.loop))
    exact ⟨_, fails, State.linkKept_told link, ends.onlyDrive, ends.moving, ends.dwell, loop.life, loop.faults, loop.homed,
      loop.capacity, loop.stepPos, loop.position, loop.stallCount, loop.want, loop.config⟩
  · obtain ⟨ends, loop, floor⟩ := State.homeFailed_retiring home c.2 driven retiring
    have ends := ends.of_records told
    have loop := (told.loop m.loop).trans loop
    rw [← told.floorList] at floor
    exact ⟨_, fails, State.linkKept_told link, ends.moving, ends.onlyDrive, ends.dwell, by rw [loop]; rfl,
      by rw [loop]; rfl, floor⟩

/-- Settles O38, by the legs of a HOME and of the other moves: each end-stop's end, and what it leaves. -/
theorem endStopsEndTheLeg : Obligations.EndStopsEndTheLeg := by
  intro s m n p moving
  refine ⟨fun home leg steps => ?_, fun home leg least most homing unmarked => ?_,
    fun home leg least most retiring unmarked => ?_, fun moves single stays unmarked stop listed closes opens => ?_,
    fun park retiring unmarked away => ?_, fun kind leg cap capacity way away => ?_⟩
  · have stop := exec_endStop_home (n := n) p moving home .closedEnd
    rw [State.homeEndStop_closed leg steps] at stop
    exact ⟨_, stop, State.linkKept_told rfl, State.tellWatches_records _⟩
  · have stop := exec_endStop_home (n := n) p moving home .openEnd
    rw [State.homeEndStop_open leg least most] at stop
    have link : (s.homeDone m n).link = s.link := (s.steps_homeDone m n).calm.link
    have told := (s.homeDone m n).tellWatches_records
    obtain ⟨ends, loop⟩ := State.homeDone_homing n homing unmarked home
    have fresh := State.freshRound_homeDone n homing unmarked
    have campaign := State.campaign_homeDone n homing unmarked
    have counters (j : LoopIx) := State.counters_homeDone (j := j) n homing unmarked
    have commanded := State.commanded_homeDone n homing unmarked
    generalize s.homeDone m n = u at stop link told ends loop fresh campaign counters commanded
    have ends := ends.of_records told
    have loop := loop.counted (.inl (told.loop m.loop))
    refine ⟨_, stop, State.linkKept_told link, ends.onlyDrive, ends.moving, ends.dwell, loop.life, loop.homed,
      loop.capacity, loop.stepPos, loop.position, loop.stallCount, loop.idleDays, loop.faults, loop.config, loop.want,
      commanded.of_records told, fun unopened => ((fresh unopened).of_spares (told.spares _)).congr ?_,
      fun free opening unwanted empty => (told.spares _).campaign.trans (campaign free opening unwanted empty),
      fun j same => by rw [told.loop]; exact counters j same⟩
    rw [ends.state, DriveState.atEnd_self]
  · have stop := exec_endStop_home (n := n) p moving home .openEnd
    rw [State.homeEndStop_open leg least most] at stop
    have link : (s.homeDone m n).link = s.link := (s.steps_homeDone m n).calm.link
    have told := (s.homeDone m n).tellWatches_records
    obtain ⟨ends, loop⟩ := State.ends_homeDone_retiring n retiring unmarked home
    have campaign := State.campaign_homeDone_retiring n retiring unmarked
    generalize s.homeDone m n = u at stop link told ends loop campaign
    have ends := ends.of_records told
    rw [← told.loop] at loop
    obtain ⟨life, homed, position, want⟩ := Loop.homedRetiring_aimed retiring loop
    exact ⟨_, stop, State.linkKept_told link, ends.moving, ends.dwell, life, homed, position, want, fun free _ =>
      (told.spares _).campaign.trans (campaign free)⟩
  · have done := exec_endStop_leg (n := n) p moving moves stop.1
    rw [State.legEndStop_done single listed closes opens] at done
    have ends := (State.legEnds stop.2.1 stop.2.2 (m.driven || decide (0 < n)) moves unmarked stays).of_records
      (State.tellWatches_records _)
    exact ⟨_, done, State.linkKept_told (s.link_atStep_moveDone _ _ _ _), ends.moving, ends.onlyDrive, ends.dwell,
      ends.loop.stepPos, ends.loop.position, ends.loop.stallCount, ends.loop.pendingTarget, ends.loop.config,
      ends.loop.life, ends.loop.homed, ends.loop.faults, ends.loop.commanded, ends.loop.want,
      ends.loop.idleDays.trans (if_congr (m.driven_or n) rfl rfl)⟩
  · have moves : m.kind ≠ .home := by rw [park]; exact MoveKind.noConfusion
    have way : stepOf ((s.loop m.loop).capacity.getD 0) m.aimedAt < (s.loop m.loop).stepPos.getD 0 := by
      rw [Move.aimedAt_park park, stepOf, Nat.mul_zero, Nat.zero_div]
      exact away
    have done := exec_endStop_leg (n := n) p moving moves .closedEnd
    rw [State.legEndStop_closed way, State.legDone_of_single (.inl (by rw [park]; exact MoveKind.noConfusion))] at done
    have ends := (State.legRetires 0 0 (m.driven || decide (0 < n)) park retiring unmarked).of_records
      (State.tellWatches_records _)
    exact ⟨_, done, State.linkKept_told (s.link_atStep_moveDone _ _ _ _), ends.moving, ends.onlyDrive, ends.dwell,
      ends.life, ends.stepPos, ends.position, ends.room, ends.floor⟩
  · have moves : m.kind ≠ .home := by rw [kind]; exact MoveKind.noConfusion
    have goal : stepOf cap 1000 = cap := Nat.mul_div_cancel cap (by omega)
    have done := exec_endStop_leg (n := n) p moving moves .openEnd
    rw [State.legEndStop_open (by rw [capacity, Move.aimedAt_exercise kind leg]; exact goal.symm ▸ way), capacity] at done
    rw [show (some cap).getD 0 = cap from rfl, State.legDone_turns kind leg capacity away] at done
    have told := State.tellWatches_records ((s.atStep m cap).setMoving
      (some (m.secondLeg (s.loop m.loop).commanded (m.driven || decide (0 < n)))))
    exact ⟨_, done, State.linkKept_told (State.link_turns _ _), told.drive.trans (State.drive_turns _ _),
      (State.onlyDrive_turns _ _).trans told.onlyDrive, (told.loop _).trans (State.loop_turns _ _)⟩
end

section
/-! PROOF. O31: the start of a move beside a campaign and its round (R83, R152), the examination of a campaign beside its timer
(R130, R149, R156), and RESUME (R92). -/

namespace Sys2Proof.Machine

/-! ### What the start of a move does to one manifold's campaign and round (R83, R152) -/

/-- A campaign in OPENING has passed to ROUNDS, which has started a round there (R145, R152); the House Record, the
channels and the drive state are as they were. -/
structure State.Enters (s : State) (m : Manifold) (t : State) : Prop where
  opening : (s.campaign m).state = .opening
  campaign : t.campaign m = { s.campaign m with state := .rounds, resume := none }
  fresh : t.FreshRound m (t.RoundConditions m)
  house : t.house = s.house
  channels : t.channels = s.channels
  driveState : t.drive.state = s.drive.state

/-- One manifold's campaign and round are left alone, or its opening has ended. -/
def State.Passes (s : State) (m : Manifold) (t : State) : Prop := s.Spares m t ∨ s.Enters m t

theorem State.Spares.passes {s t : State} {m : Manifold} (h : s.Spares m t) : s.Passes m t := .inl h

theorem State.Spares.enters {s t u : State} {m : Manifold} (h : s.Spares m t) (g : t.Enters m u) : s.Enters m u :=
  ⟨h.campaign ▸ g.opening, h.campaign ▸ g.campaign, g.fresh, g.house.trans h.house, g.channels.trans h.channels,
    g.driveState.trans h.driveState⟩

theorem State.Enters.spared {s t u : State} {m : Manifold} (h : s.Enters m t) (g : t.Spares m u) : s.Enters m u :=
  ⟨h.opening, g.campaign.trans h.campaign, (h.fresh.of_spares g).congr g.roundConditions.symm, g.house.trans h.house,
    g.channels.trans h.channels, g.driveState.trans h.driveState⟩

theorem State.Enters.rounds {s t : State} {m : Manifold} (h : s.Enters m t) : (t.campaign m).state = .rounds := by
  rw [h.campaign]

theorem State.Passes.trans {s t u : State} {m : Manifold} (h : s.Passes m t) (g : t.Passes m u) : s.Passes m u := by
  rcases h with h | h <;> rcases g with g | g
  · exact .inl (h.trans g)
  · exact .inr (h.enters g)
  · exact .inr (h.spared g)
  · exact CampaignState.noConfusion (h.rounds.symm.trans g.opening)

theorem State.Passes.house {s t : State} {m : Manifold} (h : s.Passes m t) : t.house = s.house :=
  h.elim State.Spares.house State.Enters.house

theorem State.Passes.channels {s t : State} {m : Manifold} (h : s.Passes m t) : t.channels = s.channels :=
  h.elim State.Spares.channels State.Enters.channels

theorem State.Passes.driveState {s t : State} {m : Manifold} (h : s.Passes m t) : t.drive.state = s.drive.state :=
  h.elim State.Spares.driveState State.Enters.driveState

/-- A campaign that is not in OPENING passes nowhere. -/
theorem State.Passes.spares {s t : State} {m : Manifold} (h : s.Passes m t) (unopened : (s.campaign m).state ≠ .opening) :
    s.Spares m t := h.resolve_right fun enters => unopened enters.opening

/-- A round that has just started where the conditions hold has still just started. -/
theorem State.Passes.freshRound {s t : State} {m : Manifold} (h : s.Passes m t)
    (fresh : s.FreshRound m (s.RoundConditions m)) : t.FreshRound m (t.RoundConditions m) :=
  h.elim (fun spares => (fresh.of_spares spares).congr spares.roundConditions.symm) State.Enters.fresh

theorem State.spares_markHouse (s : State) (b : Bool) (m : Manifold) : s.Spares m (s.markHouse b) :=
  (State.mark_records s .house 0 b).spares m

/-- The conditions of the round timer after an entry into ROUNDS (R130). -/
theorem State.roundConditions_enterRounds (s : State) (m : Manifold) : (s.enterRounds m).RoundConditions m ↔
    (s.setCampaign m { s.campaign m with state := .rounds, resume := none }).RoundConditions m := by
  unfold State.enterRounds
  generalize s.setCampaign m _ = u
  have mild := u.mild_pauseRound m
  refine State.roundConditions_congr mild.house ?_ mild.state mild.channels m
  simp only [State.pauseRound, State.roundStart, State.clearCounters, State.setSupplyRef_campaigns,
    State.setTimer_campaigns, State.mapLoops_campaigns]

/-- An entry into ROUNDS starts a round, which runs where the conditions hold (R145). -/
theorem State.fresh_enterRounds (s : State) (m : Manifold) :
    (s.enterRounds m).FreshRound m ((s.enterRounds m).RoundConditions m) :=
  (s.freshRound_enterRounds m).congr ((State.timerRuns_iff _ m).trans (s.roundConditions_enterRounds m).symm)

theorem State.Enters.enterRounds {s : State} {m : Manifold} (opening : (s.campaign m).state = .opening) :
    s.Enters m ((s.enterRounds m).markHouse true) := by
  have told := (s.enterRounds m).spares_markHouse true m
  have mild := s.mild_enterRounds m
  exact ⟨opening, told.campaign.trans (s.campaign_enterRounds m),
    ((s.fresh_enterRounds m).of_spares told).congr told.roundConditions.symm,
    told.house.trans mild.house, told.channels.trans mild.channels, told.driveState.trans mild.state⟩

theorem State.passes_examineOpening (s : State) (m n : Manifold) : s.Passes m (s.examineOpening n) := by
  by_cases same : n = m
  · subst same
    unfold State.examineOpening
    split_ifs with ended
    · exact .inr (.enterRounds ended.1)
    · exact .inl (.refl s n)
  · refine .inl ?_
    unfold State.examineOpening
    split_ifs
    · exact (s.spares_enterRounds same).trans (State.spares_markHouse _ true m)
    · exact .refl s m

theorem State.passes_dropWork (s : State) (i : LoopIx) (m : Manifold) : s.Passes m (s.dropWork i) := by
  unfold State.dropWork
  refine .trans ?_ ((State.quiet_tellIdle _ _).spares (State.steps_tellIdle _ _) m).passes
  refine .trans ?_ ((State.quiet_tellWork _ _ _).spares (State.steps_tellWork _ _ _) m).passes
  exact ((s.quiet_clearWork i).spares (s.steps_clearWork i) m).passes.trans (State.passes_examineOpening _ m _)

/-- A lifecycle change that neither enters nor leaves READY is no coupling event (R9). -/
theorem State.spares_lifeChanged {s : State} {i : LoopIx} {old : Lifecycle} (stays : s.crossed i old = false)
    (m : Manifold) : s.Spares m (s.lifeChanged i old) := by
  rw [State.lifeChanged, stays]
  refine .trans ?_ ((State.quiet_markLoop _ _ _).spares (State.steps_markLoop _ _ _) m)
  exact (s.spares_recompute m).trans (State.spares_recount _ i m)

theorem State.passes_becomeVacant {s : State} {i : LoopIx} (unready : (s.loop i).life ≠ .ready) (m : Manifold) :
    s.Passes m (s.becomeVacant i) := by
  unfold State.becomeVacant
  refine .trans ?_ ((State.quiet_fill _).spares (State.steps_fill _) m).passes
  refine .trans ?_ ((State.quiet_markRoomOf _ _).spares (State.steps_markRoomOf _ _) m).passes
  refine .trans ?_ (State.spares_lifeChanged ?_ m).passes
  · refine (s.passes_dropWork i m).trans (.trans (t := (s.dropWork i).dropMember i) ?_ ?_)
    · exact .inl ⟨rfl, ⟨rfl, rfl⟩, rfl, rfl, rfl, fun _ => id⟩
    · exact (State.spares_modLoop _ i (f := Loop.vacated) (fun _ _ => rfl) m).passes
  · rw [State.crossed, State.loop_modLoop_self, decide_eq_false unready]
    rfl

/-- A running drive is not held at a move's end (R86, R90). -/
theorem State.passes_takeEnd {s : State} (free : s.drive.state ≠ .holding) (x : Move) (e : MoveEnd)
    (r : Option EndReason) (m : Manifold) : s.Passes m (s.takeEnd x e r false) := by
  have stopped := s.spares_stopRunning x e r m
  unfold State.takeEnd State.holdAtEnd
  rw [if_neg (by simp [stopped.driveState, free])]
  refine stopped.passes.trans (.trans ?_ ((State.records_markLoopIf _ _ _ _).spares m).passes)
  exact ((State.quiet_aim _ _).spares (State.steps_aim _ _) m).passes.trans (State.passes_examineOpening _ m _)

theorem State.spares_arrives (s : State) (x : Move) (n : Nat) (driven : Bool) (m : Manifold) :
    s.Spares m (s.arrives x n driven) :=
  ((s.spares_stopRunning x .done none m).trans
    (State.spares_modLoop _ x.loop (f := fun l => l.arrived n driven) (fun _ => id) m)).trans
      (State.spares_recount _ x.loop m)

theorem State.passes_moveDone {s : State} {x : Move} (unmarked : (s.loop x.loop).restartMark = false)
    (running : s.drive.state = .running) (n : Nat) (driven : Bool) (m : Manifold) :
    s.Passes m (s.moveDone x n driven) := by
  have arrived := s.spares_arrives x n driven m
  have state : (s.arrives x n driven).drive.state = .running := (s.driveState_arrives x n driven).trans running
  by_cases stays : x.kind ≠ .park ∨ (s.loop x.loop).life ≠ .retiring
  · rw [State.moveDone_of_stays unmarked n driven stays]
    refine arrived.passes.trans (.trans ?_ ((State.records_markLoopIf _ _ _ _).spares m).passes)
    exact State.passes_takeEnd (by rw [state]; exact DriveState.noConfusion) x .done none m
  · simp only [ne_eq, not_or, not_not] at stays
    rw [State.moveDone_of_retires n driven stays.1 stays.2]
    have vacates := (s.arrives x n driven).vacates_becomeVacant x.loop
    have life : ((s.arrives x n driven).loop x.loop).life = .retiring :=
      (s.loop_arrives_self x n driven).life.trans stays.2
    refine arrived.passes.trans (.trans (State.passes_becomeVacant (i := x.loop) ?_ m) ?_)
    · rw [life]
      exact Lifecycle.noConfusion
    · refine .trans ?_ ((State.records_markLoopIf _ _ _ _).spares m).passes
      exact State.passes_takeEnd (by rw [vacates.state, state]; exact DriveState.noConfusion) x .done none m

theorem State.setMoving_of_moving {s : State} {x : Option Move} (h : s.drive.moving = x) : s.setMoving x = s := by
  subst h
  rfl

/-- The two ways a start can go: the move of the entry stands and runs, or it has no step to drive and is DONE at once
(R63, R83, R85). -/
theorem State.serve_runs_or_ends {s : State} {e : Entry} {rest : List Entry} (start : s.canStart = true)
    (queue : s.drive.queue = e :: rest) : ∃ x : Move, x.loop = e.loop ∧ x.kind = e.kind ∧
      (s.serve = ((s.setQueue rest).begun e.move).setMoving (some x) ∨
        e.kind ≠ .home ∧ ∃ n, s.serve = (((s.setQueue rest).begun e.move).setMoving (some x)).moveDone x n false) := by
  have still : ((s.setQueue rest).begun e.move).setMoving (some e.move) = (s.setQueue rest).begun e.move :=
    State.setMoving_of_moving (by rw [State.drive_begun])
  rw [State.serve_of_start start queue]
  by_cases drives : (s.setQueue rest).Drives e
  · exact ⟨e.move, rfl, rfl, .inl ((State.beginMove_drives drives).trans still.symm)⟩
  · have moves : e.kind ≠ .home := fun home => drives (.inl home)
    by_cases kind : e.kind = .exercise
    · by_cases returns : (s.setQueue rest).ReturnsAtOnce e
      · exact ⟨(s.setQueue rest).turnedMove e, rfl, rfl, .inr ⟨moves, _, State.beginMove_returns drives kind returns⟩⟩
      · exact ⟨(s.setQueue rest).turnedMove e, rfl, rfl, .inl (State.beginMove_turns drives kind returns)⟩
    · exact ⟨e.move, rfl, rfl, .inr ⟨moves, _, by rw [still]; exact State.beginMove_done drives kind⟩⟩

theorem State.spares_setQueue (s : State) (q : List Entry) (m : Manifold) : s.Spares m (s.setQueue q) :=
  ⟨rfl, ⟨rfl, rfl⟩, rfl, rfl, rfl, fun _ => id⟩

theorem State.spares_setMoving (s : State) (x : Option Move) (m : Manifold) : s.Spares m (s.setMoving x) :=
  ⟨rfl, ⟨rfl, rfl⟩, rfl, rfl, rfl, fun _ => id⟩

theorem State.spares_begun (s : State) (x : Move) (m : Manifold) : s.Spares m (s.begun x) := by
  refine .trans ?_ ((State.quiet_fill _).spares (State.steps_fill _) m)
  refine .trans ?_ (State.spares_recount _ x.loop m)
  refine .trans ?_ (State.spares_modLoop _ x.loop (f := fun l => l.setPosition none) (fun _ => id) m)
  refine (s.spares_setMoving (some x) m).trans ?_
  unfold State.wantAtStart
  split_ifs
  · exact .refl _ m
  · exact (State.quiet_unwant _ _).spares (State.steps_unwant _ _) m

theorem State.spares_taken_up (s : State) (rest : List Entry) (x y : Move) (m : Manifold) :
    s.Spares m (((s.setQueue rest).begun x).setMoving (some y)) :=
  ((s.spares_setQueue rest m).trans (State.spares_begun _ x m)).trans (State.spares_setMoving _ _ m)

theorem State.restartMark_begun {s : State} (unmarked : ∀ i, (s.loop i).restartMark = false) (x : Move) (i : LoopIx) :
    ((s.begun x).loop i).restartMark = false := by
  by_cases self : i = x.loop
  · subst self
    rw [State.loop_begun_self]
    exact unmarked x.loop
  · rw [State.loop_begun_ne s x self, unmarked]

theorem State.canStart_queue {s : State} (start : s.canStart = true) : ∃ e rest, s.drive.queue = e :: rest := by
  obtain ⟨-, -, -, queue⟩ := (State.canStart_iff s).1 start
  exact List.exists_cons_of_ne_nil queue

/-- The start of the next move, where one may start: a campaign in OPENING may pass to ROUNDS, and any other is left
alone, as its round is (R83, R152). -/
theorem State.passes_serve {s : State} (marks : s.MarkLaw) (m : Manifold) : s.Passes m s.serve := by
  by_cases start : s.canStart = true
  · obtain ⟨e, rest, queue⟩ := State.canStart_queue start
    have free := marks.free start
    obtain ⟨x, loop, kind, runs | ⟨moves, n, ends⟩⟩ := State.serve_runs_or_ends start queue
    · rw [runs]
      exact (s.spares_taken_up rest e.move x m).passes
    · have taken := s.spares_taken_up rest e.move x m
      have unmarked : (((s.setQueue rest).begun e.move).loop x.loop).restartMark = false :=
        State.restartMark_begun (s := s.setQueue rest) free.marks e.move x.loop
      rw [ends]
      generalize (s.setQueue rest).begun e.move = u at taken unmarked
      exact taken.passes.trans (State.passes_moveDone (s := u.setMoving (some x)) unmarked (taken.driveState.trans free.state) n false m)
  · rw [State.serve, if_neg start]
    exact (State.Spares.refl s m).passes

theorem State.spares_serve_unopened {s : State} (marks : s.MarkLaw) {m : Manifold}
    (unopened : (s.campaign m).state ≠ .opening) : s.Spares m s.serve := (State.passes_serve marks m).spares unopened

/-! ### Work that is not lost: a loop's want and its waiting entry -/

/-- A want of a loop, and a waiting entry that names it, are still there. -/
structure State.KeepsWork (j : LoopIx) (s t : State) : Prop where
  want : (s.loop j).want ≠ none → (t.loop j).want ≠ none
  queued : s.queued j = true → t.queued j = true

section
variable {j : LoopIx}

theorem State.KeepsWork.refl (s : State) : State.KeepsWork j s s := ⟨id, id⟩

theorem State.KeepsWork.trans {s t u : State} (h : State.KeepsWork j s t) (g : State.KeepsWork j t u) :
    State.KeepsWork j s u := ⟨g.want ∘ h.want, g.queued ∘ h.queued⟩

theorem State.queued_congr {s t : State} (h : t.drive.queue = s.drive.queue) (i : LoopIx) : t.queued i = s.queued i := by
  rw [State.queued, State.queued, h]

/-- The same want and the same waiting entries. -/
theorem State.KeepsWork.of_eq {s t : State} (want : (t.loop j).want = (s.loop j).want)
    (queue : t.drive.queue = s.drive.queue) : State.KeepsWork j s t :=
  ⟨fun w => want ▸ w, fun q => (State.queued_congr queue j).trans q⟩

theorem State.keepsWork_ite {c : Prop} [Decidable c] {s t u : State} (h : State.KeepsWork j s t)
    (g : State.KeepsWork j s u) : State.KeepsWork j s (if c then t else u) := by
  split_ifs
  · exact h
  · exact g

theorem State.keepsWork_forEach {α : Type} (s : State) (l : List α) {f : State → α → State}
    (h : ∀ t a, State.KeepsWork j t (f t a)) : State.KeepsWork j s (s.forEach l f) :=
  State.forEach_rel (R := State.KeepsWork j) .refl (fun _ _ _ h g => h.trans g) h l s

theorem State.keepsWork_modLoop (s : State) {i : LoopIx} (other : j ≠ i) (f : Loop → Loop) :
    State.KeepsWork j s (s.modLoop i f) := .of_eq (by rw [State.loop_modLoop_ne s other]) rfl

theorem State.keepsWork_modLoop_of_want (s : State) (i : LoopIx) {f : Loop → Loop} (h : ∀ l : Loop, (f l).want = l.want) :
    State.KeepsWork j s (s.modLoop i f) := by
  by_cases self : j = i
  · subst self
    exact .of_eq (by rw [State.loop_modLoop_self, h]) rfl
  · exact s.keepsWork_modLoop self f

theorem State.keepsWork_recount (s : State) (i : LoopIx) : State.KeepsWork j s (s.recount i) :=
  State.keepsWork_ite (.refl s) (s.keepsWork_modLoop_of_want i fun _ => rfl)

theorem State.keepsWork_markLoopIf (s : State) (c : Bool) (i : LoopIx) (b : Bool) :
    State.KeepsWork j s (s.markLoopIf c i b) := .of_eq (by rw [State.loop_markLoopIf]) (by rw [State.markLoopIf_drive])

theorem State.keepsWork_tellWork (t before : State) (i : LoopIx) : State.KeepsWork j t (t.tellWork before i) :=
  (t.keepsWork_markLoopIf _ i _).trans (State.keepsWork_markLoopIf _ _ i _)

theorem State.keepsWork_tellIdle (t before : State) : State.KeepsWork j t (t.tellIdle before) :=
  .of_eq (by rw [State.loop_tellIdle]) (by rw [State.drive_tellIdle])

theorem State.queued_append (s : State) (more : List Entry) (i : LoopIx) :
    (s.setQueue (s.drive.queue ++ more)).queued i = (s.queued i || more.any fun e => decide (e.loop = i)) :=
  List.any_append

theorem State.keepsWork_place (s : State) (i : LoopIx) : State.KeepsWork j s (s.place i) := by
  unfold State.place
  split
  · next k _ =>
      refine State.keepsWork_ite ?_ (.refl s)
      unfold State.append
      have added : State.KeepsWork j s (s.setQueue (s.drive.queue ++ [s.entryFor i k])) :=
        ⟨id, fun q => by rw [State.queued_append, q, Bool.true_or]⟩
      exact added.trans (State.keepsWork_tellIdle _ s)
  · exact .refl s

theorem State.keepsWork_placeOwn (s : State) (i : LoopIx) : State.KeepsWork j s (s.placeOwn i) :=
  State.keepsWork_ite (.refl s) (s.keepsWork_place i)

theorem State.keepsWork_fill (s : State) : State.KeepsWork j s s.fill := s.keepsWork_forEach _ State.keepsWork_place

theorem State.keepsWork_want (s : State) (i : LoopIx) (k : MoveKind) : State.KeepsWork j s (s.want i k) := by
  unfold State.want
  refine State.keepsWork_ite ?_ (.refl s)
  refine .trans ?_ (State.keepsWork_placeOwn _ i)
  refine .trans (.trans ?_ (State.keepsWork_recount _ i)) (.of_eq (by rw [State.loop_markLoop]) rfl)
  refine .trans (t := s.modLoop i fun l => l.setWant (some k)) ?_ ⟨fun w => by rwa [State.loop_retarget], fun q => ?_⟩
  · by_cases self : j = i
    · subst self
      exact ⟨fun _ => by rw [State.loop_modLoop_self]; exact Option.some_ne_none k, id⟩
    · exact s.keepsWork_modLoop self _
  · rw [State.queued_retarget, q]

theorem State.keepsWork_takeStroke (s : State) (i : LoopIx) : State.KeepsWork j s (s.takeStroke i) :=
  State.keepsWork_ite
    ((s.keepsWork_modLoop_of_want i (f := fun l => l.setPending (some (s.loop i).commanded)) fun _ => rfl).trans
      (State.keepsWork_tellWork _ s i))
    (s.keepsWork_want i _)

theorem State.keepsWork_recompute (s : State) : State.KeepsWork j s s.recompute := by
  have evaluated : State.KeepsWork j s s.evaluated :=
    .of_eq (by rw [State.evaluated, State.loop_setFloorShort, State.loop_mapLoops]; rfl) rfl
  have handed : State.KeepsWork j s.evaluated (s.evaluated.handStrokes s s.evaluated) :=
    State.keepsWork_forEach _ _ fun t i => State.keepsWork_ite (t.keepsWork_takeStroke i) (.refl t)
  have short (t : State) : State.KeepsWork j t (t.tellShort s s.evaluated) :=
    State.keepsWork_ite (.refl _) (.of_eq rfl rfl)
  have strokes (t : State) : State.KeepsWork j t (t.tellStrokes s s.evaluated) :=
    State.keepsWork_forEach _ _ fun t i => t.keepsWork_markLoopIf _ i _
  exact ((evaluated.trans handed).trans (short _)).trans (strokes _)

theorem State.Counted.keepsWork {s t : State} (h : s.Counted t) (queue : t.drive.queue = s.drive.queue) :
    State.KeepsWork j s t := .of_eq (h.loop j).want queue

theorem State.keepsWork_examineOpening (s : State) (m : Manifold) : State.KeepsWork j s (s.examineOpening m) :=
  (s.counted_examineOpening m).keepsWork (by rw [State.drive_examineOpening])

theorem State.keepsWork_dropWork (s : State) {i : LoopIx} (other : j ≠ i) : State.KeepsWork j s (s.dropWork i) := by
  refine .trans (.trans (.trans ?_ (State.keepsWork_examineOpening _ _)) (State.keepsWork_tellWork _ s i))
    (State.keepsWork_tellIdle _ s)
  refine .trans (t := s.setQueue (s.drive.queue.filter fun e => decide (e.loop ≠ i))) ⟨id, fun q => ?_⟩
    (State.keepsWork_modLoop _ other _)
  obtain ⟨e, mem, names⟩ := List.any_eq_true.1 q
  refine List.any_eq_true.2 ⟨e, List.mem_filter.2 ⟨mem, ?_⟩, names⟩
  rw [of_decide_eq_true names]
  exact decide_eq_true other

theorem State.keepsWork_lifeChanged {s : State} {i : LoopIx} {old : Lifecycle} (stays : s.crossed i old = false) :
    State.KeepsWork j s (s.lifeChanged i old) := by
  rw [State.lifeChanged, stays]
  exact (s.keepsWork_recompute.trans (State.keepsWork_recount _ i)).trans (.of_eq (by rw [State.loop_markLoop]; rfl) rfl)

theorem State.keepsWork_becomeVacant {s : State} {i : LoopIx} (unready : (s.loop i).life ≠ .ready) (other : j ≠ i) :
    State.KeepsWork j s (s.becomeVacant i) := by
  have life : (((s.dropWork i).dropMember i).modLoop i Loop.vacated).crossed i (s.loop i).life = false := by
    rw [State.crossed, State.loop_modLoop_self, decide_eq_false unready]
    rfl
  have dropped : State.KeepsWork j (s.dropWork i) ((s.dropWork i).dropMember i) :=
    .of_eq (by rw [State.loop_dropMember]) rfl
  have room (t : State) (r : Option RoomIx) : State.KeepsWork j t (t.markRoomOf r) :=
    .of_eq (by rw [State.loop_markRoomOf]) (by cases r <;> rfl)
  unfold State.becomeVacant
  exact (((((s.keepsWork_dropWork other).trans dropped).trans (State.keepsWork_modLoop _ other _)).trans
    (State.keepsWork_lifeChanged life)).trans (room _ _)).trans (State.keepsWork_fill _)

theorem State.keepsWork_aim (s : State) (i : LoopIx) : State.KeepsWork j s (s.aim i) := by
  refine .trans ?_ (State.keepsWork_modLoop_of_want _ i fun _ => rfl)
  unfold State.wantAim
  split
  · exact State.keepsWork_ite (s.keepsWork_want i _) (.refl s)
  · exact .refl s

theorem State.keepsWork_takeEnd {s : State} (free : s.drive.state ≠ .holding) (x : Move) (e : MoveEnd)
    (r : Option EndReason) : State.KeepsWork j s (s.takeEnd x e r false) := by
  have stopped : State.KeepsWork j s (s.stopRunning x e r) := .of_eq (by rw [State.loop_stopRunning]) rfl
  have state := (s.spares_stopRunning x e r .a).driveState
  unfold State.takeEnd State.holdAtEnd
  rw [if_neg (by simp [state, free])]
  generalize s.stopRunning x e r = u at stopped
  exact ((stopped.trans (u.keepsWork_aim _)).trans (State.keepsWork_examineOpening _ _)).trans
    (State.keepsWork_markLoopIf _ _ _ _)

theorem State.keepsWork_arrives (s : State) (x : Move) (n : Nat) (driven : Bool) :
    State.KeepsWork j s (s.arrives x n driven) := by
  have stopped : State.KeepsWork j s (s.stopRunning x .done none) :=
    .of_eq (by rw [State.loop_stopRunning]) rfl
  exact (stopped.trans (State.keepsWork_modLoop_of_want _ x.loop (f := fun l => l.arrived n driven) fun _ => rfl)).trans
    (State.keepsWork_recount _ x.loop)

theorem State.keepsWork_moveDone {s : State} {x : Move} (unmarked : (s.loop x.loop).restartMark = false)
    (running : s.drive.state = .running) (n : Nat) (driven : Bool) (other : j ≠ x.loop) :
    State.KeepsWork j s (s.moveDone x n driven) := by
  have state : (s.arrives x n driven).drive.state = .running := (s.driveState_arrives x n driven).trans running
  have arrived := State.keepsWork_arrives (j := j) s x n driven
  by_cases stays : x.kind ≠ .park ∨ (s.loop x.loop).life ≠ .retiring
  · rw [State.moveDone_of_stays unmarked n driven stays]
    refine arrived.trans (.trans ?_ (State.keepsWork_markLoopIf _ _ _ _))
    exact State.keepsWork_takeEnd (by rw [state]; exact DriveState.noConfusion) x .done none
  · simp only [ne_eq, not_or, not_not] at stays
    rw [State.moveDone_of_retires n driven stays.1 stays.2]
    have life : ((s.arrives x n driven).loop x.loop).life = .retiring :=
      (s.loop_arrives_self x n driven).life.trans stays.2
    have vacant := State.keepsWork_becomeVacant (s := s.arrives x n driven)
      (by rw [life]; exact Lifecycle.noConfusion) other
    have vacates := (s.arrives x n driven).vacates_becomeVacant x.loop
    refine arrived.trans (vacant.trans (.trans ?_ (State.keepsWork_markLoopIf _ _ _ _)))
    exact State.keepsWork_takeEnd (by rw [vacates.state, state]; exact DriveState.noConfusion) x .done none

end

/-! ### A start that leaves opening under way leaves work of the manifold (R152) -/

/-- Work of a loop: its want, its waiting entry, or its move. -/
def State.Works (s : State) (j : LoopIx) : Prop :=
  (s.loop j).want ≠ none ∨ s.queued j = true ∨ s.movingLoop j = true

theorem State.not_still_iff (s : State) (m : Manifold) : ¬s.Still m ↔ ∃ j, manifoldOf j = m ∧ s.Works j := by
  have loop (j : LoopIx) : ((s.loop j).want = none ∧ (∀ e ∈ s.drive.queue, e.loop ≠ j) ∧
      ∀ r, s.drive.moving = some r → r.loop ≠ j) ↔ ¬s.Works j := by
    rw [State.Works, ← State.queued_eq_false, ← State.movingLoop_eq_false]
    simp only [ne_eq, not_or, not_not, Bool.not_eq_true]
  simp only [State.Still, loop, not_forall, not_not, exists_prop]

theorem State.KeepsWork.works {s t : State} {j : LoopIx} (h : State.KeepsWork j s t) (still : s.movingLoop j = false)
    (w : s.Works j) : t.Works j := by
  rcases w with want | queued | moving
  · exact .inl (h.want want)
  · exact .inr (.inl (h.queued queued))
  · exact Bool.noConfusion (still.symm.trans moving)

theorem State.still_records {s t : State} (h : s.SameRecords t) (m : Manifold) : t.Still m ↔ s.Still m := by
  simp only [State.Still, h.loop, h.drive]

/-- Opening is examined at the very end of a move's end: where it goes on, work of the manifold is left (R86, R152). -/
theorem State.still_takeEnd {s before : State} {x : Move} {e : MoveEnd} {r : Option EndReason} {b : Bool}
    (opening : (((s.takeEnd x e r b).tellHead before x.loop).campaign (manifoldOf x.loop)).state = .opening) :
    ¬((s.takeEnd x e r b).tellHead before x.loop).Still (manifoldOf x.loop) := by
  unfold State.takeEnd at opening ⊢
  generalize ((s.stopRunning x e r).holdAtEnd b).aim x.loop = u at opening ⊢
  rw [State.tellHead, State.still_records (State.records_markLoopIf _ _ _ _), State.still_records (State.records_markLoopIf _ _ _ _)]
  rw [State.tellHead, ((State.records_markLoopIf _ _ _ _).spares _).campaign,
    ((State.records_markLoopIf _ _ _ _).spares _).campaign, State.campaign_examineOpening] at opening
  by_cases ended : (u.campaign (manifoldOf x.loop)).state = .opening ∧ u.openingOver (manifoldOf x.loop) = true
  · rw [if_pos ended] at opening
    exact CampaignState.noConfusion opening
  · rw [if_neg ended] at opening
    rw [State.examineOpening, if_neg ended, ← State.openingOver_iff]
    exact fun still => ended ⟨opening, still⟩

theorem State.still_moveDone {s : State} {x : Move} {n : Nat} {driven : Bool}
    (opening : ((s.moveDone x n driven).campaign (manifoldOf x.loop)).state = .opening) :
    ¬(s.moveDone x n driven).Still (manifoldOf x.loop) := State.still_takeEnd opening

/-- A loop with a move has work. -/
theorem State.works_of_moving {s : State} {x : Move} (h : s.drive.moving = some x) : s.Works x.loop := by
  refine .inr (.inr ?_)
  rw [State.movingLoop, h]
  exact decide_eq_true rfl

/-- The work of a loop as the entry at the head is taken up. -/
theorem State.works_taken_up {s : State} {e : Entry} {rest : List Entry} {j : LoopIx} {x : Move}
    (still : s.drive.moving = none) (queue : s.drive.queue = e :: rest) (loop : x.loop = e.loop) (w : s.Works j) :
    (((s.setQueue rest).begun e.move).setMoving (some x)).Works j := by
  by_cases self : j = e.loop
  · rw [self, ← loop]
    generalize (s.setQueue rest).begun e.move = u
    exact State.works_of_moving (s := u.setMoving (some x)) rfl
  · rcases w with want | queued | moving
    · refine .inl ?_
      have same : ((s.setQueue rest).begun e.move).loop j = s.loop j := State.loop_begun_ne (s.setQueue rest) e.move self
      rw [State.loop_setMoving, same]
      exact want
    · refine .inr (.inl ?_)
      obtain ⟨f, mem, names⟩ := List.any_eq_true.1 queued
      rw [queue] at mem
      rcases List.mem_cons.1 mem with rfl | later
      · exact absurd (of_decide_eq_true names).symm self
      · have stands := State.queue_begun (s.setQueue rest) e.move
        generalize (s.setQueue rest).begun e.move = u at stands
        refine List.any_eq_true.2 ⟨f, ?_, names⟩
        rw [show (u.setMoving (some x)).drive.queue = u.drive.queue from rfl, stands]
        exact List.mem_append_left _ later
    · rw [State.movingLoop, still] at moving
      exact Bool.noConfusion moving

/-! ### A campaign examined beside its round timer (R130, R149, R156) -/

/-- One manifold's round and what its conditions read but for the campaign are as they were, and an open counter that is 0
stays 0. -/
structure State.KeepsRound (s : State) (m : Manifold) (t : State) : Prop where
  round : s.SameRound m t
  house : t.house = s.house
  channels : t.channels = s.channels
  driveState : t.drive.state = s.drive.state
  counters : ∀ i, (s.loop i).openCounter = 0 → (t.loop i).openCounter = 0

theorem State.Spares.keepsRound {s t : State} {m : Manifold} (h : s.Spares m t) : s.KeepsRound m t :=
  ⟨h.round, h.house, h.channels, h.driveState, h.counters⟩

theorem State.KeepsRound.trans {s t u : State} {m : Manifold} (h : s.KeepsRound m t) (g : t.KeepsRound m u) :
    s.KeepsRound m u :=
  ⟨⟨g.round.timer.trans h.round.timer, g.round.supplyRef.trans h.round.supplyRef⟩, g.house.trans h.house,
    g.channels.trans h.channels, g.driveState.trans h.driveState, fun i z => g.counters i (h.counters i z)⟩

theorem State.keepsRound_setCampaign (s : State) (n : Manifold) (c : Campaign) (m : Manifold) :
    s.KeepsRound m (s.setCampaign n c) := ⟨⟨rfl, rfl⟩, rfl, rfl, rfl, fun _ => id⟩

theorem State.FreshRound.of_keeps {s t : State} {m : Manifold} {runs : Prop} (h : s.FreshRound m runs)
    (g : s.KeepsRound m t) : t.FreshRound m runs := by
  obtain ⟨⟨running, frozen, settleBase, design, deadband, supplyRef⟩, counters⟩ := h
  rw [← g.round.timer] at running frozen settleBase design deadband
  rw [← g.house] at running settleBase design deadband
  rw [← g.round.supplyRef, ← State.channel_congr g.channels] at supplyRef
  exact ⟨⟨running, frozen, settleBase, design, deadband, supplyRef⟩, fun i same => g.counters i (counters i same)⟩

theorem State.KeepsRound.conditions {s t : State} {m : Manifold} (h : s.KeepsRound m t)
    (rounds : (t.campaign m).state = .rounds ↔ (s.campaign m).state = .rounds) :
    t.RoundConditions m ↔ s.RoundConditions m := by
  unfold State.RoundConditions
  rw [h.house, h.driveState, rounds, State.channel_congr h.channels]

theorem State.Checked.of_keeps {s t u : State} {m : Manifold} (h : s.Checked m t) (g : t.KeepsRound m u)
    (conditions : u.RoundConditions m ↔ t.RoundConditions m) : s.Checked m u := by
  refine ⟨fun w => ?_, fun w n => ?_, fun w n => ?_, fun w c => ?_⟩
  · exact g.round.timer.trans (h.freezes fun v => w (conditions.2 v))
  · exact (h.released (conditions.1 w) n).of_keeps g
  · exact g.round.timer.trans (h.runsOn (conditions.1 w) n)
  · rw [g.round.supplyRef]
    refine h.supplyRef (w.imp id fun v z => v (conditions.2 z)) ?_
    rwa [State.channel_congr g.channels] at c

/-- A cause of suspension is a failed condition of the round timer (R130, R156). -/
theorem State.Suspends.conditions {s : State} {m : Manifold} (h : s.Suspends m) : ¬s.RoundConditions m := by
  rintro ⟨-, -, pause, running, supply⟩
  rcases h with paused | stopped | failed
  · rw [pause] at paused
    exact Bool.noConfusion paused
  · exact stopped running
  · exact failed supply

/-- The ways an examination can go, of a campaign whose round timer is FROZEN where its conditions fail: nothing, a
suspension or a return to OPENING, and an entry into ROUNDS. -/
theorem State.checkCampaign_forms {s : State} {m : Manifold}
    (frozen : ¬s.RoundConditions m → (s.timer m).remaining = none) :
    s.checkCampaign m = s ∨
      (∃ c : Campaign, c.state ≠ .rounds ∧ ((s.campaign m).state = .rounds → s.Suspends m) ∧
        s.checkCampaign m = (s.setCampaign m c).markHouse true) ∨
      (s.campaign m).state = .suspended ∧ ∃ u : State, s.checkCampaign m = (u.enterRounds m).markHouse true := by
  unfold State.checkCampaign
  split
  · exact .inl rfl
  · next opening =>
      split_ifs with held
      · exact .inr (.inl ⟨_, CampaignState.noConfusion, fun _ => (s.held_iff m).1 held, rfl⟩)
      · exact .inl rfl
  · next rounds =>
      split_ifs with held
      · refine .inr (.inl ⟨{ s.campaign m with state := .suspended, resume := some .rounds }, CampaignState.noConfusion,
          fun _ => (s.held_iff m).1 held, ?_⟩)
        have fails := ((s.held_iff m).1 held).conditions
        have stays : (s.setCampaign m { s.campaign m with state := .suspended, resume := some .rounds }).checkTimer m =
            s.setCampaign m { s.campaign m with state := .suspended, resume := some .rounds } := by
          generalize e : s.setCampaign m _ = u
          have held' : u.Suspends m := by
            rw [← e]
            exact (s.held_iff m).1 held
          have stopped : u.timerRunning m = false := by
            rw [State.timerRunning, ← e, State.timer, State.setCampaign_timers, ← State.timer, frozen fails]
            rfl
          rw [State.checkTimer, if_neg fun runs => held'.conditions ((u.timerRuns_iff m).1 runs), stopped]
          rfl
        exact congrArg (State.markHouse · true) stays
      · exact .inl rfl
  · next suspended =>
      split_ifs with held
      · exact .inl rfl
      · unfold State.resumed State.endOpening
        split_ifs with rounds ended
        · exact .inr (.inr ⟨suspended, _, rfl⟩)
        · exact .inr (.inr ⟨suspended, _, rfl⟩)
        · refine .inr (.inl ⟨_, CampaignState.noConfusion, fun w => ?_, rfl⟩)
          exact CampaignState.noConfusion (suspended.symm.trans w)

section
variable {s t : State} {m : Manifold}

/-- The conditions of the round timer after a change of the campaign's record alone, to a state other than ROUNDS. -/
theorem State.conditions_setCampaign {c : Campaign} (other : c.state ≠ .rounds)
    (leaves : (s.campaign m).state = .rounds → s.Suspends m) :
    (s.setCampaign m c).RoundConditions m ↔ s.RoundConditions m := by
  by_cases rounds : (s.campaign m).state = .rounds
  · have held : (s.setCampaign m c).Suspends m := leaves rounds
    exact iff_of_false held.conditions (leaves rounds).conditions
  · refine (s.keepsRound_setCampaign m c m).conditions ?_
    rw [State.campaign_setCampaign]
    exact iff_of_false other rounds

theorem State.Timed.of_checked (h : s.Checked m t) (same : t.campaign m = s.campaign m) : s.Timed m t :=
  ⟨fun before after => absurd (same ▸ after) before, fun _ => h⟩

/-- A campaign examined after the check of its round timer (R130, R149). -/
theorem State.Checked.timed (h : s.Checked m t) (same : t.campaign m = s.campaign m) : s.Timed m (t.checkCampaign m) := by
  have frozen : ¬t.RoundConditions m → (t.timer m).remaining = none := fun fails => by rw [h.freezes fails]
  rcases State.checkCampaign_forms frozen with stays | ⟨c, other, leaves, suspended⟩ | ⟨suspended, u, enters⟩
  · rw [stays]
    exact .of_checked h same
  · rw [suspended]
    have told := (t.setCampaign m c).spares_markHouse true m
    have conditions := told.roundConditions.trans (State.conditions_setCampaign other leaves)
    refine ⟨fun _ after => absurd after ?_, fun _ => h.of_keeps ?_ conditions⟩
    · rw [told.campaign, State.campaign_setCampaign]
      exact other
    · exact (t.keepsRound_setCampaign m c m).trans told.keepsRound
  · rw [enters]
    have told := (u.enterRounds m).spares_markHouse true m
    have fresh := ((u.fresh_enterRounds m).of_spares told).congr told.roundConditions.symm
    refine ⟨fun _ _ => fresh, fun w => ?_⟩
    rcases w with before | after
    · rw [same] at suspended
      exact CampaignState.noConfusion (before.symm.trans suspended)
    · refine absurd ?_ after
      rw [told.campaign, State.campaign_enterRounds]

/-- A round that has just started, where the conditions hold, has still just started once the campaign is examined. -/
theorem State.FreshRound.checkCampaign (fresh : s.FreshRound m (s.RoundConditions m)) :
    (s.checkCampaign m).FreshRound m ((s.checkCampaign m).RoundConditions m) := by
  rcases State.checkCampaign_forms fresh.started.frozen with stays | ⟨c, other, leaves, suspended⟩ | ⟨-, u, enters⟩
  · rw [stays]
    exact fresh
  · rw [suspended]
    have told := (s.setCampaign m c).spares_markHouse true m
    have conditions := told.roundConditions.trans (State.conditions_setCampaign other leaves)
    exact (fresh.of_keeps ((s.keepsRound_setCampaign m c m).trans told.keepsRound)).congr conditions.symm
  · rw [enters]
    have told := (u.enterRounds m).spares_markHouse true m
    exact ((u.fresh_enterRounds m).of_spares told).congr told.roundConditions.symm

end

theorem State.spares_checkCampaign (s : State) {n m : Manifold} (other : n ≠ m) : s.Spares m (s.checkCampaign n) := by
  have suspended (r : ResumeState) : s.Spares m ((s.suspend n r).markHouse true) := by
    refine .trans (.trans (s.spares_setCampaign other { s.campaign n with state := .suspended, resume := some r }) ?_)
      (State.spares_markHouse _ true m)
    unfold State.suspend State.checkTimerIf
    split_ifs
    · exact State.spares_checkTimer _ other
    · exact .refl _ m
  unfold State.checkCampaign
  split
  · exact .refl s m
  · split_ifs
    · exact suspended _
    · exact .refl s m
  · split_ifs
    · exact suspended _
    · exact .refl s m
  · split_ifs
    · exact .refl s m
    · refine .trans ?_ (State.spares_markHouse _ true m)
      unfold State.resumed State.endOpening
      split_ifs
      · exact s.spares_enterRounds other
      · exact (s.spares_setCampaign other _).trans (State.spares_enterRounds _ other)
      · exact s.spares_setCampaign other _

/-- Both campaigns examined, A's first (R156). -/
def State.checkCampaigns (s : State) : State := (s.checkCampaign .a).checkCampaign .b

theorem State.Checked.timed_both {s t : State} {m : Manifold} (h : s.Checked m t) (same : t.campaign m = s.campaign m) :
    s.Timed m t.checkCampaigns := by
  unfold State.checkCampaigns
  cases m with
  | a =>
    have other := (t.checkCampaign .a).spares_checkCampaign (n := .b) (m := .a) Manifold.noConfusion
    obtain ⟨entered, checked⟩ := h.timed same
    rw [← other.campaign] at entered checked
    exact ⟨fun w v => ((entered w v).of_spares other).congr other.roundConditions.symm,
      fun w => (checked w).of_spares other⟩
  | b =>
    have other := t.spares_checkCampaign (n := .a) (m := .b) Manifold.noConfusion
    exact (h.of_spares other).timed (other.campaign.trans same)

theorem State.FreshRound.checkCampaigns {s : State} {m : Manifold} (fresh : s.FreshRound m (s.RoundConditions m)) :
    s.checkCampaigns.FreshRound m (s.checkCampaigns.RoundConditions m) := by
  unfold State.checkCampaigns
  cases m with
  | a =>
    have other := (s.checkCampaign .a).spares_checkCampaign (n := .b) (m := .a) Manifold.noConfusion
    exact (fresh.checkCampaign.of_spares other).congr other.roundConditions.symm
  | b =>
    have other := s.spares_checkCampaign (n := .a) (m := .b) Manifold.noConfusion
    exact ((fresh.of_spares other).congr other.roundConditions.symm).checkCampaign

/-! ### An examination, and what comes before and after it -/

/-- What an examination's account speaks of, the campaign record aside. -/
structure State.SameGrounds (s : State) (m : Manifold) (t : State) : Prop where
  campaign : t.campaign m = s.campaign m
  suspends : t.Suspends m ↔ s.Suspends m
  still : t.Still m ↔ s.Still m
  moving : t.drive.moving = s.drive.moving
  dwell : t.drive.dwell = s.drive.dwell

theorem State.Examined.of_same {s t u : State} {m : Manifold} (h : s.Examined m t) (g : t.SameGrounds m u) :
    s.Examined m u := by
  obtain ⟨idle, opening, rounds, opened, counted, suspended, toRounds, resumes, toOpening⟩ := h
  rw [← g.campaign, ← g.suspends, ← g.dwell, ← g.still] at opening
  rw [← g.campaign, ← g.suspends, ← g.dwell, ← g.moving, ← g.still] at toOpening
  rw [← g.campaign, ← g.suspends, ← g.still] at toRounds
  rw [← g.campaign] at idle
  rw [← g.campaign, ← g.suspends] at rounds opened counted suspended resumes
  exact ⟨idle, opening, rounds, opened, counted, suspended, toRounds, resumes, toOpening⟩

theorem State.Examined.of_before {r s t : State} {m : Manifold} (h : s.Examined m t)
    (campaign : s.campaign m = r.campaign m) (moving : s.drive.moving = r.drive.moving)
    (dwell : s.drive.dwell = r.drive.dwell) : r.Examined m t := by
  obtain ⟨idle, opening, rounds, opened, counted, suspended, toRounds, resumes, toOpening⟩ := h
  rw [campaign] at idle opening rounds opened counted suspended toRounds resumes toOpening
  rw [dwell] at opening toOpening
  rw [moving] at toOpening
  exact ⟨idle, opening, rounds, opened, counted, suspended, toRounds, resumes, toOpening⟩

theorem State.Counted.still {s t : State} (h : s.Counted t) (drive : t.drive = s.drive) (m : Manifold) :
    t.Still m ↔ s.Still m := by
  have want (i : LoopIx) : (t.loop i).want = (s.loop i).want := (h.loop i).want
  simp only [State.Still, want, drive]

theorem State.suspends_congr {s t : State} (house : t.house = s.house) (channels : t.channels = s.channels)
    (state : t.drive.state = s.drive.state) (m : Manifold) : t.Suspends m ↔ s.Suspends m := by
  unfold State.Suspends
  rw [house, state, State.channel_congr channels]

/-- The examination of the other manifold's campaign leaves the grounds of this one. -/
theorem State.sameGrounds_checkCampaign (s : State) {n m : Manifold} (other : n ≠ m) :
    s.SameGrounds m (s.checkCampaign n) := by
  have spares := s.spares_checkCampaign other
  have drive := s.drive_checkCampaign n
  exact ⟨spares.campaign, State.suspends_congr spares.house spares.channels spares.driveState m,
    (s.counted_checkCampaign n).still drive m, by rw [drive], by rw [drive]⟩

theorem State.examined_checkCampaigns (s : State) (m : Manifold) : s.Examined m s.checkCampaigns := by
  unfold State.checkCampaigns
  cases m with
  | a => exact (s.examined_checkCampaign .a).of_same (State.sameGrounds_checkCampaign _ Manifold.noConfusion)
  | b =>
    have other := s.sameGrounds_checkCampaign (n := .a) (m := .b) Manifold.noConfusion
    exact (State.examined_checkCampaign _ .b).of_before other.campaign other.moving other.dwell

/-- A suspended campaign for which no cause holds resumes, whatever its resume state says (R157). -/
def State.Resumes (s : State) (m : Manifold) (t : State) : Prop :=
  (s.campaign m).state = .suspended → ¬t.Suspends m →
    ∃ x ∈ [CampaignState.opening, .rounds], t.campaign m = { s.campaign m with state := x, resume := none }

theorem State.resumes_checkCampaign (s : State) (m : Manifold) : s.Resumes m (s.checkCampaign m) := by
  intro suspended free
  have free' : s.held m ≠ true := fun held => free ((s.suspends_checkCampaign m).2 ((s.held_iff m).1 held))
  have resumed : (s.checkCampaign m).campaign m = (s.resumed m).campaign m := by
    unfold State.checkCampaign
    split <;> simp_all only [reduceCtorEq, Bool.not_eq_true]
    exact (State.spares_markHouse _ true m).campaign
  rw [resumed, State.campaign_resumed]
  split_ifs
  · exact ⟨.rounds, by simp, rfl⟩
  · exact ⟨.opening, by simp, rfl⟩

theorem State.Resumes.of_same {s t u : State} {m : Manifold} (h : s.Resumes m t) (g : t.SameGrounds m u) :
    s.Resumes m u := fun suspended free => by
  rw [g.campaign]
  exact h suspended fun held => free (g.suspends.2 held)

theorem State.Resumes.of_before {r s t : State} {m : Manifold} (h : s.Resumes m t)
    (campaign : s.campaign m = r.campaign m) : r.Resumes m t := by
  unfold State.Resumes at h ⊢
  rwa [campaign] at h

theorem State.resumes_checkCampaigns (s : State) (m : Manifold) : s.Resumes m s.checkCampaigns := by
  unfold State.checkCampaigns
  cases m with
  | a => exact (s.resumes_checkCampaign .a).of_same (State.sameGrounds_checkCampaign _ Manifold.noConfusion)
  | b =>
    have other := s.sameGrounds_checkCampaign (n := .a) (m := .b) Manifold.noConfusion
    exact (State.resumes_checkCampaign _ .b).of_before other.campaign

/-! ### The start of a move after an examination (R83, R152) -/

section
variable {s : State} (marks : s.MarkLaw) {m : Manifold}
include marks

/-- Where opening is still under way after the start of a move that found work, there is work. -/
theorem State.still_serve (working : ¬s.Still m) (opening : (s.serve.campaign m).state = .opening) :
    ¬s.serve.Still m := by
  by_cases start : s.canStart = true
  · obtain ⟨e, rest, queue⟩ := State.canStart_queue start
    have free := marks.free start
    have resting : s.drive.moving = none := ((State.canStart_iff s).1 start).1
    obtain ⟨x, loop, kind, runs | ⟨moves, n, ends⟩⟩ := State.serve_runs_or_ends start queue
    · obtain ⟨j, place, works⟩ := (s.not_still_iff m).1 working
      rw [runs, State.not_still_iff]
      exact ⟨j, place, State.works_taken_up resting queue loop works⟩
    · by_cases own : manifoldOf x.loop = m
      · rw [ends, ← own] at opening
        rw [ends, ← own]
        exact State.still_moveDone opening
      · obtain ⟨j, place, works⟩ := (s.not_still_iff m).1 working
        have other : j ≠ x.loop := fun self => own (self ▸ place)
        have taken := State.works_taken_up resting queue loop works
        have unmarked : (((s.setQueue rest).begun e.move).loop x.loop).restartMark = false :=
          State.restartMark_begun (s := s.setQueue rest) free.marks e.move x.loop
        have state := (s.spares_taken_up rest e.move x m).driveState.trans free.state
        rw [ends, State.not_still_iff]
        generalize (s.setQueue rest).begun e.move = u at taken unmarked state
        have kept := State.keepsWork_moveDone (s := u.setMoving (some x)) (j := j) unmarked state n false other
        exact ⟨j, place, kept.works (decide_eq_false (Ne.symm other)) taken⟩
  · rw [State.serve, if_neg start]
    exact working

omit marks in
/-- A start that ends opening has ended a move, whose dwell begins (R86, R88). -/
theorem State.Enters.dwell_serve (enters : s.Enters m s.serve) : s.serve.drive.dwell ≠ s.drive.dwell := by
  by_cases start : s.canStart = true
  · obtain ⟨e, rest, queue⟩ := State.canStart_queue start
    obtain ⟨-, rested, -⟩ := (State.canStart_iff s).1 start
    obtain ⟨x, loop, kind, runs | ⟨moves, n, ends⟩⟩ := State.serve_runs_or_ends start queue
    · have spares := s.spares_taken_up rest e.move x m
      rw [← runs] at spares
      have state := enters.rounds
      rw [spares.campaign, enters.opening] at state
      exact CampaignState.noConfusion state
    · rw [ends, State.dwell_moveDone, rested]
      exact Option.some_ne_none _
  · have state := enters.rounds
    rw [State.serve, if_neg start, enters.opening] at state
    exact CampaignState.noConfusion state

omit marks in
/-- With the same move and the same dwell, no move has started. -/
theorem State.serve_of_same (moving : s.serve.drive.moving = s.drive.moving) (dwell : s.serve.drive.dwell = s.drive.dwell) :
    s.serve = s := by
  by_cases start : s.canStart = true
  · obtain ⟨e, rest, queue⟩ := State.canStart_queue start
    obtain ⟨resting, rested, -⟩ := (State.canStart_iff s).1 start
    obtain ⟨x, loop, kind, runs | ⟨moves, n, ends⟩⟩ := State.serve_runs_or_ends start queue
    · rw [runs, resting] at moving
      exact absurd moving (Option.some_ne_none _)
    · rw [ends, State.dwell_moveDone, rested] at dwell
      exact absurd dwell (Option.some_ne_none _)
  · rw [State.serve, if_neg start]

omit marks in
/-- A manifold with no work has none after the start of another manifold's move, while that runs. -/
theorem State.still_serve_of_runs (still : s.Still m) (dwell : s.serve.drive.dwell = s.drive.dwell) :
    s.serve.Still m := by
  by_cases start : s.canStart = true
  · obtain ⟨e, rest, queue⟩ := State.canStart_queue start
    obtain ⟨resting, rested, -⟩ := (State.canStart_iff s).1 start
    obtain ⟨x, loop, kind, runs | ⟨moves, n, ends⟩⟩ := State.serve_runs_or_ends start queue
    · rw [runs]
      intro i place
      obtain ⟨want, waits, -⟩ := still i place
      have other : i ≠ e.loop := fun self => waits e (by rw [queue]; exact List.mem_cons_self) self.symm
      have same : ((s.setQueue rest).begun e.move).loop i = s.loop i :=
        State.loop_begun_ne (s.setQueue rest) e.move other
      have grown := State.queue_begun (s.setQueue rest) e.move
      have up : ((s.setQueue rest).takenUp e.move).loop i = s.loop i := by
        rw [← same, State.begun_eq, State.loop_fill]
      generalize (s.setQueue rest).takenUp e.move = v at grown up
      generalize (s.setQueue rest).begun e.move = u at same grown
      refine ⟨by rw [State.loop_setMoving, same, want], fun f mem names => ?_, fun r moving => ?_⟩
      · rw [show (u.setMoving (some x)).drive.queue = u.drive.queue from rfl, grown, List.mem_append] at mem
        rcases mem with later | filled
        · exact waits f (by rw [queue]; exact List.mem_cons_of_mem e later) names
        · obtain ⟨j, listed, made⟩ := List.mem_filterMap.1 filled
          obtain ⟨k, wanted, entry⟩ := Option.map_eq_some_iff.1 made
          have self : j = i := by
            rw [← names, ← entry]
            rfl
          rw [self, up, want] at wanted
          exact absurd wanted.symm (Option.some_ne_none k)
      · have that : x = r := Option.some.inj moving
        rw [← that, loop]
        exact Ne.symm other
    · rw [ends, State.dwell_moveDone, rested] at dwell
      exact absurd dwell (Option.some_ne_none _)
  · rw [State.serve, if_neg start]
    exact still

end

section
variable {r s : State} {m : Manifold} (marks : s.MarkLaw)
include marks

/-- A report heard by the round timer and the campaign, then the start of a move (R130, R145, R152). -/
theorem State.Timed.serve (h : r.Timed m s) (forward : (r.campaign m).state = .rounds → (s.campaign m).state ≠ .opening) :
    r.Timed m s.serve := by
  rcases State.passes_serve marks m with spares | enters
  · obtain ⟨entered, checked⟩ := h
    rw [← spares.campaign] at entered checked
    exact ⟨fun w v => ((entered w v).of_spares spares).congr spares.roundConditions.symm,
      fun w => (checked w).of_spares spares⟩
  · refine ⟨fun _ _ => enters.fresh, fun w => ?_⟩
    rcases w with rounds | other
    · exact absurd enters.opening (forward rounds)
    · exact absurd enters.rounds other

/-- An examination, then the start of a move, which may end opening in its turn (R152, R157). -/
theorem State.Examined.serve (h : r.Examined m s) (resumed : r.Resumes m s)
    (moving : s.drive.moving = r.drive.moving) (dwell : s.drive.dwell = r.drive.dwell) : r.Examined m s.serve := by
  have passes := State.passes_serve marks m
  have sus : s.serve.Suspends m ↔ s.Suspends m :=
    State.suspends_congr passes.house passes.channels passes.driveState m
  have alone {x : CampaignState} (state : (s.campaign m).state = x) (other : x ≠ .opening) :
      s.serve.campaign m = s.campaign m := (passes.spares (by rw [state]; exact other)).campaign
  have moved (state : (r.campaign m).state = .suspended) (free : ¬s.Suspends m) :
      s.serve.campaign m = { r.campaign m with state := .rounds, resume := none } ∨
        s.serve.campaign m = { r.campaign m with state := .opening, resume := none } := by
    obtain ⟨x, listed, becomes⟩ := resumed state free
    rcases passes with spares | enters
    · rw [spares.campaign, becomes]
      rcases List.mem_cons.1 listed with rfl | listed
      · exact .inr rfl
      · rw [List.mem_singleton.1 listed]
        exact .inl rfl
    · rw [enters.campaign, becomes]
      exact .inl rfl
  refine ⟨fun a => ?_, fun a b => ?_, fun a b => ?_, fun a b => ?_, fun a b => ?_, fun a b => ?_, fun a b d => ?_,
    fun a b d => ?_, fun a b d e f g => ?_⟩
  · have same := h.idle a
    exact (alone (by rw [same, a]) CampaignState.noConfusion).trans same
  · rcases h.opening a (fun w => b (sus.2 w)) with same | ⟨still, becomes⟩
    · rcases passes with spares | enters
      · exact .inl (spares.campaign.trans same)
      · refine .inr ⟨fun unchanged => absurd (unchanged.trans dwell.symm) (State.Enters.dwell_serve enters), ?_⟩
        rw [enters.campaign, same]
    · refine .inr ⟨fun unchanged => ?_, (alone (by rw [becomes]) CampaignState.noConfusion).trans becomes⟩
      exact State.still_serve_of_runs (still dwell) (unchanged.trans dwell.symm)
  · have same := h.rounds a (fun w => b (sus.2 w))
    exact (alone (by rw [same, a]) CampaignState.noConfusion).trans same
  · have becomes := h.opened a (sus.1 b)
    exact (alone (by rw [becomes]) CampaignState.noConfusion).trans becomes
  · have becomes := h.counted a (sus.1 b)
    exact (alone (by rw [becomes]) CampaignState.noConfusion).trans becomes
  · have same := h.suspended a (sus.1 b)
    exact (alone (by rw [same, a]) CampaignState.noConfusion).trans same
  · have free : ¬s.Suspends m := fun w => b (sus.2 w)
    rcases d with rounds | still
    · have becomes := h.toRounds a free (.inl rounds)
      exact (alone (by rw [becomes]) CampaignState.noConfusion).trans becomes
    · by_cases before : s.Still m
      · have becomes := h.toRounds a free (.inr before)
        exact (alone (by rw [becomes]) CampaignState.noConfusion).trans becomes
      · rcases moved a free with becomes | becomes
        · exact becomes
        · exact absurd still (State.still_serve marks before (by rw [becomes]))
  · rcases moved a (fun w => b (sus.2 w)) with becomes | becomes
    · exact ⟨.rounds, by simp, becomes⟩
    · exact ⟨.opening, by simp, becomes⟩
  · have same : s.serve = s := State.serve_of_same (f.trans moving.symm) (g.trans dwell.symm)
    rw [same] at e ⊢
    exact h.toOpening a (fun w => b (sus.2 w)) d e moving dwell

end

/-! ### The drive RUNNING again (R92, R130, R156) -/

theorem State.spares_recountAll (s : State) (m : Manifold) : s.Spares m s.recountAll :=
  (s.quiet_recountAll).spares s.steps_recountAll m

/-- Both round timers checked, A's first (R130). -/
def State.checkTimers (s : State) : State := (s.checkTimer .a).checkTimer .b

theorem State.checked_checkTimers (s : State) (m : Manifold) : s.Checked m s.checkTimers := by
  unfold State.checkTimers
  cases m with
  | a => exact (s.checked_checkTimer .a).of_spares (State.spares_checkTimer _ Manifold.noConfusion)
  | b => exact (s.spares_checkTimer (m := .a) Manifold.noConfusion).checked (State.checked_checkTimer _ .b)

theorem State.campaigns_checkTimers (s : State) : s.checkTimers.campaigns = s.campaigns :=
  (State.checkTimer_same _ .b).1.trans (s.checkTimer_same .a).1

theorem State.drive_checkTimers (s : State) : s.checkTimers.drive = s.drive :=
  (State.checkTimer_same _ .b).2.trans (s.checkTimer_same .a).2

theorem State.drive_checkCampaigns (s : State) : s.checkCampaigns.drive = s.drive :=
  (State.drive_checkCampaign _ .b).trans (s.drive_checkCampaign .a)

theorem State.setDriveState_eq {s : State} {d : DriveState} (moves : s.drive.state ≠ d) :
    s.setDriveState d = (((s.putDriveState d).recountAll.checkTimers).checkCampaigns).markHouse true := if_neg moves

theorem State.Timed.of_spares {s t u : State} {m : Manifold} (h : s.Timed m t) (g : t.Spares m u) : s.Timed m u := by
  obtain ⟨entered, checked⟩ := h
  rw [← g.campaign] at entered checked
  exact ⟨fun w v => ((entered w v).of_spares g).congr g.roundConditions.symm, fun w => (checked w).of_spares g⟩

/-- What the account of a report to the timers reads of the state before. -/
theorem State.Timed.of_before {r s t : State} {m : Manifold} (h : s.Timed m t) (timer : s.timer m = r.timer m)
    (supplyRef : s.supplyRefs.get m = r.supplyRefs.get m) (campaign : s.campaign m = r.campaign m)
    (channels : s.channels = r.channels) : r.Timed m t := by
  obtain ⟨entered, checked⟩ := h
  rw [campaign] at entered checked
  refine ⟨entered, fun w => ?_⟩
  obtain ⟨freezes, released, runsOn, kept⟩ := checked w
  rw [timer] at freezes released runsOn kept
  rw [State.channel_congr channels, supplyRef] at kept
  exact ⟨freezes, released, runsOn, kept⟩

theorem State.sameGrounds_markHouse (s : State) (b : Bool) (m : Manifold) : s.SameGrounds m (s.markHouse b) :=
  ⟨rfl, Iff.rfl, Iff.rfl, rfl, rfl⟩

theorem State.timed_setDriveState {s : State} {d : DriveState} (moves : s.drive.state ≠ d) (m : Manifold) :
    s.Timed m (s.setDriveState d) := by
  have counted := (s.putDriveState d).spares_recountAll m
  rw [State.setDriveState_eq moves]
  generalize (s.putDriveState d).recountAll = u at counted
  have timed := (u.checked_checkTimers m).timed_both (congrArg (PerManifold.get · m) u.campaigns_checkTimers)
  exact (timed.of_spares (State.spares_markHouse _ true m)).of_before counted.round.timer counted.round.supplyRef
    counted.campaign counted.channels

theorem State.examined_setDriveState {s : State} {d : DriveState} (moves : s.drive.state ≠ d) (m : Manifold) :
    s.Examined m (s.setDriveState d) ∧ s.Resumes m (s.setDriveState d) := by
  have campaign : (s.putDriveState d).recountAll.checkTimers.campaign m = s.campaign m :=
    (congrArg (PerManifold.get · m) (State.campaigns_checkTimers _)).trans ((s.putDriveState d).spares_recountAll m).campaign
  have drive : (s.putDriveState d).recountAll.checkTimers.drive = { s.drive with state := d } := State.drive_checkTimers _
  rw [State.setDriveState_eq moves]
  generalize (s.putDriveState d).recountAll.checkTimers = u at campaign drive
  have told := u.checkCampaigns.sameGrounds_markHouse true m
  exact ⟨((u.examined_checkCampaigns m).of_same told).of_before campaign (by rw [drive]) (by rw [drive]),
    ((u.resumes_checkCampaigns m).of_same told).of_before campaign⟩

theorem State.drive_setDriveState (s : State) (d : DriveState) : (s.setDriveState d).drive = { s.drive with state := d } := by
  by_cases same : s.drive.state = d
  · subst same
    rw [State.setDriveState, if_pos rfl]
  · rw [State.setDriveState_eq same, State.markHouse_drive, State.drive_checkCampaigns, State.drive_checkTimers]
    rfl

/-! ### RESUME (R92) -/

/-- A RESUME up to its answer: the drive RUNNING, and the next move started where one may start. -/
def State.resumedDrive (s : State) : State := (s.setDriveState .running).serve

section
variable {s : State}

theorem State.resumedDrive_running (running : s.drive.state = .running) (start : s.StartLaw) : s.resumedDrive = s := by
  rw [State.resumedDrive, State.setDriveState, if_pos running, State.serve_of_startLaw start]

theorem State.markLaw_setDriveState (marks : s.MarkLaw) (d : DriveState) : (s.setDriveState d).MarkLaw :=
  (s.mild_setDriveState d).markLaw (marks.putDriveState d)

theorem State.timed_resumedDrive (marks : s.MarkLaw) (moves : s.drive.state ≠ .running) (m : Manifold) :
    s.Timed m s.resumedDrive := by
  refine (State.timed_setDriveState moves m).serve (State.markLaw_setDriveState marks _) fun rounds => ?_
  have examined := (State.examined_setDriveState moves m).1
  by_cases held : (s.setDriveState .running).Suspends m
  · rw [examined.counted rounds held]
    exact CampaignState.noConfusion
  · rw [examined.rounds rounds held, rounds]
    exact CampaignState.noConfusion

theorem State.examined_resumedDrive (marks : s.MarkLaw) (moves : s.drive.state ≠ .running) (m : Manifold) :
    s.Examined m s.resumedDrive := by
  obtain ⟨examined, resumes⟩ := State.examined_setDriveState moves m
  have drive := s.drive_setDriveState .running
  exact examined.serve (State.markLaw_setDriveState marks _) resumes (by rw [drive]) (by rw [drive])

theorem State.drive_resumedDrive (h : s.drive.moving ≠ none ∨ s.drive.dwell ≠ none ∨ s.drive.queue = []) :
    s.resumedDrive.drive = { s.drive with state := .running } := by
  have drive := s.drive_setDriveState .running
  have waits : ¬(s.setDriveState .running).canStart = true := by
    rw [State.canStart_iff, drive]
    rintro ⟨still, rested, -, waiting⟩
    rcases h with moves | dwells | empty
    · exact moves still
    · exact dwells rested
    · exact waiting empty
  rw [State.resumedDrive, State.serve, if_neg waits, drive]

theorem State.entryStarts_resumedDrive (marks : s.MarkLaw) (still : s.drive.moving = none) (rested : s.drive.dwell = none)
    {e : Entry} {rest : List Entry} (queue : s.drive.queue = e :: rest) : s.EntryStarts e rest s.resumedDrive := by
  have drive := s.drive_setDriveState .running
  have starts : (s.setDriveState .running).canStart = true := by
    rw [State.canStart_iff, drive]
    exact ⟨still, rested, rfl, by rw [queue]; exact List.cons_ne_nil e rest⟩
  refine (State.entryStarts_serve (State.markLaw_setDriveState marks _) starts (by rw [drive]; exact queue)).of_counted ?_
  exact (s.counted_setDriveState .running).loop e.loop

end

theorem State.SameRecords.grounds {s t : State} (h : s.SameRecords t) (m : Manifold) : s.SameGrounds m t :=
  ⟨(h.spares m).campaign, State.suspends_congr h.house h.channels (by rw [h.drive]) m, State.still_records h m,
    by rw [h.drive], by rw [h.drive]⟩

theorem State.SameRecords.timed {s t u : State} {m : Manifold} (h : s.SameRecords t) (g : t.Timed m u) : s.Timed m u :=
  g.of_before (h.spares m).round.timer (h.spares m).round.supplyRef (h.spares m).campaign h.channels

theorem State.SameRecords.examined {s t u : State} {m : Manifold} (h : s.SameRecords t) (g : t.Examined m u) :
    s.Examined m u := g.of_before (h.spares m).campaign (by rw [h.drive]) (by rw [h.drive])

end Sys2Proof.Machine

open Sys2Proof Sys2Proof.Machine

/-- Settles O31: the drive is set RUNNING, which the timers and the campaigns hear, and the entry at the head starts. -/
theorem resumeReleasesTheDrive : Obligations.ResumeReleasesTheDrive := by
  intro s k x polled marks service
  have heard := s.heard_records k x
  have taken := polled.ordered service (take := fun t => ⟨.done, [], t.resumedDrive⟩)
    (show exec (.resume []) s = serviceOrder [] s fun t => ⟨.done, [], t.resumedDrive⟩ from rfl)
  have law : (s.heard k x).MarkLaw := marks
  refine ⟨fun running start => ?_, fun moves => ?_⟩
  · have same : (s.heard k x).resumedDrive = s.heard k x := State.resumedDrive_running (s := s.heard k x) running start
    exact onlyAnswers_of_refused taken (by rw [same]; rfl)
  · have finish := Taken.finish_records ⟨.done, [], (s.heard k x).resumedDrive⟩ k
    have mild := (s.heard k x).mild_setDriveState .running
    have moves' : (s.heard k x).drive.state ≠ .running := moves
    have started := State.onlyDrive_serve (State.markLaw_setDriveState law .running)
    have linked := (State.steps_serve _).calm.link.trans ((s.heard k x).steps_setDriveState .running).calm.link
    refine ⟨_, taken, State.replies_finish linked .done [], ?_, fun m => ⟨?_, ?_⟩, fun waits => ?_,
      fun still rested e rest queue => ?_⟩
    · exact (((heard.onlyDrive.putDriveState .running).trans mild.onlyDrive).trans started).trans finish.onlyDrive
    · exact heard.timed ((State.timed_resumedDrive law moves' m).of_spares (finish.spares m))
    · exact heard.examined ((State.examined_resumedDrive law moves' m).of_same (finish.grounds m))
    · exact finish.drive.trans (State.drive_resumedDrive (s := s.heard k x) waits)
    · have same : (s.loop e.loop).Counted ((s.heard k x).loop e.loop) := .inl rfl
      exact State.EntryStarts.of_counted same
        ((State.entryStarts_resumedDrive (s := s.heard k x) law still rested queue).of_records finish)
end

section
/-! PROOF. O35 and O36: what the start of a move leaves of a record, insertion (R59), and removal (R60, R81, R170). -/

namespace Sys2Proof.Machine

/-! ### What the start of a move leaves of a loop's record (R63, R83) -/

/-- The fields of a loop's record that no start of a move changes while the loop stays occupied. -/
structure Loop.Stands (l x : Loop) : Prop where
  life : x.life = l.life
  config : l.SameConfig x
  present : x.present = l.present
  homed : x.homed = l.homed
  capacity : x.capacity = l.capacity
  stepPos : x.stepPos = l.stepPos
  idleDays : x.idleDays = l.idleDays
  faults : x.faults = l.faults
  inBand : x.inBand = l.inBand
  balance : x.balance = l.balance
  deltaT : x.deltaT = l.deltaT
  restartMark : x.restartMark = l.restartMark

theorem Loop.Kept.stands {l x : Loop} (h : l.Kept x) : l.Stands x := by
  rcases l with ⟨⟩
  rcases x with ⟨⟩
  simp only [Loop.Kept, Loop.mk.injEq] at h
  obtain ⟨life, room, length, covering, owner, override, ceiling, balance, inBand, faults, present, homed, capacity,
    stepPos, rest⟩ := h
  constructor
  case config => constructor <;> simp_all
  all_goals simp_all

theorem Loop.Stands.trans {l x y : Loop} (h : l.Stands x) (g : x.Stands y) : l.Stands y :=
  ⟨g.life.trans h.life, h.config.trans g.config, g.present.trans h.present, g.homed.trans h.homed,
    g.capacity.trans h.capacity, g.stepPos.trans h.stepPos, g.idleDays.trans h.idleDays, g.faults.trans h.faults,
    g.inBand.trans h.inBand, g.balance.trans h.balance, g.deltaT.trans h.deltaT, g.restartMark.trans h.restartMark⟩

theorem Loop.Counted.kept {l x : Loop} (h : l.Counted x) : l.Kept x := by
  rcases h with same | zeroed
  · exact same ▸ .refl l
  · exact zeroed ▸ rfl

theorem Loop.Counted.stands {l x : Loop} (h : l.Counted x) : l.Stands x := h.kept.stands

/-- The loop that a start of a move finds occupied and not RETIRING. -/
theorem State.kept_serve {s : State} (marks : s.MarkLaw) {i : LoopIx} (stays : (s.loop i).life ≠ .retiring) :
    (s.loop i).Kept (s.serve.loop i) :=
  ((State.onlyDrive_serve marks).loops i List.not_mem_nil).resolve_right fun retires => stays retires.1

theorem State.SameDriver.markLaw {s t : State} (h : s.SameDriver t) (marks : s.MarkLaw) : t.MarkLaw := fun i mark =>
  (h.movingLoop i).trans (marks i (h.marks i mark))

/-! ### Insertion (R59, R10, R8) -/

theorem State.touches_voidBalance (s : State) (i : LoopIx) : State.Touches i s (s.voidBalance i) :=
  s.touches_modLoop i fun l => l.rate 0 (s.unmeasured i)

theorem State.loop_voidBalance (s : State) (i : LoopIx) :
    (s.voidBalance i).loop i = (s.loop i).rate 0 (s.unmeasured i) := by
  rw [State.voidBalance, State.loop_modLoop_self]

theorem State.unmeasured_eq {s : State} {i : LoopIx} (occupied : (s.loop i).life ≠ .vacant) :
    s.unmeasured i = if (s.loop i).owner = .service ∨ (s.channel (loopChannel i)).state = .fault then .excluded
      else .unmeasured := by
  simp [State.unmeasured, Loop.occupied, State.sensorFault, occupied]

/-- The head fields and the latch as an insertion sets them, the loop ENROLLED before (R59, R10, R8). -/
def Loop.inserted (l : Loop) : Loop :=
  (l.fitted.setLife .homing).setFaults (l.faults.withChanged true)

/-- The whole record once the insertion has been taken, open counter aside. -/
def Loop.insertedHome (l : Loop) (b : Balance) : Loop :=
  ((l.inserted.unhomed.setWant (some .home)).rate 0 b).setStroke 0 false

/-- The fields an insertion at the port of an ENROLLED loop leaves (R59). -/
structure Loop.Inserted (l : Loop) (b : Balance) (x : Loop) : Prop where
  config : l.SameConfig x
  life : x.life = .homing
  present : x.present = true
  homed : x.homed = false
  capacity : x.capacity = none
  stepPos : x.stepPos = none
  idleDays : x.idleDays = 0
  faults : x.faults = { l.faults with headChanged := true }
  inBand : x.inBand = 0
  balance : x.balance = b

theorem Loop.inserted_insertedHome (l : Loop) (b : Balance) : l.Inserted b (l.insertedHome b) :=
  ⟨⟨rfl, rfl, rfl, rfl, rfl, rfl⟩, rfl, rfl, rfl, rfl, rfl, rfl, rfl, rfl, rfl⟩

theorem Loop.Inserted.stands {l x y : Loop} {b : Balance} (h : l.Inserted b x) (g : x.Stands y) : l.Inserted b y :=
  ⟨h.config.trans g.config, g.life.trans h.life, g.present.trans h.present, g.homed.trans h.homed,
    g.capacity.trans h.capacity, g.stepPos.trans h.stepPos, g.idleDays.trans h.idleDays, g.faults.trans h.faults,
    g.inBand.trans h.inBand, g.balance.trans h.balance⟩

/-- The balance status of a loop that is voided (R141, R142). -/
def State.voidedBalance (s : State) (i : LoopIx) : Balance :=
  if (s.loop i).owner = .service ∨ (s.channel (loopChannel i)).state = .fault then .excluded else .unmeasured

section
variable {s : State} {i : LoopIx}

theorem State.touches_insertOccupied : State.Touches i s (s.insertOccupied i) := by
  unfold State.insertOccupied
  refine .trans ?_ ((State.quiet_tellHead _ s i).mild.touches i)
  refine .trans ?_ ((State.mild_lifeChanged _ i _).touches i)
  refine .trans ?_ ((State.quiet_tellBalance _ s i).mild.touches i)
  refine .trans ?_ (State.touches_voidBalance _ i)
  exact (s.touches_modLoop i _).trans (State.touches_wantHome _ i)

theorem State.loop_tellBalance (t before : State) (i j : LoopIx) : (t.tellBalance before i).loop j = t.loop j :=
  State.loop_markLoopIf _ _ _ _ _

theorem State.loop_insertOccupied (enrolled : (s.loop i).life = .enrolled) :
    ((s.loop i).insertedHome (s.voidedBalance i)).Counted ((s.insertOccupied i).loop i) := by
  unfold State.insertOccupied
  rw [State.loop_tellHead]
  have fitted : (s.modLoop i fun l => (l.fitted.setLife l.life.inserted).setFaults (l.faults.withChanged true)).loop i =
      (s.loop i).inserted := by
    rw [State.loop_modLoop_self, enrolled]
    rfl
  have channels : (s.modLoop i fun l => (l.fitted.setLife l.life.inserted).setFaults (l.faults.withChanged true)).channels =
      s.channels := rfl
  generalize s.modLoop i _ = u at fitted channels
  have home := u.loop_wantHome i
  have quiet : (u.wantHome i).channels = s.channels := (u.touches_wantHome i).onlyDrive.channels.trans channels
  rw [fitted] at home
  generalize u.wantHome i = v at home quiet
  have occupied : (v.loop i).life ≠ .vacant := by
    rw [home.life]
    exact Lifecycle.noConfusion
  have status : v.unmeasured i = s.voidedBalance i := by
    rw [State.unmeasured_eq occupied, State.voidedBalance, State.channel_congr quiet, home.stands.config.owner]
    rfl
  have voided := home.map (f := fun l => l.rate 0 (v.unmeasured i)) fun _ => rfl
  rw [← State.loop_voidBalance, ← State.loop_tellBalance (v.voidBalance i) s i i, status] at voided
  generalize (v.voidBalance i).tellBalance s i = w at voided
  have unready : (w.loop i).life ≠ .ready := by
    rw [voided.life]
    exact Lifecycle.noConfusion
  exact (voided.map (f := fun l => l.setStroke 0 false) fun _ => rfl).trans (w.loop_lifeChanged i _ i unready)

theorem State.link_insertOccupied (s : State) (i : LoopIx) : (s.insertOccupied i).link = s.link := by
  unfold State.insertOccupied
  have chain (u : State) : (((((u.wantHome i).voidBalance i).tellBalance s i).lifeChanged i (s.loop i).life).tellHead s
      i).link = u.link :=
    (((((u.steps_wantHome i).trans (State.steps_voidBalance _ i)).trans (State.steps_markLoopIf _ _ _ _)).trans
      (State.steps_lifeChanged _ i _)).trans (State.steps_tellHead _ s i)).calm.link
  exact chain _

theorem State.insert_present (present : (s.loop i).present = true) : s.insert i = s := if_pos present

theorem State.insert_vacant (absent : (s.loop i).present = false) (vacant : (s.loop i).life = .vacant) :
    s.insert i = (s.modLoop i Loop.fitted).tellHead s i := by
  rw [State.insert, absent, Loop.occupied, vacant]
  rfl

theorem State.insert_occupied (absent : (s.loop i).present = false) (occupied : (s.loop i).life ≠ .vacant) :
    s.insert i = (s.insertOccupied i).serve := by
  rw [State.insert, absent, Loop.occupied, decide_eq_true occupied]
  rfl

theorem exec_insertion_next (p : s.powered = true) : exec (.insertion i) s = .next (s.insert i).tellWatches :=
  event_next p fun t => t.insert i

end

/-! ### A loop with no want and no waiting entry (R60, R14, R81) -/

/-- The loop has no want, and no waiting entry names it. -/
structure State.Unqueued (i : LoopIx) (s : State) : Prop where
  want : (s.loop i).want = none
  queued : s.queued i = false

section
variable {s : State} {i : LoopIx} (h : State.Unqueued i s)
include h

theorem State.Unqueued.of_eq {t : State} (want : (t.loop i).want = (s.loop i).want) (queue : t.drive.queue = s.drive.queue) :
    State.Unqueued i t := ⟨want.trans h.want, (State.queued_congr queue i).trans h.queued⟩

theorem State.Unqueued.of_counted {t : State} (counted : s.Counted t) (queue : t.drive.queue = s.drive.queue) :
    State.Unqueued i t := h.of_eq (counted.loop i).want queue

theorem State.Unqueued.modLoop {f : Loop → Loop} (j : LoopIx) (wants : ∀ l : Loop, (f l).want = l.want) :
    State.Unqueued i (s.modLoop j f) := by
  refine h.of_eq ?_ rfl
  by_cases self : i = j
  · subst self
    rw [State.loop_modLoop_self, wants]
  · rw [State.loop_modLoop_ne s self]

theorem State.Unqueued.markLoopIf (c : Bool) (j : LoopIx) (b : Bool) : State.Unqueued i (s.markLoopIf c j b) :=
  h.of_eq (by rw [State.loop_markLoopIf]) (by rw [State.markLoopIf_drive])

theorem State.Unqueued.recount (j : LoopIx) : State.Unqueued i (s.recount j) :=
  h.of_counted (s.counted_recount j) (by unfold State.recount; split_ifs <;> rfl)

theorem State.Unqueued.append {e : Entry} (other : e.loop ≠ i) : State.Unqueued i (s.append e) := by
  refine ⟨(congrArg Loop.want (State.loop_append s e i)).trans h.want, ?_⟩
  rw [State.queued, State.drive_append, List.any_append, ← State.queued, h.queued]
  simp [other]

theorem State.Unqueued.place (j : LoopIx) : State.Unqueued i (s.place j) := by
  by_cases self : j = i
  · subst self
    rw [State.place.eq_def, h.want]
    exact h
  · unfold State.place
    split
    · split_ifs
      · exact h.append self
      · exact h
    · exact h

theorem State.Unqueued.fill : State.Unqueued i s.fill :=
  State.forEach_keeps (P := State.Unqueued i) (fun _ j g => State.Unqueued.place g j) allLoops s h

theorem State.Unqueued.want_ne {j : LoopIx} (other : i ≠ j) (k : MoveKind) : State.Unqueued i (s.want j k) := by
  unfold State.want
  split_ifs
  · have set : State.Unqueued i (s.modLoop j fun l => l.setWant (some k)) :=
      h.of_eq (by rw [State.loop_modLoop_ne s other]) rfl
    have changed : State.Unqueued i ((s.modLoop j fun l => l.setWant (some k)).retarget j k) :=
      ⟨by rw [State.loop_retarget]; exact set.want, by rw [State.queued_retarget]; exact set.queued⟩
    have told := (changed.recount j).of_eq (t := (((s.modLoop j fun l => l.setWant (some k)).retarget j k).recount
      j).markLoop j false) (by rw [State.loop_markLoop]) rfl
    unfold State.placeOwn
    split_ifs
    · exact told
    · exact told.place j
  · exact h

theorem State.Unqueued.takeStroke_ne {j : LoopIx} (other : i ≠ j) : State.Unqueued i (s.takeStroke j) := by
  unfold State.takeStroke
  split_ifs
  · exact ((h.modLoop j (f := fun l => l.setPending (some (s.loop j).commanded)) fun _ => rfl).markLoopIf _ j _).markLoopIf _ j _
  · exact h.want_ne other _

/-- A recompute wants nothing of a loop that is not READY (R118). -/
theorem State.Unqueued.recompute (unready : (s.loop i).life ≠ .ready) : State.Unqueued i s.recompute := by
  have evaluated : State.Unqueued i s.evaluated :=
    h.of_eq (by rw [State.evaluated, State.loop_setFloorShort, State.loop_mapLoops]; rfl) rfl
  have handed : State.Unqueued i (s.evaluated.handStrokes s s.evaluated) := by
    refine State.forEach_keeps (P := State.Unqueued i) (fun t j g => ?_) allLoops _ evaluated
    split_ifs with moved
    · exact State.Unqueued.takeStroke_ne g fun self => unready (self ▸ moved.1)
    · exact g
  have short : State.Unqueued i ((s.evaluated.handStrokes s s.evaluated).tellShort s s.evaluated) := by
    unfold State.tellShort
    split_ifs
    · exact handed
    · exact handed.of_eq rfl rfl
  unfold State.recompute State.tellStrokes
  exact State.forEach_keeps (P := State.Unqueued i) (fun t j g => State.Unqueued.markLoopIf g _ j _) allLoops _ short

omit h in
theorem State.drive_coupling (s : State) (m : Manifold) : (s.coupling m).drive = s.drive := by
  simp [State.coupling, State.roundStart, State.clearCounters]

theorem State.Unqueued.coupling (m : Manifold) : State.Unqueued i (s.coupling m) :=
  h.of_counted (s.counted_coupling m) (by rw [State.drive_coupling])

theorem State.Unqueued.couplingIf (c : Bool) (m : Manifold) : State.Unqueued i (s.couplingIf c m) := by
  unfold State.couplingIf
  split_ifs
  · exact h.coupling m
  · exact h

theorem State.Unqueued.examineOpening (m : Manifold) : State.Unqueued i (s.examineOpening m) :=
  h.of_counted (s.counted_examineOpening m) (by rw [State.drive_examineOpening])

theorem State.Unqueued.lifeChanged (j : LoopIx) (old : Lifecycle) (unready : (s.loop i).life ≠ .ready) :
    State.Unqueued i (s.lifeChanged j old) := by
  have told := ((h.recompute unready).couplingIf (s.crossed j old) (manifoldOf j)).recount j
  unfold State.lifeChanged State.examineOpeningIf
  split_ifs
  · exact (told.examineOpening _).of_eq (by rw [State.loop_markLoop]) rfl
  · exact told.of_eq (by rw [State.loop_markLoop]) rfl

omit h in
theorem State.unqueued_clearWork (s : State) (i : LoopIx) : State.Unqueued i (s.clearWork i) := by
  refine ⟨by rw [State.clearWork, State.loop_modLoop_self]; rfl, ?_⟩
  show List.any (s.drive.queue.filter fun e => decide (e.loop ≠ i)) _ = false
  rw [List.any_filter, List.any_eq_false]
  intro e _
  by_cases self : e.loop = i <;> simp [self]

omit h in
theorem State.unqueued_dropWork (s : State) (i : LoopIx) : State.Unqueued i (s.dropWork i) := by
  have told := (((s.unqueued_clearWork i).examineOpening (manifoldOf i)).markLoopIf
    (decide ((s.loop i).want ≠ (((s.clearWork i).examineOpening (manifoldOf i)).loop i).want)) i false).markLoopIf
      (decide ((s.loop i).pendingTarget ≠ (((s.clearWork i).examineOpening (manifoldOf i)).markLoopIf
        (decide ((s.loop i).want ≠ (((s.clearWork i).examineOpening (manifoldOf i)).loop i).want)) i false |>.loop
          i).pendingTarget)) i false
  unfold State.dropWork State.tellWork
  simp only [State.loop_markLoopIf] at told ⊢
  exact told.of_eq (by rw [State.loop_tellIdle]) (by rw [State.drive_tellIdle])

omit h in
/-- A loop that has become VACANT is named by no waiting entry (R14). -/
theorem State.unqueued_becomeVacant (s : State) (i : LoopIx) : State.Unqueued i (s.becomeVacant i) := by
  have dropped := (s.unqueued_dropWork i).of_eq (t := (s.dropWork i).dropMember i) (by rw [State.loop_dropMember]) rfl
  have vacated : State.Unqueued i (((s.dropWork i).dropMember i).modLoop i Loop.vacated) :=
    ⟨by rw [State.loop_modLoop_self]; rfl, dropped.queued⟩
  have changed := vacated.lifeChanged i (s.loop i).life
    (by rw [State.loop_modLoop_self]; exact Lifecycle.noConfusion)
  unfold State.becomeVacant
  exact (changed.of_eq (by rw [State.loop_markRoomOf]) (by cases (s.loop i).room <;> rfl)).fill

end

/-! ### Removal (R60) -/

/-- A removal once the running move of the head has ended, as reported since `before` (R60, steps 2 on). -/
def State.takenOff (s before : State) (i : LoopIx) : State :=
  ((((((s.dropWork i).modLoop i Loop.bared).recount i).lifeBared i).coupling (manifoldOf i)).fill).tellHead before i

theorem State.remove_present {s : State} {i : LoopIx} (present : (s.loop i).present = true) :
    s.remove i = ((s.headLost i).takenOff s i).serve := if_pos present

/-- A loop's record with its head off and its work dropped, but for what its lifecycle state makes of that. -/
def Loop.headless (l : Loop) : Loop := ((l.setWant none).setPending none).bared

theorem Loop.headless_aimed (l : Loop) : l.aimed.headless = l.headless := rfl

theorem Loop.bared_zeroCounter (l : Loop) : l.zeroCounter.bared = l.bared.zeroCounter := by
  rcases l with ⟨⟩
  rfl

/-- The record of the loop once a removal has been taken, open counter aside (R60, R10, R14). -/
def Loop.offHead (l : Loop) : Loop :=
  match l.life with
  | .retiring => l.headless.vacated
  | .homing => (l.headless.setLife .enrolled).setStroke 0 false
  | .ready => (l.headless.setLife .enrolled).setStroke 0 false
  | .enrolled => l.headless
  | .vacant => l.headless

section
variable (s before : State) (i : LoopIx)

/-- The removal up to what the Loop Table makes of it. -/
def State.bareHead : State := ((s.dropWork i).modLoop i Loop.bared).recount i

theorem State.loop_bareHead : ((s.loop i).headless).Counted ((s.bareHead i).loop i) := by
  have dropped : (((s.loop i).setWant none).setPending none).Counted ((s.dropWork i).loop i) := s.loop_dropWork i
  have bared := dropped.map (f := Loop.bared) Loop.bared_zeroCounter
  rw [← State.loop_modLoop_self (s.dropWork i) i Loop.bared] at bared
  exact bared.trans ((State.counted_recount _ i).loop i)

theorem State.touches_bareHead : State.Touches i s (s.bareHead i) :=
  (((s.mild_dropWork i).touches i).trans (State.touches_modLoop _ i Loop.bared)).trans
    ((State.quiet_recount _ i).mild.touches i)

theorem State.unqueued_bareHead : State.Unqueued i (s.bareHead i) :=
  ((s.unqueued_dropWork i).modLoop i (f := Loop.bared) fun _ => rfl).recount i

theorem State.takenOff_eq :
    s.takenOff before i = (((s.bareHead i).lifeBared i).coupling (manifoldOf i)).fill.tellHead before i := rfl

end

section
variable {s : State} {i : LoopIx}

theorem State.lifeBared_retiring (h : (s.loop i).life = .retiring) : s.lifeBared i = s.becomeVacant i := by
  simp only [State.lifeBared, h]

theorem State.lifeBared_fitted (h : (s.loop i).life = .homing ∨ (s.loop i).life = .ready) :
    s.lifeBared i = s.setLife i .enrolled := by
  rcases h with h | h <;> simp only [State.lifeBared, h]

theorem State.lifeBared_other (h : (s.loop i).life = .enrolled ∨ (s.loop i).life = .vacant) : s.lifeBared i = s := by
  rcases h with h | h <;> simp only [State.lifeBared, h]

theorem Loop.life_headless (l : Loop) : l.headless.life = l.life := rfl

theorem State.loop_takenOff (before : State) : (s.loop i).offHead.Counted ((s.takenOff before i).loop i) := by
  have bared := s.loop_bareHead i
  have life : ((s.bareHead i).loop i).life = (s.loop i).life := bared.life
  have after (u : State) : (u.loop i).Counted (((u.coupling (manifoldOf i)).fill.tellHead before i).loop i) := by
    rw [State.loop_tellHead, State.loop_fill]
    exact (u.counted_coupling _).loop i
  rw [State.takenOff_eq]
  refine Loop.Counted.trans ?_ (after _)
  unfold Loop.offHead
  cases state : (s.loop i).life
  case retiring =>
    rw [State.lifeBared_retiring (life.trans state), State.loop_becomeVacant]
    exact .inl bared.vacated
  case vacant => exact (State.lifeBared_other (.inr (life.trans state))).symm ▸ bared
  case enrolled => exact (State.lifeBared_other (.inl (life.trans state))).symm ▸ bared
  all_goals
    rw [State.lifeBared_fitted (by rw [life, state]; simp)]
    exact (bared.map (f := fun l => (l.setLife .enrolled).setStroke 0 false) fun _ => rfl).trans
      (State.loop_setLife Lifecycle.noConfusion)

theorem State.onlyDrive_lifeBared (s : State) (i : LoopIx) : State.OnlyDrive [i] s (s.lifeBared i) := by
  unfold State.lifeBared
  split
  · exact (s.vacates_becomeVacant i).onlyDrive
  · exact (s.touches_setLife i _).onlyDrive
  · exact (s.touches_setLife i _).onlyDrive
  · exact .refl _ s
  · exact .refl _ s

theorem State.onlyDrive_takenOff (s before : State) (i : LoopIx) : State.OnlyDrive [i] s (s.takenOff before i) := by
  have bare := s.touches_bareHead i
  have lived := bare.onlyDrive.then bare.floorList ((s.bareHead i).onlyDrive_lifeBared i)
  rw [State.takenOff_eq]
  exact ((lived.trans (State.mild_coupling _ _).onlyDrive).trans (State.quiet_fill _).mild.onlyDrive).trans
    (State.quiet_tellHead _ before i).mild.onlyDrive

theorem State.driver_takenOff (s before : State) (i : LoopIx) : s.SameDriver (s.takenOff before i) :=
  (s.driver_offTheHead i).trans (State.driver_bared _ before i)

theorem State.unqueued_takenOff (s before : State) (i : LoopIx) : State.Unqueued i (s.takenOff before i) := by
  have bare := s.unqueued_bareHead i
  have lived : State.Unqueued i ((s.bareHead i).lifeBared i) := by
    have changed (x : Lifecycle) (unready : x ≠ .ready) : State.Unqueued i ((s.bareHead i).setLife i x) :=
      (bare.modLoop i (f := fun l => l.setLife x) fun _ => rfl).lifeChanged i _
        (by rw [State.loop_modLoop_self]; exact unready)
    unfold State.lifeBared
    split
    · exact State.unqueued_becomeVacant _ i
    · exact changed _ Lifecycle.noConfusion
    · exact changed _ Lifecycle.noConfusion
    · exact bare
    · exact bare
  rw [State.takenOff_eq]
  exact (lived.coupling _).fill.markLoopIf _ i _

theorem State.not_mem_takenOff (before : State) (retiring : (s.loop i).life = .retiring) :
    i ∉ (s.takenOff before i).floorList := by
  have life : ((s.bareHead i).loop i).life = .retiring := (s.loop_bareHead i).life.trans retiring
  have left : i ∉ ((s.bareHead i).lifeBared i).floorList := by
    rw [State.lifeBared_retiring life, ((s.bareHead i).vacates_becomeVacant i).floorList]
    simp
  rw [State.takenOff_eq, (State.quiet_tellHead _ before i).floorList, (State.quiet_fill _).floorList,
    (State.mild_coupling _ _).floorList]
  exact left

/-- The removal is a coupling event (R60, R134). -/
theorem State.counters_takenOff (before : State) {j : LoopIx} (same : manifoldOf j = manifoldOf i) :
    ((s.takenOff before i).loop j).openCounter = 0 := by
  rw [State.takenOff_eq, State.loop_tellHead, State.loop_fill]
  exact State.openCounter_coupling _ same

/-! #### The round of the manifold (R134) -/

/-- The campaign of a manifold is left alone, and its round timer runs on or stays FROZEN. -/
structure State.RunsOn (s : State) (m : Manifold) (t : State) : Prop where
  campaign : t.campaign m = s.campaign m
  runs : (t.timer m).remaining ≠ none ↔ (s.timer m).remaining ≠ none

theorem State.RunsOn.trans {s t u : State} {m : Manifold} (h : s.RunsOn m t) (g : t.RunsOn m u) : s.RunsOn m u :=
  ⟨g.campaign.trans h.campaign, g.runs.trans h.runs⟩

theorem State.Spares.runsOn {s t : State} {m : Manifold} (h : s.Spares m t) : s.RunsOn m t :=
  ⟨h.campaign, by rw [h.round.timer]⟩

theorem State.RoundStarted.runs {t : State} {m : Manifold} {runs : Prop} (h : t.RoundStarted m runs) :
    (t.timer m).remaining ≠ none ↔ runs := by
  by_cases r : runs
  · rw [h.running r]
    exact iff_of_true (Option.some_ne_none _) r
  · rw [h.frozen r]
    exact iff_of_false (not_not.2 rfl) r

theorem State.runsOn_setLife {new : Lifecycle} (s : State) (i : LoopIx)
    (unopened : (s.campaign (manifoldOf i)).state ≠ .opening) : s.RunsOn (manifoldOf i) (s.setLife i new) := by
  have left := s.spares_leftReady i new (manifoldOf i)
  have opened : ((s.leftReady i new).campaign (manifoldOf i)).state ≠ .opening := by rw [left.campaign]; exact unopened
  rw [State.setLife_eq]
  refine left.runsOn.trans ?_
  cases crossed : (s.leftReady i new).crossed i (s.loop i).life
  · exact (State.spares_lifeChanged crossed _).runsOn
  · exact ⟨State.campaign_lifeChanged crossed opened _, (State.freshRound_lifeChanged crossed opened).started.runs⟩

theorem State.spares_dropWork (s : State) (i : LoopIx) {m : Manifold} (unopened : (s.campaign m).state ≠ .opening) :
    s.Spares m (s.dropWork i) := (s.passes_dropWork i m).spares unopened

theorem State.runsOn_bareHead (s : State) (i : LoopIx) {m : Manifold} (unopened : (s.campaign m).state ≠ .opening) :
    s.RunsOn m (s.bareHead i) :=
  (((s.spares_dropWork i unopened).trans (State.spares_modLoop _ i (f := Loop.bared) (fun _ => id) m)).trans
    (State.spares_recount _ i m)).runsOn

theorem State.runsOn_lifeBared (s : State) (i : LoopIx) (unopened : (s.campaign (manifoldOf i)).state ≠ .opening) :
    s.RunsOn (manifoldOf i) (s.lifeBared i) := by
  unfold State.lifeBared
  split
  · next retiring =>
      exact ((State.passes_becomeVacant (by rw [retiring]; exact Lifecycle.noConfusion) _).spares unopened).runsOn
  · exact s.runsOn_setLife i unopened
  · exact s.runsOn_setLife i unopened
  · exact (State.Spares.refl s _).runsOn
  · exact (State.Spares.refl s _).runsOn

theorem State.freshRound_takenOff (before : State) (unopened : (s.campaign (manifoldOf i)).state ≠ .opening) :
    (s.takenOff before i).FreshRound (manifoldOf i) ((s.timer (manifoldOf i)).remaining ≠ none) ∧
      (s.takenOff before i).campaign (manifoldOf i) = s.campaign (manifoldOf i) := by
  have bare := s.runsOn_bareHead i unopened
  have lived := bare.trans (State.runsOn_lifeBared (s.bareHead i) i (by rw [bare.campaign]; exact unopened))
  have timer : ((s.bareHead i).lifeBared i).timerRunning (manifoldOf i) = true ↔
      (s.timer (manifoldOf i)).remaining ≠ none := Option.isSome_iff_ne_none.trans lived.runs
  have filled (u : State) : u.Spares (manifoldOf i) (u.fill.tellHead before i) :=
    ((u.quiet_fill).spares u.steps_fill _).trans ((State.records_markLoopIf _ _ _ _).spares _)
  rw [State.takenOff_eq]
  refine ⟨((State.freshRound_coupling _ _).congr timer).of_spares (filled _), (filled _).campaign.trans ?_⟩
  rw [← lived.campaign]
  generalize (s.bareHead i).lifeBared i = u
  exact congrArg (PerManifold.get · (manifoldOf i)) (by simp [State.coupling, State.roundStart, State.clearCounters])

end

/-! #### The record of a head taken off (R60, R170) -/

/-- What a removal leaves of a loop's record, whatever the driver does next. -/
structure Loop.HeadOff (l x : Loop) : Prop where
  present : x.present = false
  homed : x.homed = false
  capacity : x.capacity = none
  stepPos : x.stepPos = none
  idleDays : x.idleDays = 0
  restartMark : x.restartMark = false
  retired : l.life = .retiring → x.life = .vacant
  enrolled : l.life = .homing ∨ l.life = .ready → x.life = .enrolled
  stays : l.life = .enrolled ∨ l.life = .vacant → x.life = l.life
  kept : l.life ≠ .retiring → l.SameConfig x ∧ x.faults = if l.restartMark = true then .empty else l.faults

theorem Loop.HeadOff.stands {l x y : Loop} (h : l.HeadOff x) (g : x.Stands y) : l.HeadOff y :=
  ⟨g.present.trans h.present, g.homed.trans h.homed, g.capacity.trans h.capacity, g.stepPos.trans h.stepPos,
    g.idleDays.trans h.idleDays, g.restartMark.trans h.restartMark, fun w => g.life.trans (h.retired w),
    fun w => g.life.trans (h.enrolled w), fun w => g.life.trans (h.stays w),
    fun w => ⟨(h.kept w).1.trans g.config, g.faults.trans (h.kept w).2⟩⟩

theorem Loop.headOff_offHead (l : Loop) : l.HeadOff l.offHead := by
  rcases l with ⟨life⟩
  cases life
  case retiring =>
    exact ⟨rfl, rfl, rfl, rfl, rfl, rfl, fun _ => rfl, by simp, by simp, fun w => absurd rfl w⟩
  case enrolled =>
    exact ⟨rfl, rfl, rfl, rfl, rfl, rfl, by simp, by simp, fun _ => rfl, fun _ => ⟨⟨rfl, rfl, rfl, rfl, rfl, rfl⟩, rfl⟩⟩
  case vacant =>
    exact ⟨rfl, rfl, rfl, rfl, rfl, rfl, by simp, by simp, fun _ => rfl, fun _ => ⟨⟨rfl, rfl, rfl, rfl, rfl, rfl⟩, rfl⟩⟩
  all_goals
    exact ⟨rfl, rfl, rfl, rfl, rfl, rfl, by simp, fun _ => rfl, by simp, fun _ => ⟨⟨rfl, rfl, rfl, rfl, rfl, rfl⟩, rfl⟩⟩

theorem Loop.life_offHead (l : Loop) : l.offHead.life ≠ .retiring := by
  rcases l with ⟨life⟩
  cases life <;> exact Lifecycle.noConfusion

/-- The loop's part in the Drive Queue is gone (R60). -/
theorem Loop.work_offHead (l : Loop) :
    l.offHead.want = none ∧ l.offHead.pendingTarget = none ∧ l.offHead.position = none := by
  rcases l with ⟨life⟩
  cases life <;> exact ⟨rfl, rfl, rfl⟩

/-- The account reads of the record before what an aim leaves. -/
theorem Loop.HeadOff.of_stands {l y x : Loop} (h : y.HeadOff x) (g : l.Stands y) : l.HeadOff x := by
  obtain ⟨present, homed, capacity, stepPos, idleDays, mark, retired, enrolled, stays, kept⟩ := h
  rw [g.life] at retired enrolled stays kept
  rw [g.restartMark, g.faults] at kept
  exact ⟨present, homed, capacity, stepPos, idleDays, mark, retired, enrolled, stays,
    fun w => ⟨g.config.trans (kept w).1, (kept w).2⟩⟩

theorem Loop.kept_aimed (l : Loop) : l.Kept l.aimed := rfl

/-! #### The running move of the head ends (R60, R86) -/

/-- What the end of a head's move, if it runs, leaves before the removal itself. -/
structure State.HeadEnds (s : State) (i : LoopIx) (t : State) : Prop where
  record : (s.loop i).Stands (t.loop i)
  onlyDrive : State.OnlyDrive [] (s.putDriveState t.drive.state) t
  floorList : t.floorList = s.floorList
  marks : ∀ j, j ≠ i → (t.loop j).restartMark = true → t.movingLoop j = true
  unopened : ∀ m, (s.campaign m).state ≠ .opening → (t.campaign m).state ≠ .opening ∧
    ((t.timer m).remaining ≠ none ↔ (s.timer m).remaining ≠ none ∧ t.drive.state = s.drive.state)
  link : t.link = s.link

section
variable {s : State} (marks : s.MarkLaw) {i : LoopIx}

theorem State.runs_takeEnd {n : Manifold} (unopened : (s.campaign n).state ≠ .opening) (m : Move) (e : MoveEnd)
    (r : Option EndReason) : ((s.takeEnd m e r false).campaign n).state ≠ .opening ∧
      (((s.takeEnd m e r false).timer n).remaining ≠ none ↔
        (s.timer n).remaining ≠ none ∧ (s.takeEnd m e r false).drive.state = s.drive.state) := by
  have after := s.driveState_takeEnd m e r false
  rw [after, DriveState.afterEnd_not, DriveState.atEnd_self]
  by_cases holding : s.drive.state = .holding
  · have state : (s.stopRunning m e r).drive.state = s.drive.state := rfl
    have halts : (s.stopRunning m e r).Halts .held ((s.stopRunning m e r).setDriveState .held) :=
      State.halts_setDriveState (by rw [state, holding]; exact DriveState.noConfusion) DriveState.noConfusion
    unfold State.takeEnd State.holdAtEnd
    rw [if_pos (.inr (state.trans holding))]
    generalize (s.stopRunning m e r).setDriveState .held = u at halts
    have closed : (u.campaign n).state ≠ .opening := by
      rw [halts.campaigns]
      exact Campaign.halted_state
    have spares := State.spares_aimed closed m.loop (manifoldOf m.loop) (s.loop m.loop).pendingTarget.isSome false
    rw [spares.campaign, spares.round.timer, halts.timers]
    exact ⟨closed, iff_of_false (not_not.2 rfl) fun w => w.2 holding⟩
  · have spares := State.spares_takeEnd unopened holding m e r
    rw [spares.campaign, spares.round.timer]
    exact ⟨unopened, (and_iff_left holding).symm⟩

include marks

theorem State.headEnds_of_other (still : ∀ m, s.drive.moving = some m → m.loop ≠ i) : s.HeadEnds i (s.headLost i) := by
  rw [State.headLost_of_other still]
  exact ⟨(Loop.Kept.refl _).stands, .refl [] s, rfl, fun j _ mark => marks j mark,
    fun m unopened => ⟨unopened, (and_iff_left rfl).symm⟩, rfl⟩

theorem State.headEnds_of_moving {m : Move} (moving : s.drive.moving = some m) : s.HeadEnds m.loop (s.headLost m.loop) := by
  have only := s.onlyDrive_takeEnd m .aborted (some .headLost) false
  have after := s.driveState_takeEnd m .aborted (some .headLost) false
  rw [← after] at only
  rw [State.headLost_of_moving moving]
  refine ⟨?_, only, ?_, fun j other mark => ?_, fun n unopened => State.runs_takeEnd unopened m _ _, ?_⟩
  · exact (Loop.kept_aimed _).stands.trans (s.loop_takeEnd_self m .aborted (some .headLost) false).stands
  · rw [(s.mild_takeEnd m _ _ false).floorList]
    rfl
  · have same := s.loop_takeEnd_ne m .aborted (some .headLost) false other
    have named := marks j (same.restartMark.symm.trans mark)
    rw [State.movingLoop, moving] at named
    exact absurd (of_decide_eq_true named).symm other
  · exact (s.steps_takeEnd m _ _ false).calm.link

theorem State.headEnds (i : LoopIx) : s.HeadEnds i (s.headLost i) := by
  by_cases moves : ∃ m, s.drive.moving = some m ∧ m.loop = i
  · obtain ⟨m, moving, rfl⟩ := moves
    exact State.headEnds_of_moving marks moving
  · exact State.headEnds_of_other marks fun m moving self => moves ⟨m, moving, self⟩

end

/-! #### The removal whole (R60) -/

/-- The removal up to the start of the next move. -/
def State.removedHead (s : State) (i : LoopIx) : State := (s.headLost i).takenOff s i

section
variable {s : State} (marks : s.MarkLaw) (i : LoopIx)
include marks

theorem State.marks_removedHead : (s.removedHead i).MarkLaw := by
  have ends := State.headEnds marks i
  have driver := (s.headLost i).driver_takenOff s i
  intro j mark
  by_cases self : j = i
  · subst self
    have off := (((s.headLost j).loop j).headOff_offHead.stands (State.loop_takenOff s).stands).restartMark
    rw [State.removedHead, off] at mark
    exact Bool.noConfusion mark
  · exact (driver.movingLoop j).trans (ends.marks j self (driver.marks j mark))

theorem State.headOff_remove (present : (s.loop i).present = true) : (s.loop i).HeadOff ((s.remove i).loop i) := by
  have ends := State.headEnds marks i
  have record := State.loop_takenOff (s := s.headLost i) (i := i) s
  have kept := State.kept_serve (State.marks_removedHead marks i) (i := i)
    (by rw [State.removedHead, record.life]; exact Loop.life_offHead _)
  rw [State.remove_present present]
  exact (((Loop.headOff_offHead _).of_stands ends.record).stands record.stands).stands kept.stands

theorem State.onlyDrive_remove (present : (s.loop i).present = true) :
    State.OnlyDrive [i] (s.putDriveState (s.headLost i).drive.state) (s.remove i) := by
  have ends := State.headEnds marks i
  rw [State.remove_present present]
  exact ((ends.onlyDrive.widen [i]).then ends.floorList ((s.headLost i).onlyDrive_takenOff s i)).trans
    (State.onlyDrive_serve (State.marks_removedHead marks i))

theorem State.freshRound_remove (present : (s.loop i).present = true)
    (unopened : (s.campaign (manifoldOf i)).state ≠ .opening) : (s.remove i).FreshRound (manifoldOf i)
      ((s.timer (manifoldOf i)).remaining ≠ none ∧ (s.remove i).drive.state = s.drive.state) := by
  obtain ⟨closed, runs⟩ := (State.headEnds marks i).unopened (manifoldOf i) unopened
  obtain ⟨fresh, campaign⟩ := State.freshRound_takenOff (s := s.headLost i) (i := i) s closed
  have spares := State.spares_serve_unopened (State.marks_removedHead marks i) (m := manifoldOf i)
    (by rw [State.removedHead, campaign]; exact closed)
  rw [(State.onlyDrive_remove marks i present).driveState, State.remove_present present]
  exact (fresh.of_spares spares).congr runs

omit marks in
theorem State.counters_remove (present : (s.loop i).present = true) {j : LoopIx} (same : manifoldOf j = manifoldOf i) :
    ((s.remove i).loop j).openCounter = 0 := by
  rw [State.remove_present present]
  exact (State.steps_serve _).counter j (State.counters_takenOff s same)

omit marks in
theorem State.link_remove (marks : s.MarkLaw) (present : (s.loop i).present = true) : (s.remove i).link = s.link := by
  have ends := State.headEnds marks i
  have off := (((s.headLost i).mild_dropWork i).link)
  rw [State.remove_present present, State.link_serve, State.takenOff_eq, (State.quiet_tellHead _ s i).link,
    (State.quiet_fill _).link, (State.mild_coupling _ _).link, (State.steps_lifeBared _ i).calm.link]
  exact (State.quiet_recount _ i).link.trans (off.trans ends.link)

omit marks in
/-- While the driver is busy, the loop's part in the Drive Queue stays gone (R60). -/
theorem State.work_remove (busy : s.DriverBusy) (present : (s.loop i).present = true) :
    (s.remove i) = s.removedHead i := by
  have driver := (s.headLost i).driver_takenOff s i
  rw [State.remove_present present]
  refine State.DriverBusy.serve (driver.busy ?_)
  by_cases moves : ∃ m, s.drive.moving = some m ∧ m.loop = i
  · obtain ⟨m, moving, rfl⟩ := moves
    rw [State.headLost_of_moving moving]
    refine .inr (.inl ?_)
    rw [State.dwell_takeEnd]
    exact Option.some_ne_none _
  · rw [State.headLost_of_other fun m moving self => moves ⟨m, moving, self⟩]
    exact busy

end

theorem exec_removal_next {s : State} {i : LoopIx} (p : s.powered = true) :
    exec (.removal i) s = .next (s.remove i).tellWatches := event_next p fun t => t.remove i

theorem Move.ended_headLost (m : Move) : m.ended .aborted (some .headLost) =
    ⟨m.loop, m.kind, .aborted, some .headLost, if m.kind = .home then 10 else 2⟩ := by
  rcases m with ⟨loop, kind⟩
  cases kind <;> rfl

end Sys2Proof.Machine

open Sys2Proof Sys2Proof.Machine

/-- Settles O35: the record is set, the HOME wanted, and the next move started, which leaves the loop's record. -/
theorem insertionHomesAnEnrolledLoop : Obligations.InsertionHomesAnEnrolledLoop := by
  intro s i p quiet marks
  have inserted := exec_insertion_next (i := i) p
  refine ⟨fun present => ?_, fun absent vacant => ?_, fun absent enrolled => ?_⟩
  · rw [inserted, State.insert_present present, State.tellWatches_quiet quiet]
  · rw [State.insert_vacant absent vacant] at inserted
    have told := (State.records_markLoopIf (s.modLoop i Loop.fitted) ((s.loop i).headMoved ((s.modLoop i Loop.fitted).loop i))
      i false).trans (State.tellWatches_records _)
    exact ⟨_, inserted, State.linkKept_told (State.markLoopIf_link _ _ _ _), told⟩
  · rw [State.insert_occupied absent (by rw [enrolled]; exact Lifecycle.noConfusion)] at inserted
    have told := (s.insertOccupied i).serve.tellWatches_records
    have driver := s.driver_insertOccupied i
    have record := State.loop_insertOccupied (s := s) (i := i) enrolled
    have kept := State.kept_serve (driver.markLaw marks) (i := i) (by rw [record.life]; exact Lifecycle.noConfusion)
    have link := (State.link_serve _).trans (s.link_insertOccupied i)
    have ends := ((s.loop i).inserted_insertedHome (s.voidedBalance i)).stands (record.stands.trans kept.stands)
    rw [← told.loop] at ends
    refine ⟨_, inserted, State.linkKept_told link, ?_, ends.config, ends.life, ends.present, ends.homed, ends.capacity,
      ends.stepPos, ends.idleDays, ends.faults, ends.inBand, ends.balance, fun busy => ?_⟩
    · exact (State.touches_insertOccupied.onlyDrive.trans (State.onlyDrive_serve (driver.markLaw marks))).trans told.onlyDrive
    · rw [told.loop, (driver.busy busy).serve]
      exact ⟨record.want, record.position, record.stallCount⟩

/-- Settles O36: the running move ends, the head is off, and the next move starts where one may. -/
theorem removalTakesTheHeadOff : Obligations.RemovalTakesTheHeadOff := by
  intro s i p quiet marks
  have removed := exec_removal_next (i := i) p
  refine ⟨fun absent => ?_, fun present => ?_⟩
  · rw [removed, State.remove, absent]
    exact congrArg _ (State.tellWatches_quiet quiet)
  · have told := (s.remove i).tellWatches_records
    have off := State.headOff_remove marks i present
    rw [← told.loop] at off
    have only := (State.onlyDrive_remove marks i present).trans told.onlyDrive
    refine ⟨_, removed, State.linkKept_told (State.link_remove i marks present), off.present, off.homed, off.capacity,
      off.stepPos, off.idleDays, off.restartMark, fun j same => ?_, fun unopened => ?_, fun retiring =>
      ⟨off.retired retiring, ?_⟩, off.enrolled, off.stays, off.kept, fun busy => ?_, fun still => ?_,
      fun m moving own => ?_⟩
    · rw [told.loop]
      exact State.counters_remove i present same
    · rw [told.drive]
      exact (State.freshRound_remove marks i present unopened).of_spares (told.spares _)
    · have left : i ∉ (s.removedHead i).floorList :=
        State.not_mem_takenOff s ((State.headEnds marks i).record.life.trans retiring)
      rw [told.floorList, State.remove_present present]
      exact fun mem => left ((State.onlyDrive_serve (State.marks_removedHead marks i)).members.subset mem)
    · have record := State.loop_takenOff (s := s.headLost i) (i := i) s
      have unqueued := (s.headLost i).unqueued_takenOff s i
      rw [told.loop, told.drive, State.work_remove i busy present]
      obtain ⟨want, pending, position⟩ := Loop.work_offHead ((s.headLost i).loop i)
      refine ⟨unqueued.want, ?_, record.position.trans position, (State.queued_eq_false _ i).1 unqueued.queued⟩
      rcases record with same | zeroed
      · exact same ▸ pending
      · exact zeroed ▸ pending
    · rw [State.headLost_of_other ((State.movingLoop_eq_false s i).1 still), State.putDriveState_self] at only
      exact only
    · subst own
      have busy : s.DriverBusy := .inl (by rw [moving]; exact Option.some_ne_none m)
      have driver := (s.headLost m.loop).driver_takenOff s m.loop
      rw [State.headLost_of_moving moving, State.driveState_takeEnd, DriveState.afterEnd_not] at only
      have moves : (s.remove m.loop).tellWatches.drive.moving = none := by
        rw [told.drive, State.work_remove m.loop busy present, State.removedHead, driver.moving,
          State.headLost_of_moving moving, State.moving_takeEnd]
      refine ⟨moves, only, ?_⟩
      rw [told.drive, State.work_remove m.loop busy present, State.removedHead, driver.dwell,
        State.headLost_of_moving moving, State.dwell_takeEnd, m.ended_headLost]
end

section
/-! PROOF. O21 and O22: the pairs of an AMEND of HOUSE (R46, R47), what the other blocks make of a changed House Record (R48, R49), and
the pause line. -/

namespace Sys2Proof.Machine

/-! ### The pairs of an AMEND of HOUSE (R46, R47) -/

/-- The House Record with one field, by its identifier, at a value of its range (R46, 11.3). -/
def House.setField (h : House) (f v : Nat) : House :=
  { h with
    season := if f = 1 then if v = 0 then .heating else .standby else h.season
    designA := if f = 2 then v else h.designA
    designB := if f = 3 then v else h.designB
    deadband := if f = 4 then v else h.deadband
    settleBase := if f = 5 then v else h.settleBase
    trimEnable := if f = 6 then decide (v = 1) else h.trimEnable
    flowFloor := if f = 7 then v else h.flowFloor
    pauseFlag := if f = 8 then decide (v = 1) else h.pauseFlag
    leaseUnit := if f = 9 then v else h.leaseUnit
    houseTime := if f = 10 then v else h.houseTime
    timeSet := if f = 10 then true else h.timeSet
    exerciseMinute := if f = 11 then v else h.exerciseMinute
    roundLimit := if f = 12 then v else h.roundLimit }

theorem HouseInRange.field {f v : Nat} (h : HouseInRange f v) : 1 ≤ f ∧ f ≤ 12 := by
  unfold HouseInRange at h
  omega

theorem House.set_mk (h : House) (f v : Nat) (range : HouseInRange f v) : h.set ⟨f, v⟩ = some (h.setField f v) := by
  obtain ⟨low, high⟩ := range.field
  have week : Config.minutesPerWeek = 10080 := rfl
  unfold HouseInRange at range
  interval_cases f
  · have bit : v = 0 ∨ v = 1 := by omega
    rcases bit with rfl | rfl <;> rfl
  all_goals
    simp only [House.set]
    rw [if_pos (by omega)]
    rfl

theorem House.set_of_range (h : House) {p : Pair} (range : HouseInRange p.field p.value) :
    h.set p = some (h.setField p.field p.value) := h.set_mk p.field p.value range

theorem House.set_mk_none (h : House) (f v : Nat) (low : 1 ≤ f) (high : f ≤ 12) (out : ¬HouseInRange f v) :
    h.set ⟨f, v⟩ = none := by
  have week : Config.minutesPerWeek = 10080 := rfl
  unfold HouseInRange at out
  interval_cases f
  · simp only [House.set]
    rw [if_neg (by omega), if_neg (by omega)]
  all_goals
    simp only [House.set]
    rw [if_neg (by omega)]

theorem HouseAmendable.field {kind : StationKind} {f : Nat} (h : HouseAmendable kind f) : 1 ≤ f ∧ f ≤ 12 := by
  cases kind with
  | service => exact h
  | source =>
    unfold HouseAmendable at h
    omega
  | room => exact absurd h id

theorem House.setAll_refused (h : House) {ps : List Pair} {kind : StationKind} {q : Pair} (mem : q ∈ ps)
    (may : HouseAmendable kind q.field) (out : ¬HouseInRange q.field q.value) : h.setAll ps = none := by
  obtain ⟨low, high⟩ := may.field
  exact foldPairs_refused (f := House.set) mem (fun a => a.set_mk_none q.field q.value low high out) _

/-- The pairs, no field named twice, applied together. -/
theorem House.setAll_taken (h : House) {ps : List Pair} (distinct : (ps.map Pair.field).Nodup)
    (range : ∀ q ∈ ps, HouseInRange q.field q.value) : h.setAll ps = some (h.amendedBy ps) := by
  obtain ⟨b, taken⟩ := foldPairs_isSome (f := House.set)
    (fun p m a => ⟨a.setField p.field p.value, a.set_of_range (range p m)⟩) h
  have read {β : Type} (g : House → β) (n : Nat) (v : Nat → β)
      (field : ∀ (a : House) (f x : Nat), 1 ≤ f → g (a.setField f x) = if f = n then v x else g a) :
      g b = ((pairValue ps n).map v).getD (g h) := by
    refine read_foldPairs distinct g n v (fun p m a c set => ?_) taken
    rw [a.set_of_range (range p m)] at set
    rw [← Option.some.inj set, field _ _ _ (range p m).field.1]
  have value (g : House → Nat) (n : Nat) (field : ∀ (a : House) (f x : Nat), g (a.setField f x) = if f = n then x else g a) :
      g b = (pairValue ps n).getD (g h) := by
    rw [read g n id fun a f x _ => field a f x, Option.map_id, id]
  have kept {β : Type} (g : House → β) (field : ∀ (a : House) (f x : Nat), g (a.setField f x) = g a) : g b = g h := by
    have unnamed : pairValue ps 0 = none := pairValue_eq_none fun mem => by
      obtain ⟨q, m, zero⟩ := List.mem_map.1 mem
      have := (range q m).field
      omega
    rw [read g 0 (fun _ => g b) fun a f x low => by rw [if_neg (by omega), field], unnamed]
    rfl
  have timeSet : b.timeSet = (h.timeSet || (pairValue ps 10).isSome) := by
    rw [read House.timeSet 10 (fun _ => true) fun _ _ _ _ => rfl]
    cases pairValue ps 10 with
    | none => exact (Bool.or_false _).symm
    | some v => exact (Bool.or_true _).symm
  refine Eq.trans taken (congrArg some ?_)
  rcases b with ⟨⟩
  simp only [House.amendedBy, House.mk.injEq]
  exact ⟨read House.season 1 _ fun _ _ _ _ => rfl, value House.designA 2 fun _ _ _ => rfl,
    value House.designB 3 fun _ _ _ => rfl, value House.deadband 4 fun _ _ _ => rfl,
    value House.settleBase 5 fun _ _ _ => rfl, read House.trimEnable 6 _ fun _ _ _ _ => rfl,
    value House.flowFloor 7 fun _ _ _ => rfl, read House.pauseFlag 8 _ fun _ _ _ _ => rfl,
    kept House.pauseLine fun _ _ _ => rfl, value House.leaseUnit 9 fun _ _ _ => rfl,
    value House.houseTime 10 fun _ _ _ => rfl, timeSet, value House.exerciseMinute 11 fun _ _ _ => rfl,
    value House.roundLimit 12 fun _ _ _ => rfl, kept House.midnightDue fun _ _ _ => rfl,
    kept House.exerciseDue fun _ _ _ => rfl⟩

theorem mayAmend_iff (kind : StationKind) (f : Nat) : mayAmend kind f = true ↔ HouseAmendable kind f := by
  cases kind with
  | service =>
    simp only [mayAmend, houseAmendable, HouseAmendable, List.contains_iff_mem, List.mem_cons, List.not_mem_nil, or_false]
    omega
  | source => simp only [mayAmend, HouseAmendable, List.contains_iff_mem, List.mem_cons, List.not_mem_nil, or_false]
  | room => exact iff_of_false Bool.noConfusion id

/-! ### In STANDBY the campaigns do not count (R113, R125, R130) -/

section
variable {s t : State} (mild : s.Mild t) (standby : s.house.season = .standby)
include mild standby

theorem State.Mild.baseStroke_standby (i : LoopIx) : t.baseStroke i = s.baseStroke i := by
  have config := (mild.loops i).config
  have there : t.house.season = .standby := by rw [mild.house, standby]
  simp only [State.baseStroke, (mild.loops i).kept.stands.life, config.owner, config.override, standby, there, if_true]

theorem State.Mild.recompute_standby : s.recompute.SameStrokes t.recompute := by
  have there : t.house.season = .standby := by rw [mild.house, standby]
  have walk : t.floorWalk = s.floorWalk := (if_pos there).trans (if_pos standby).symm
  have base := mild.baseStroke_standby standby
  have evaluated : s.evaluated.SameStrokes t.evaluated := by
    refine ⟨fun i => ?_, fun i => ?_, ?_⟩
    · rw [State.loop_evaluated, State.loop_evaluated]
      simp only [Loop.setStroke, State.newStroke, walk, base, (mild.loops i).config.ceiling]
    · rw [State.loop_evaluated, State.loop_evaluated]
      simp only [Loop.setStroke, walk]
    · simp only [State.evaluated, State.setFloorShort_floorShort, walk]
  exact (s.sameStrokes_recompute.symm.trans evaluated).trans t.sameStrokes_recompute

end

theorem State.not_conditions_standby {s : State} (standby : s.house.season = .standby) (m : Manifold) :
    ¬s.RoundConditions m := fun ⟨heating, _⟩ => Season.noConfusion (standby.symm.trans heating)

/-- An abandonment in STANDBY leaves a FROZEN round as it is. -/
theorem State.keepsRound_abandonAll {s : State} (standby : s.house.season = .standby) {m : Manifold}
    (frozen : (s.timer m).remaining = none) {ms : List Manifold} (named : m ∈ ms) (distinct : ms.Nodup)
    (r : AbandonReason) : s.KeepsRound m (s.abandonAll ms r) := by
  have abandoned := State.abandoned_abandonAll named distinct r s
  have mild := s.mild_abandonAll ms r
  have fails : ¬(s.abandonAll ms r).RoundConditions m := State.not_conditions_standby (by rw [mild.house, standby]) m
  have steps : s.Steps (s.abandonAll ms r) := s.steps_forEach ms fun t n => t.steps_abandon n r
  have round : s.SameRound m (s.abandonAll ms r) := by
    by_cases rounds : (s.campaign m).state = .rounds
    · have checked := abandoned.checked rounds
      refine ⟨(checked.freezes fails).trans ?_, checked.supplyRef (.inr fails) ?_⟩
      · rw [← frozen]
      · rw [State.channel_congr mild.channels]
    · exact abandoned.round rounds
  exact ⟨round, mild.house, mild.channels, mild.state, fun i => steps.counter i⟩

/-! ### The parts of a change of the House Record (R48, R49) -/

/-- Both campaigns abandoned because STANDBY is entered (R161). -/
def State.standDown (s : State) : State := s.abandonAll [.a, .b] .season

theorem mem_bothManifolds (m : Manifold) : m ∈ [Manifold.a, .b] := by cases m <;> decide

section
variable {s : State} {old new : House}

theorem State.trimHouse_pause (moves : new.pause ≠ old.pause) : s.trimHouse old new = s.recountAll.restartRounds :=
  if_pos (decide_eq_true (Ne.symm moves))

theorem State.trimHouse_check (stays : new.pause = old.pause)
    (moves : new.season ≠ old.season ∨ new.trimEnable ≠ old.trimEnable) : s.trimHouse old new = s.checkTimers := by
  have still : ¬old.pauseMoves new = true := by simp [House.pauseMoves, stays]
  refine (if_neg still).trans (if_pos ?_)
  simp only [House.seasonMoves, Bool.or_eq_true, decide_eq_true_eq]
  exact moves.imp Ne.symm Ne.symm

theorem State.trimHouse_still (pause : new.pause = old.pause) (season : new.season = old.season)
    (trimEnable : new.trimEnable = old.trimEnable) : s.trimHouse old new = s := by
  simp [State.trimHouse, House.pauseMoves, House.seasonMoves, pause, season, trimEnable]

theorem State.campaignHouse_standDown (before : old.season = .heating) (after : new.season = .standby) :
    s.campaignHouse old new = s.standDown := by
  refine if_pos ?_
  simp [House.seasonMoves, before, after]

theorem House.not_standsDown (stays : old.season = .standby ∨ new.season = .heating) :
    ¬(old.seasonMoves new && decide (new.season = .standby)) = true := by
  rcases stays with before | after
  · simp [House.seasonMoves, before, eq_comm]
  · simp [after]

theorem State.campaignHouse_pause (stays : old.season = .standby ∨ new.season = .heating) (moves : new.pause ≠ old.pause) :
    s.campaignHouse old new = s.checkCampaigns :=
  (if_neg (House.not_standsDown stays)).trans (if_pos (decide_eq_true (Ne.symm moves)))

theorem State.campaignHouse_still (stays : old.season = .standby ∨ new.season = .heating) (pause : new.pause = old.pause) :
    s.campaignHouse old new = s := by
  refine (if_neg (House.not_standsDown stays)).trans (if_neg ?_)
  simp [House.pauseMoves, pause]

/-- The season stays off STANDBY's onset, or STANDBY is entered. -/
theorem House.standsDown_or (old new : House) :
    (old.season = .heating ∧ new.season = .standby) ∨ old.season = .standby ∨ new.season = .heating := by
  cases old.season <;> cases new.season <;> simp

end

/-- A round start on both manifolds, which runs where the conditions hold (R135). -/
theorem State.fresh_restartRounds (s : State) (m : Manifold) :
    s.restartRounds.FreshRound m (s.restartRounds.RoundConditions m) := by
  have own (t : State) (n : Manifold) : (t.pauseRound n).FreshRound n ((t.pauseRound n).RoundConditions n) :=
    (t.freshRound_pauseRound n).congr ((t.timerRuns_iff n).trans (t.mild_pauseRound n |> fun mild =>
      (State.roundConditions_congr mild.house (by simp [State.pauseRound, State.roundStart, State.clearCounters])
        mild.state mild.channels n).symm))
  have other (t : State) {n m : Manifold} (h : n ≠ m) : t.Spares m (t.pauseRound n) :=
    ((t.quiet_clearCounters n).spares (t.steps_clearCounters n) m).trans (State.spares_roundStart _ h _)
  unfold State.restartRounds
  cases m with
  | a =>
    have spares := other (s.pauseRound .a) (n := .b) (m := .a) Manifold.noConfusion
    exact ((own s .a).of_spares spares).congr spares.roundConditions.symm
  | b => exact own (s.pauseRound .a) .b

theorem State.campaigns_restartRounds (s : State) : s.restartRounds.campaigns = s.campaigns := by
  simp [State.restartRounds, State.pauseRound, State.roundStart, State.clearCounters]

/-! ### A change of the House Record whole (R48, R49) -/

/-- A changed House Record, heard by the Demand Unit where it hears of it (R115, R126). -/
def State.houseHeard (s : State) (h : House) : State := (s.setHouse h).recomputeIf (s.house.moves h)

theorem State.markHouseIf_records (s : State) (c b : Bool) : s.SameRecords (s.markHouseIf c b) := by
  cases c with
  | true => exact State.mark_records s _ _ _
  | false => exact .refl s

theorem State.sameDemand_restartRounds (s : State) : s.SameDemand s.restartRounds := by
  have own (t : State) (m : Manifold) : t.SameDemand (t.pauseRound m) :=
    (t.sameDemand_clearCounters m).trans (State.sameDemand_roundStart _ m _)
  exact (own s .a).trans (own (s.pauseRound .a) .b)

section
variable (s : State) (h : House)

theorem State.quiet_houseHeard : (s.setHouse h).Quiet (s.houseHeard h) := State.quiet_recomputeIf _ _

theorem State.campaigns_houseHeard : (s.houseHeard h).campaigns = s.campaigns := (s.quiet_houseHeard h).campaigns

theorem State.house_houseHeard : (s.houseHeard h).house = h := (s.quiet_houseHeard h).house

theorem State.mild_trimmed : (s.setHouse h).Mild ((s.houseHeard h).trimHouse s.house h) :=
  (s.quiet_houseHeard h).mild.trans (State.mild_trimHouse _ _ _)

theorem State.applyHouse_records :
    (((s.houseHeard h).trimHouse s.house h).campaignHouse s.house h).SameRecords (s.applyHouse h) :=
  State.markHouseIf_records _ _ _

theorem State.campaigns_trimHouse (t : State) (old new : House) : (t.trimHouse old new).campaigns = t.campaigns := by
  unfold State.trimHouse
  split_ifs
  · exact (State.campaigns_restartRounds _).trans t.quiet_recountAll.campaigns
  · exact t.campaigns_checkTimers
  · rfl

theorem State.campaign_trimmed (m : Manifold) : ((s.houseHeard h).trimHouse s.house h).campaign m = s.campaign m := by
  rw [State.campaign, State.campaigns_trimHouse, s.campaigns_houseHeard h]
  rfl

variable {s h}

/-- Where pause changes, a round starts on both manifolds (R135). -/
theorem State.fresh_applyHouse (moves : h.pause ≠ s.house.pause) (m : Manifold) :
    (s.applyHouse h).FreshRound m ((s.applyHouse h).RoundConditions m) := by
  have records := s.applyHouse_records h
  have mild := s.mild_trimmed h
  rw [State.trimHouse_pause moves] at records mild
  have fresh := (s.houseHeard h).recountAll.fresh_restartRounds m
  generalize (s.houseHeard h).recountAll.restartRounds = u at records mild fresh
  have spares := records.spares m
  suffices kept : (u.campaignHouse s.house h).FreshRound m ((u.campaignHouse s.house h).RoundConditions m) from
    (kept.of_spares spares).congr spares.roundConditions.symm
  rcases House.standsDown_or s.house h with ⟨before, after⟩ | stays
  · have standby : u.house.season = .standby := by rw [mild.house]; exact after
    have fails := State.not_conditions_standby standby m
    have keeps := State.keepsRound_abandonAll standby (fresh.started.frozen fails) (mem_bothManifolds m) (by decide) .season
    rw [State.campaignHouse_standDown before after]
    refine (fresh.of_keeps keeps).congr (iff_of_false fails (State.not_conditions_standby ?_ m))
    rw [State.standDown, keeps.house, standby]
  · rw [State.campaignHouse_pause stays moves]
    exact fresh.checkCampaigns

/-- Where pause changes and STANDBY is not entered, both campaigns are examined (R156, R157). -/
theorem State.examined_applyHouse (moves : h.pause ≠ s.house.pause) (stays : s.house.season = .standby ∨ h.season = .heating)
    (m : Manifold) : s.Examined m (s.applyHouse h) ∧ s.Resumes m (s.applyHouse h) := by
  have grounds := (s.applyHouse_records h).grounds m
  have mild := s.mild_trimmed h
  have campaign := s.campaign_trimmed h m
  generalize (s.houseHeard h).trimHouse s.house h = u at grounds mild campaign
  rw [State.campaignHouse_pause stays moves] at grounds
  exact ⟨((u.examined_checkCampaigns m).of_same grounds).of_before campaign mild.moving mild.dwell,
    ((u.resumes_checkCampaigns m).of_same grounds).of_before campaign⟩

/-- Where pause stays and STANDBY is not entered, the campaigns are as they were. -/
theorem State.campaign_applyHouse (pause : h.pause = s.house.pause)
    (stays : s.house.season = .standby ∨ h.season = .heating) (m : Manifold) :
    (s.applyHouse h).campaign m = s.campaign m := by
  have campaign := ((s.applyHouse_records h).spares m).campaign
  rw [State.campaignHouse_still stays pause] at campaign
  exact campaign.trans (s.campaign_trimmed h m)

/-- At an entry into STANDBY both campaigns are abandoned (R161). -/
theorem State.abandoned_applyHouse (before : s.house.season = .heating) (after : h.season = .standby) (m : Manifold) :
    ((s.houseHeard h).trimHouse s.house h).Abandoned m .season (s.applyHouse h) := by
  have spares := (s.applyHouse_records h).spares m
  rw [State.campaignHouse_standDown before after] at spares
  exact (State.abandoned_abandonAll (mem_bothManifolds m) (by decide) .season _).of_spares spares

theorem State.idle_applyHouse (before : s.house.season = .heating) (after : h.season = .standby) (m : Manifold) :
    ((s.applyHouse h).campaign m).state = .idle := (State.abandoned_applyHouse before after m).idle

/-- Where the season or the trimming enable alone changes, the conditions of both timers are checked (R130). -/
theorem State.timed_applyHouse (pause : h.pause = s.house.pause)
    (moves : h.season ≠ s.house.season ∨ h.trimEnable ≠ s.house.trimEnable) (m : Manifold) :
    s.Timed m (s.applyHouse h) := by
  have heard := (s.quiet_houseHeard h).spares ((s.setHouse h).steps_recomputeIf _) m
  have records := s.applyHouse_records h
  have mild := s.mild_trimmed h
  have campaign := s.campaign_trimmed h m
  rw [State.trimHouse_check pause moves] at records mild campaign
  have checked := (s.houseHeard h).checked_checkTimers m
  generalize (s.houseHeard h).checkTimers = u at records mild campaign checked
  have spares := records.spares m
  have before : (s.houseHeard h).campaign m = s.campaign m := heard.campaign
  refine State.Timed.of_before (s := s.houseHeard h) (State.Timed.of_spares ?_ spares) heard.round.timer
    heard.round.supplyRef before heard.channels
  rcases House.standsDown_or s.house h with ⟨before, after⟩ | stays
  · have standby : u.house.season = .standby := by rw [mild.house]; exact after
    have fails := State.not_conditions_standby standby m
    have frozen : (u.timer m).remaining = none := by rw [checked.freezes fails]
    have keeps := State.keepsRound_abandonAll standby frozen (mem_bothManifolds m) (by decide) .season
    have idle := (State.abandoned_abandonAll (mem_bothManifolds m) (by decide) .season u).idle
    rw [State.campaignHouse_standDown before after, State.standDown]
    refine ⟨fun _ rounds => CampaignState.noConfusion (idle.symm.trans rounds), fun _ => checked.of_keeps keeps ?_⟩
    refine iff_of_false (State.not_conditions_standby ?_ m) fails
    rw [keeps.house, standby]
  · rw [State.campaignHouse_still stays pause]
    exact .of_checked checked (campaign.trans before.symm)

/-- With no consequence for another block, nothing but the House Record changes (R48). -/
theorem State.applyHouse_still (season : h.season = s.house.season) (flowFloor : h.flowFloor = s.house.flowFloor)
    (pause : h.pause = s.house.pause) (trimEnable : h.trimEnable = s.house.trimEnable) :
    (s.setHouse h).SameRecords (s.applyHouse h) := by
  have records := s.applyHouse_records h
  have stays : s.house.season = .standby ∨ h.season = .heating := by
    rw [season]
    cases s.house.season <;> simp
  have unheard : s.houseHeard h = s.setHouse h := by
    rw [State.houseHeard, show s.house.moves h = false by simp [House.moves, House.seasonMoves, season, flowFloor]]
    rfl
  rw [State.campaignHouse_still stays pause, State.trimHouse_still pause season trimEnable, unheard] at records
  exact records

theorem State.sameDemand_trimHouse (t : State) (old new : House) : t.SameDemand (t.trimHouse old new) := by
  unfold State.trimHouse
  split_ifs
  · exact t.sameDemand_recountAll.trans (State.sameDemand_restartRounds _)
  · exact (t.sameDemand_checkTimer .a).trans (State.sameDemand_checkTimer _ .b)
  · exact .refl t

theorem State.Commanded.abandonAll {t : State} (commanded : t.Commanded t) (ms : List Manifold) (r : AbandonReason) :
    (t.abandonAll ms r).Commanded (t.abandonAll ms r) := by
  by_cases opened : ∃ m ∈ ms, (t.campaign m).state ≠ .idle
  · exact State.commanded_abandonAll r t opened
  · have idle (m : Manifold) (named : m ∈ ms) : (t.campaign m).state = .idle := not_not.1 fun w => opened ⟨m, named, w⟩
    have same : t.abandonAll ms r = t := by
      induction ms with
      | nil => rfl
      | cons m ms ih =>
        show (t.abandon m r).abandonAll ms r = t
        rw [State.abandon_of_idle (idle m List.mem_cons_self)]
        exact ih (fun ⟨n, named, w⟩ => opened ⟨n, List.mem_cons_of_mem m named, w⟩)
          fun n named => idle n (List.mem_cons_of_mem m named)
    rwa [same]

/-- A change of the season or of the flow floor is recomputed (R48, R126). -/
theorem State.commanded_applyHouse (moves : h.season ≠ s.house.season ∨ h.flowFloor ≠ s.house.flowFloor) :
    (s.setHouse h).Commanded (s.applyHouse h) := by
  have records := s.applyHouse_records h
  have heard : s.houseHeard h = (s.setHouse h).recompute := by
    refine if_pos ?_
    simp only [House.moves, House.seasonMoves, Bool.or_eq_true, decide_eq_true_eq]
    exact moves.imp Ne.symm Ne.symm
  have commanded : (s.houseHeard h).Commanded (s.houseHeard h) := by
    rw [heard]
    exact State.commanded_recompute _
  have inputs := (s.quiet_houseHeard h).onlyDemand.inputs
  have trimmed := State.sameDemand_trimHouse (s.houseHeard h) s.house h
  have mild := s.mild_trimmed h
  generalize (s.houseHeard h).trimHouse s.house h = u at records trimmed mild
  have settled := commanded.of_demand trimmed
  rcases House.standsDown_or s.house h with ⟨before, after⟩ | stays
  · rw [State.campaignHouse_standDown before after] at records
    have settled := State.Commanded.abandonAll settled [.a, .b] .season
    have strokes := (mild.trans (u.mild_abandonAll [.a, .b] .season)).recompute_standby after
    have given : (s.setHouse h).Commanded u.standDown :=
      ⟨fun i => (settled.stroke i).trans (strokes.stroke i), fun i => (settled.held i).trans (strokes.held i),
        settled.short.trans strokes.short⟩
    have same := records.strokes
    exact ⟨fun i => (same.stroke i).trans (given.stroke i), fun i => (same.held i).trans (given.held i),
      same.short.trans given.short⟩
  · have demand : u.SameDemand (u.campaignHouse s.house h) := by
      by_cases pause : h.pause = s.house.pause
      · rw [State.campaignHouse_still stays pause]
        exact .refl u
      · rw [State.campaignHouse_pause stays pause]
        exact (u.sameDemand_checkCampaign .a).trans (State.sameDemand_checkCampaign _ .b)
    have after := demand.trans records.sameDemand
    exact (settled.of_demand after).of_inputs ((inputs.trans trimmed.inputs).trans after.inputs)

end

/-! ### AMEND of HOUSE (R47) -/

section
variable {s : State} {k : SlotIx} {x : Slot}

/-- An AMEND of HOUSE, once its sender's kind and its form are right. -/
theorem State.Polled.exec_amendHouse (polled : s.Polled k x) (kind : slotKind k ≠ .room) {p : List Byte} {n : Nat}
    {ps : List Pair} (form : amendForm (houseAmendable ++ houseReadOnly) p = some (n, ps)) :
    exec (.amendHouse p) s = .next ((if n = 0 then (s.heard k x).amendHouse k ps
      else if n = 1 ∨ n = 2 then (s.heard k x).refuse .denied else (s.heard k x).refuse .nosuch).finish k) :=
  polled.taken (allowed := notRoomUnit) (decide_eq_true kind) form fun k t p =>
    if p.1 = 0 then t.amendHouse k p.2 else if p.1 = 1 ∨ p.1 = 2 then t.refuse .denied else t.refuse .nosuch

variable {ps : List Pair}

theorem State.amendHouse_twice (twice : ¬(ps.map Pair.field).Nodup) : s.amendHouse k ps = s.refuse .range :=
  if_pos (by simpa [distinctFields] using twice)

theorem State.amendHouse_denied (distinct : (ps.map Pair.field).Nodup)
    (denied : ∃ q ∈ ps, ¬HouseAmendable (slotKind k) q.field) : s.amendHouse k ps = s.refuse .denied := by
  obtain ⟨q, mem, no⟩ := denied
  refine (if_neg (by simpa [distinctFields] using distinct)).trans (if_pos ?_)
  rw [Bool.not_eq_true', List.all_eq_false]
  exact ⟨q, mem, fun may => no ((mayAmend_iff _ _).1 may)⟩

theorem State.amendHouse_may (distinct : (ps.map Pair.field).Nodup)
    (may : ∀ q ∈ ps, HouseAmendable (slotKind k) q.field) :
    s.amendHouse k ps = match s.house.setAll ps with
      | some h => ⟨.done, [], (s.applyHouse h).serve⟩
      | none => s.refuse .range := by
  refine (if_neg (by simpa [distinctFields] using distinct)).trans ((if_neg ?_).trans rfl)
  rw [Bool.not_eq_true', List.all_eq_false]
  rintro ⟨q, mem, no⟩
  exact no ((mayAmend_iff _ _).2 (may q mem))

end

/-- A change of the House Record, then the start of a move: what an AMEND of HOUSE and the pause line come to. -/
def State.houseServed (s : State) (h : House) : State := (s.applyHouse h).serve

section
variable {s : State} (marks : s.MarkLaw) {h : House}
include marks

theorem State.marks_applyHouse : (s.applyHouse h).MarkLaw :=
  (s.mild_applyHouse h).markLaw (marks.of_marks (fun _ => rfl) rfl)

theorem State.onlyDrive_houseServed : State.OnlyDrive [] (s.setHouse h) (s.houseServed h) :=
  (s.mild_applyHouse h).onlyDrive.trans (State.onlyDrive_serve (State.marks_applyHouse marks))

theorem State.fresh_houseServed (moves : h.pause ≠ s.house.pause) (m : Manifold) :
    (s.houseServed h).FreshRound m ((s.houseServed h).RoundConditions m) :=
  (State.passes_serve (State.marks_applyHouse marks) m).freshRound (State.fresh_applyHouse moves m)

theorem State.examined_houseServed (moves : h.pause ≠ s.house.pause)
    (stays : s.house.season = .standby ∨ h.season = .heating) (m : Manifold) : s.Examined m (s.houseServed h) := by
  have mild := s.mild_applyHouse h
  obtain ⟨examined, resumes⟩ := State.examined_applyHouse moves stays m
  exact examined.serve (State.marks_applyHouse marks) resumes mild.moving mild.dwell

theorem State.timed_houseServed (pause : h.pause = s.house.pause)
    (moves : h.season ≠ s.house.season ∨ h.trimEnable ≠ s.house.trimEnable) (m : Manifold) :
    s.Timed m (s.houseServed h) := by
  refine (State.timed_applyHouse pause moves m).serve (State.marks_applyHouse marks) fun rounds => ?_
  rcases House.standsDown_or s.house h with ⟨before, after⟩ | stays
  · rw [State.idle_applyHouse before after]
    exact CampaignState.noConfusion
  · rw [State.campaign_applyHouse pause stays, rounds]
    exact CampaignState.noConfusion

theorem State.campaign_houseServed (pause : h.pause = s.house.pause)
    (stays : s.house.season = .standby ∨ h.season = .heating) {m : Manifold}
    (unopened : (s.campaign m).state ≠ .opening) : (s.houseServed h).campaign m = s.campaign m := by
  have same := State.campaign_applyHouse pause stays m
  exact (State.spares_serve_unopened (State.marks_applyHouse marks) (by rw [same]; exact unopened)).campaign.trans same

theorem State.abandoned_houseServed (before : s.house.season = .heating) (after : h.season = .standby) {m : Manifold}
    (opened : (s.campaign m).state ≠ .idle) :
    (s.houseServed h).campaign m = ⟨.idle, none, (s.campaign m).roundsDone, .abandoned, some .season⟩ := by
  have spares := State.spares_serve (State.marks_applyHouse marks) (State.idle_applyHouse before after m)
  have ended := (State.abandoned_applyHouse before after m).ended
  rw [s.campaign_trimmed h m] at ended
  exact spares.campaign.trans (ended opened)

omit marks in
theorem State.commanded_houseServed (moves : h.season ≠ s.house.season ∨ h.flowFloor ≠ s.house.flowFloor)
    (busy : s.DriverBusy) : (s.setHouse h).Commanded (s.houseServed h) := by
  have waits : (s.applyHouse h).DriverBusy := (s.mild_applyHouse h).busy busy
  rw [State.houseServed, waits.serve]
  exact State.commanded_applyHouse moves

omit marks in
theorem State.startLaw_congr {t : State} (drive : t.drive = s.drive) (start : s.StartLaw) : t.StartLaw := by
  unfold State.StartLaw State.canStart at start ⊢
  rwa [drive]

omit marks in
theorem State.houseServed_still (season : h.season = s.house.season) (flowFloor : h.flowFloor = s.house.flowFloor)
    (pause : h.pause = s.house.pause) (trimEnable : h.trimEnable = s.house.trimEnable) (start : s.StartLaw) :
    (s.setHouse h).SameRecords (s.houseServed h) := by
  have records := State.applyHouse_still season flowFloor pause trimEnable
  rw [State.houseServed, State.serve_of_startLaw (State.startLaw_congr (s := s) records.drive start)]
  exact records

omit marks in
theorem State.link_houseServed : (s.houseServed h).link = s.link :=
  (State.link_serve _).trans (s.mild_applyHouse h).link

end

/-- A change of the House Record that the sender of a request makes is the change that a state with the same records
takes. -/
theorem State.setHouse_heard (s : State) (k : SlotIx) (x : Slot) (h : House) :
    (s.setHouse h).SameRecords ((s.heard k x).setHouse h) := by
  have relinked : (s.heard k x).setHouse h = (s.setHouse h).relink (s.heard k x).link := by
    rw [State.heard_relink]
    rfl
  exact relinked ▸ State.relink_records _ _

/-! ### The pause line (R49) -/

section
variable {s : State} {h : House} (season : h.season = s.house.season) (flowFloor : h.flowFloor = s.house.flowFloor)
  (pause : h.pause ≠ s.house.pause)
include season flowFloor pause

/-- A change of pause alone: both rounds begun afresh, both campaigns examined, and the House Record reported. -/
theorem State.applyHouse_pause : (s.setHouse h).recountAll.restartRounds.checkCampaigns.SameRecords (s.applyHouse h) := by
  have records := s.applyHouse_records h
  have stays : s.house.season = .standby ∨ h.season = .heating := by
    rw [season]
    cases s.house.season <;> simp
  have unheard : s.houseHeard h = s.setHouse h := by
    rw [State.houseHeard, show s.house.moves h = false by simp [House.moves, House.seasonMoves, season, flowFloor]]
    rfl
  rw [State.campaignHouse_pause stays pause, State.trimHouse_pause pause, unheard] at records
  exact records

theorem State.drive_applyHouse_pause : (s.applyHouse h).drive = s.drive := by
  have drive (t : State) : t.recountAll.restartRounds.drive = t.drive := by
    simp [State.restartRounds, State.pauseRound, State.roundStart, State.clearCounters, State.recountAll]
  exact (State.applyHouse_pause season flowFloor pause).drive.trans
    ((State.drive_checkCampaigns _).trans (drive (s.setHouse h)))

theorem State.floorShort_applyHouse_pause : (s.applyHouse h).floorShort = s.floorShort := by
  have demand (t : State) : t.SameDemand t.recountAll.restartRounds.checkCampaigns :=
    (t.sameDemand_recountAll.trans (State.sameDemand_restartRounds _)).trans
      ((State.sameDemand_checkCampaign _ .a).trans (State.sameDemand_checkCampaign _ .b))
  exact (State.applyHouse_pause season flowFloor pause).floorShort.trans (demand (s.setHouse h)).strokes.short

/-- Nothing of a loop but its open counter changes. -/
theorem State.counted_applyHouse_pause : s.Counted (s.applyHouse h) := by
  have counted (t : State) : t.Counted t.recountAll.restartRounds.checkCampaigns :=
    (t.counted_recountAll.trans ((State.counted_pauseRound _ .a).trans (State.counted_pauseRound _ .b))).trans
      ((State.counted_checkCampaign _ .a).trans (State.counted_checkCampaign _ .b))
  have records := State.applyHouse_pause season flowFloor pause
  exact fun i => (records.loop i).symm ▸ counted (s.setHouse h) i

theorem State.loop_applyHouse_pause (i : LoopIx) : (s.applyHouse h).loop i = { s.loop i with openCounter := 0 } := by
  have zero := (State.fresh_applyHouse pause (manifoldOf i)).counters i rfl
  rcases State.counted_applyHouse_pause season flowFloor pause i with same | zeroed
  · rw [same] at zero ⊢
    rw [← zero]
  · exact zeroed

end

/-- What a pause onset or end comes to (R49, R135, R156, R157). -/
theorem exec_pauseLine {s : State} {c : Instr} {h : House} (start : s.StartLaw)
    (event : exec c s = .next (s.houseServed h).tellWatches) (season : h.season = s.house.season)
    (flowFloor : h.flowFloor = s.house.flowFloor) (pause : h.pause ≠ s.house.pause) :
    ∃ t, exec c s = .next t ∧ s.LinkKept t ∧ t.house = h ∧
      t.drive = s.drive ∧ t.rooms = s.rooms ∧ t.floorList = s.floorList ∧ t.storage = s.storage ∧
      t.channels = s.channels ∧ t.floorShort = s.floorShort ∧ (∀ i, t.loop i = { s.loop i with openCounter := 0 }) ∧
      ∀ m, t.FreshRound m (t.RoundConditions m) ∧ s.Examined m t := by
  have mild := s.mild_applyHouse h
  have drive := State.drive_applyHouse_pause season flowFloor pause
  have served : s.houseServed h = s.applyHouse h := State.serve_of_startLaw (State.startLaw_congr drive start)
  have short := State.floorShort_applyHouse_pause season flowFloor pause
  have loops := State.loop_applyHouse_pause season flowFloor pause
  have stays : s.house.season = .standby ∨ h.season = .heating := by
    rw [season]
    cases s.house.season <;> simp
  have examined (m : Manifold) := (State.examined_applyHouse pause stays m).1
  have fresh (m : Manifold) := State.fresh_applyHouse pause m
  rw [served] at event
  generalize s.applyHouse h = u at event mild drive short loops examined fresh
  have told := u.tellWatches_records
  refine ⟨_, event, State.linkKept_told mild.link, told.house.trans mild.house, told.drive.trans drive,
    told.rooms.trans mild.rooms, told.floorList.trans mild.floorList, told.storage.trans mild.storage,
    told.channels.trans mild.channels, told.floorShort.trans short, fun i => (told.loop i).trans (loops i),
    fun m => ⟨?_, (examined m).of_same (told.grounds m)⟩⟩
  have spares := told.spares m
  exact ((fresh m).of_spares spares).congr spares.roundConditions.symm

/-- A change of the line that leaves pause as it was (R49). -/
theorem exec_pauseLine_still {s : State} {c : Instr} {h : House} (start : s.StartLaw)
    (event : exec c s = .next (s.houseServed h).tellWatches) (season : h.season = s.house.season)
    (flowFloor : h.flowFloor = s.house.flowFloor) (trimEnable : h.trimEnable = s.house.trimEnable)
    (pause : h.pause = s.house.pause) :
    ∃ t, exec c s = .next t ∧ (s.setHouse h).SameRecords t ∧ s.LinkKept t :=
  ⟨_, event, (State.houseServed_still season flowFloor pause trimEnable start).trans (State.tellWatches_records _),
    State.linkKept_told State.link_houseServed⟩

end Sys2Proof.Machine

open Sys2Proof Sys2Proof.Machine

/-- Settles O21: the checks of R47, then the pairs applied together and what the other blocks make of them. -/
theorem amendHouseAppliesItsPairsTogether : Obligations.AmendHouseAppliesItsPairsTogether := by
  intro s k x p n ps polled marks kind form
  have taken := polled.exec_amendHouse kind form
  refine ⟨fun readOnly => ?_, fun other => ?_, fun first twice => ?_, fun first distinct denied => ?_,
    fun first distinct may => ⟨fun out => ?_, fun range h amended => ?_⟩⟩
  · exact onlyAnswers_of_refused taken (by rw [if_neg (by omega), if_pos readOnly])
  · exact onlyAnswers_of_refused taken (by rw [if_neg (by omega), if_neg (by omega)])
  · exact onlyAnswers_of_refused taken (by rw [if_pos first, State.amendHouse_twice twice])
  · exact onlyAnswers_of_refused taken (by rw [if_pos first, State.amendHouse_denied distinct denied])
  · obtain ⟨q, mem, bad⟩ := out
    have refused := (s.heard k x).house.setAll_refused mem (may q mem) bad
    exact onlyAnswers_of_refused taken (by rw [if_pos first, State.amendHouse_may distinct may, refused])
  · have applied : (s.heard k x).house.setAll ps = some h := amended ▸ s.house.setAll_taken distinct range
    rw [if_pos first, State.amendHouse_may distinct may, applied] at taken
    have law : (s.heard k x).MarkLaw := marks
    have heard := s.heard_records k x
    have before := s.setHouse_heard k x h
    have finish := Taken.finish_records ⟨.done, [], (s.heard k x).houseServed h⟩ k
    refine ⟨_, taken, State.replies_finish State.link_houseServed .done [],
      (before.onlyDrive.trans (State.onlyDrive_houseServed law)).trans finish.onlyDrive,
      fun season floor pause trim start => ?_, fun moves busy => ?_, fun moves m => ⟨?_, fun stays => ?_⟩,
      fun pause moves m => ?_, fun pause stays m unopened => ?_, fun heating standby m opened => ?_⟩
    · exact (before.trans (State.houseServed_still (s := s.heard k x) season floor pause trim start)).trans finish
    · have commanded := State.commanded_houseServed (s := s.heard k x) moves (heard.busy busy)
      have same := finish.strokes
      have given := commanded.of_inputs before.sameDemand.inputs
      exact ⟨fun i => (same.stroke i).trans (given.stroke i), fun i => (same.held i).trans (given.held i),
        same.short.trans given.short⟩
    · have spares := finish.spares m
      exact ((State.fresh_houseServed law moves m).of_spares spares).congr spares.roundConditions.symm
    · exact heard.examined ((State.examined_houseServed law moves stays m).of_same (finish.grounds m))
    · exact heard.timed ((State.timed_houseServed law pause moves m).of_spares (finish.spares m))
    · exact (finish.spares m).campaign.trans (State.campaign_houseServed (s := s.heard k x) law pause stays unopened)
    · exact (finish.spares m).campaign.trans (State.abandoned_houseServed (s := s.heard k x) law heating standby opened)

/-- Settles O22: the line as a change of the House Record, of which pause alone is heard. -/
theorem pauseLineStopsMeasurement : Obligations.PauseLineStopsMeasurement := by
  intro s powered _ start
  have asserted : exec .pauseLineAssertion s = .next (s.houseServed (s.house.setLine true)).tellWatches :=
    event_next powered fun t => t.houseServed (t.house.setLine true)
  have released : exec .pauseLineRelease s = .next (s.houseServed (s.house.setLine false)).tellWatches :=
    event_next powered fun t => t.houseServed (t.house.setLine false)
  refine ⟨fun stays => exec_pauseLine_still start asserted rfl rfl rfl ?_,
    fun stays => exec_pauseLine_still start released rfl rfl rfl ?_,
    fun flag line => ?_, fun flag line => ?_⟩
  · rcases stays with flag | line <;> simp [House.pause, *]
  · rcases stays with flag | line <;> simp [House.pause, *]
  · have onset : (s.house.setLine true).pause ≠ s.house.pause := by simp [House.pause, House.setLine, flag, line]
    obtain ⟨t, step, link, house, drive, rooms, floor, storage, channels, short, loops, rounds⟩ :=
      exec_pauseLine start asserted rfl rfl onset
    refine ⟨t, step, link, house, drive, rooms, floor, storage, channels, short, loops, fun m => ?_⟩
    obtain ⟨fresh, examined⟩ := rounds m
    refine ⟨fresh.congr (iff_of_false (fun ⟨_, _, open_, _⟩ => ?_) id), examined⟩
    rw [house] at open_
    simp [House.pause, House.setLine] at open_
  · have ending : (s.house.setLine false).pause ≠ s.house.pause := by simp [House.pause, House.setLine, flag, line]
    exact exec_pauseLine start released rfl rfl ending
end

section
/-! PROOF. O23 to O26: the commands of the Loop Table, ENROL (R15 to R17), RETIRE (R18), AMEND of LOOP (R21 to R25) and PRESET (R26). -/

namespace Sys2Proof.Machine

/-! ### The longest length of a manifold (R17) -/

theorem foldl_max_le {l : List Nat} {a b : Nat} : l.foldl max a ≤ b ↔ a ≤ b ∧ ∀ n ∈ l, n ≤ b := by
  induction l generalizing a with
  | nil => simp
  | cons x l ih => rw [List.foldl_cons, ih, List.forall_mem_cons, Nat.max_le, and_assoc]

/-- The longest length is what R17 says it is. -/
theorem State.IsLongest.eq {s : State} {m : Manifold} {n : Nat} (h : s.IsLongest m n) : s.longest m = n := by
  obtain ⟨bound, reached⟩ := h
  refine Nat.le_antisymm (foldl_max_le.2 ⟨Nat.zero_le n, fun x mem => ?_⟩) ?_
  · obtain ⟨i, here, rfl⟩ := List.mem_map.1 mem
    split_ifs with occupied
    · cases length : (s.loop i).length with
      | none => exact Nat.zero_le n
      | some l => exact bound i l ((mem_loopsOf m i).1 here) (of_decide_eq_true occupied) length
    · exact Nat.zero_le n
  · rcases reached with ⟨i, here, occupied, length⟩ | ⟨zero, -⟩
    · subst here
      exact State.le_longest (decide_eq_true occupied) length
    · rw [zero]
      exact Nat.zero_le _

/-! ### PRESET (R26) -/

/-- A loop's record as a PRESET lays it out (R26, R142). -/
def State.presetRecord (s : State) (m : Manifold) (longest : Nat) (i : LoopIx) (l : Loop) : Loop :=
  if manifoldOf i = m ∧ l.life ≠ .vacant then
    { l with
      ceiling := match l.length with
        | some n => max 80 (1000 * n / longest)
        | none => 1000
      inBand := 0
      balance := if l.owner = .service ∨ (s.channel (loopChannel i)).state = .fault then .excluded
        else .unmeasured }
  else l

theorem ceilingByLength_eq (length : Option Nat) (longest : Nat) : ceilingByLength length longest =
    match length with
    | some n => max 80 (1000 * n / longest)
    | none => 1000 := by
  cases length <;> rfl

theorem State.mapLoops_congr {s : State} {f g : LoopIx → Loop → Loop} (same : ∀ i, f i (s.loop i) = g i (s.loop i)) :
    s.mapLoops f = s.mapLoops g := by
  have loops : (fun i => f i (s.loop i)) = fun i => g i (s.loop i) := funext same
  rw [State.mapLoops, State.mapLoops, loops]

/-- A PRESET up to the start of the next move. -/
def State.presetTaken (s : State) (m : Manifold) : State :=
  ((s.layOut m).recompute.coupling m).forEach (loopsOf m) fun t i =>
    t.markLoopIf (decide (s.loop i ≠ (s.layOut m).loop i)) i
      (decide ((s.loop i).balance ≠ ((s.layOut m).loop i).balance))

section
variable {s : State} {m : Manifold}

theorem State.layOut_eq {longest : Nat} (h : s.IsLongest m longest) :
    s.layOut m = s.mapLoops (s.presetRecord m longest) := by
  refine State.mapLoops_congr fun i => ?_
  by_cases here : manifoldOf i = m ∧ (s.loop i).life ≠ .vacant
  · rw [State.presetRecord, if_pos here, if_pos ⟨here.1, decide_eq_true here.2⟩, h.eq, State.unmeasured_eq here.2,
      ceilingByLength_eq]
    rfl
  · have there : ¬(manifoldOf i = m ∧ (s.loop i).occupied = true) := fun w => here ⟨w.1, of_decide_eq_true w.2⟩
    rw [State.presetRecord, if_neg here, if_neg there]

theorem State.presetTaken_records : ((s.layOut m).recompute.coupling m).SameRecords (s.presetTaken m) :=
  State.forEach_rel State.SameRecords.refl (fun _ _ _ => State.SameRecords.trans)
    (fun t i => t.records_markLoopIf _ i _) (loopsOf m) _

theorem State.mild_presetTaken : (s.layOut m).Mild (s.presetTaken m) := by
  refine .trans ((s.layOut m).quiet_recompute.mild.trans (State.mild_coupling _ m)) ?_
  exact State.forEach_rel State.Mild.refl (fun _ _ _ => State.Mild.trans) (fun t i => t.mild_markLoopIf _ i _)
    (loopsOf m) _

theorem State.commanded_presetTaken : (s.presetTaken m).Commanded (s.presetTaken m) :=
  ((State.commanded_recompute (s.layOut m)).of_demand (State.sameDemand_coupling _ m)).of_records
    State.presetTaken_records

theorem State.fresh_presetTaken : (s.presetTaken m).FreshRound m ((s.timer m).remaining ≠ none) := by
  have timers : (s.layOut m).recompute.timers = s.timers := by
    rw [(s.layOut m).quiet_recompute.timers, State.layOut, State.mapLoops_timers]
  have told := (State.presetTaken_records (s := s) (m := m)).spares m
  generalize (s.layOut m).recompute = u at timers told
  have running : u.timerRunning m = true ↔ (s.timer m).remaining ≠ none := by
    rw [State.timerRunning, State.timer_congr timers, Option.isSome_iff_ne_none]
  exact ((u.freshRound_coupling m).congr running).of_spares told

theorem State.campaign_presetTaken : (s.presetTaken m).campaign m = s.campaign m := by
  have campaigns : (s.layOut m).recompute.campaigns = s.campaigns := by
    rw [(s.layOut m).quiet_recompute.campaigns, State.layOut, State.mapLoops_campaigns]
  have told := (State.presetTaken_records (s := s) (m := m)).spares m
  generalize (s.layOut m).recompute = u at campaigns told
  have coupled : (u.coupling m).campaigns = s.campaigns := by
    simp [State.coupling, State.clearCounters, State.roundStart, campaigns]
  exact told.campaign.trans (congrArg (PerManifold.get · m) coupled)

theorem State.marks_layOut (marks : s.MarkLaw) : (s.layOut m).MarkLaw := by
  refine marks.of_marks (fun i => ?_) rfl
  rw [State.layOut, State.loop_mapLoops]
  split_ifs <;> rfl

theorem State.presetManifold_busy (opened : (s.campaign m).state ≠ .idle) : s.presetManifold m = s.refuse .busy :=
  if_pos ((s.campaignOpen_iff m).2 opened)

theorem State.presetManifold_idle (idle : (s.campaign m).state = .idle) : s.presetManifold m =
    if (loopsOf m).any fun i => (s.loop i).occupied then ⟨.done, [], s.preset m⟩ else s.refuse .nosuch :=
  if_neg fun opened => (s.campaignOpen_iff m).1 opened idle

theorem State.occupied_any_iff : ((loopsOf m).any fun i => (s.loop i).occupied) = true ↔
    ∃ i, manifoldOf i = m ∧ (s.loop i).life ≠ .vacant := by
  simp [mem_loopsOf, Loop.occupied]

/-- The form of a PRESET names one manifold (11.4). -/
theorem presetForm_of_number {b : Byte} (number : b.toNat = (match m with
    | .a => 1
    | .b => 2)) : presetForm [b] = some m := by
  unfold presetForm manifoldsOf
  cases m <;> simp only at number <;> simp only [number]

theorem presetForm_of_other {b : Byte} (first : b.toNat ≠ 1) (second : b.toNat ≠ 2) : presetForm [b] = none := by
  have several : manifoldsOf b = none ∨ manifoldsOf b = some [.a, .b] := by
    unfold manifoldsOf
    split
    · exact absurd ‹_› first
    · exact absurd ‹_› second
    · exact .inr rfl
    · exact .inl rfl
  rcases several with none | both
  · simp only [presetForm, none]
  · simp only [presetForm, both]

theorem State.Polled.exec_preset {k : SlotIx} {x : Slot} (polled : s.Polled k x) (service : slotKind k = .service)
    {b : Byte} (form : presetForm [b] = some m) :
    exec (.preset [b]) s = .next (((s.heard k x).presetManifold m).finish k) :=
  polled.taken (allowed := serviceStation) (serviceStation_of service) form fun _ t m => t.presetManifold m

end

/-! ### The loop that a request names (R1) -/

theorem loopIndex_of_val {n : Nat} {i : LoopIx} (number : n = i.val) : loopIndex n = some i := by
  subst number
  exact dif_pos i.isLt

theorem State.onLoop_of_loop (s : State) {n : Nat} {i : LoopIx} (number : n = i.val) (take : LoopIx → Taken) :
    s.onLoop n take = take i := by
  simp only [State.onLoop, loopIndex_of_val number]

theorem State.onLoop_outside (s : State) {n : Nat} (out : 24 ≤ n) (take : LoopIx → Taken) :
    s.onLoop n take = s.refuse .nosuch := by
  simp only [State.onLoop, loopIndex, dif_neg (show ¬n < 24 by omega)]

/-! ### ENROL (R15 to R17) -/

/-- A record whose head is to be homed where it is fitted (R16, R25). -/
def Loop.homedIf (l : Loop) (c : Bool) : Loop := if c then l.unhomed.setWant (some .home) else l

theorem State.loop_wantHomeIf (s : State) (c : Bool) (i : LoopIx) :
    ((s.loop i).homedIf c).Counted ((s.wantHomeIf c i).loop i) := by
  cases c with
  | true => exact s.loop_wantHome i
  | false => exact .refl _

/-- A loop's record once enrolled, its open counter aside. -/
def Loop.enrolledAs (l : Loop) (room : Option RoomIx) (length : Option Nat) (covering ceiling : Nat) (b : Balance) : Loop :=
  (((l.enrolled room length covering ceiling).rate 0 b).homedIf l.present).setStroke 0 false

/-- What an ENROL sets, and no start of a move changes (R16). -/
structure Loop.Enrols (l : Loop) (room : Option RoomIx) (length : Option Nat) (covering ceiling : Nat) (b : Balance)
    (x : Loop) : Prop where
  room : x.room = room
  length : x.length = length
  covering : x.covering = covering
  owner : x.owner = .auto
  override : x.override = 0
  ceiling : x.ceiling = ceiling
  faults : x.faults = .empty
  inBand : x.inBand = 0
  balance : x.balance = b
  present : x.present = l.present
  life : x.life = if l.present = true then .homing else .enrolled
  unhomed : l.present = true → x.homed = false ∧ x.capacity = none ∧ x.stepPos = none

section
variable {l : Loop} {room : Option RoomIx} {length : Option Nat} {covering ceiling : Nat} {b : Balance}

theorem Loop.enrols_enrolledAs : l.Enrols room length covering ceiling b (l.enrolledAs room length covering ceiling b) := by
  rcases l with ⟨⟩
  rename_i present _ _ _ _ _ _ _ _ _ _ _ _ _ _
  cases present with
  | true => exact ⟨rfl, rfl, rfl, rfl, rfl, rfl, rfl, rfl, rfl, rfl, rfl, fun _ => ⟨rfl, rfl, rfl⟩⟩
  | false => exact ⟨rfl, rfl, rfl, rfl, rfl, rfl, rfl, rfl, rfl, rfl, rfl, nofun⟩

theorem Loop.Enrols.stands {x y : Loop} (h : l.Enrols room length covering ceiling b x) (g : x.Stands y) :
    l.Enrols room length covering ceiling b y where
  room := g.config.room.trans h.room
  length := g.config.length.trans h.length
  covering := g.config.covering.trans h.covering
  owner := g.config.owner.trans h.owner
  override := g.config.override.trans h.override
  ceiling := g.config.ceiling.trans h.ceiling
  faults := g.faults.trans h.faults
  inBand := g.inBand.trans h.inBand
  balance := g.balance.trans h.balance
  present := g.present.trans h.present
  life := g.life.trans h.life
  unhomed fitted := by
    obtain ⟨homed, capacity, stepPos⟩ := h.unhomed fitted
    exact ⟨g.homed.trans homed, g.capacity.trans capacity, g.stepPos.trans stepPos⟩

theorem Loop.work_enrolledAs (fitted : l.present = true) :
    (l.enrolledAs room length covering ceiling b).position = none ∧
      (l.enrolledAs room length covering ceiling b).want = some .home := by
  rw [Loop.enrolledAs, fitted]
  exact ⟨rfl, rfl⟩

end

/-- The record set by an ENROL, before any other block hears of it. -/
def State.enrolSet (s : State) (i : LoopIx) (room : Option RoomIx) (length : Option Nat) (covering : Nat) : State :=
  s.modLoop i fun l => l.enrolled room length covering (ceilingByLength length (s.longestWith i length))

/-- An ENROL up to the coupling event (R16, R13). -/
def State.enrolHeard (s : State) (i : LoopIx) (room : Option RoomIx) (length : Option Nat) (covering : Nat) : State :=
  (((s.enrolSet i room length covering).voidBalance i).wantHomeIf (s.loop i).present i).lifeChanged i .vacant

/-- An ENROL up to the start of the next move. -/
def State.enrolTaken (s : State) (i : LoopIx) (room : Option RoomIx) (length : Option Nat) (covering : Nat) : State :=
  (((s.enrolHeard i room length covering).coupling (manifoldOf i)).tellHead s i).markRoomOf room

section
variable (s : State) (i : LoopIx) (room : Option RoomIx) (length : Option Nat) (covering : Nat)

theorem State.enrol_eq : s.enrol i room length covering = (s.enrolTaken i room length covering).serve := rfl

theorem State.enrolTaken_quiet :
    ((s.enrolHeard i room length covering).coupling (manifoldOf i)).Quiet (s.enrolTaken i room length covering) :=
  (State.quiet_tellHead _ s i).trans (State.quiet_markRoomOf _ room)

theorem State.steps_told_enrol :
    ((s.enrolHeard i room length covering).coupling (manifoldOf i)).Steps (s.enrolTaken i room length covering) :=
  (State.steps_tellHead _ s i).trans (State.steps_markRoomOf _ room)

theorem State.touches_enrolTaken : State.Touches i s (s.enrolTaken i room length covering) := by
  have wants (t : State) (c : Bool) : State.Touches i t (t.wantHomeIf c i) := by
    cases c with
    | true => exact t.touches_wantHome i
    | false => exact .refl i t
  have set : State.Touches i s (s.enrolSet i room length covering) := s.touches_modLoop i _
  have heard : State.Touches i s (s.enrolHeard i room length covering) :=
    ((set.trans (State.touches_voidBalance _ i)).trans (wants _ _)).trans ((State.mild_lifeChanged _ i _).touches i)
  exact (heard.trans ((State.mild_coupling _ _).touches i)).trans
    ((s.enrolTaken_quiet i room length covering).mild.touches i)

theorem State.driver_enrolTaken : s.SameDriver (s.enrolTaken i room length covering) := by
  have set : s.SameDriver (s.enrolSet i room length covering) := s.driver_modLoop i id
  have heard : s.SameDriver (s.enrolHeard i room length covering) :=
    ((set.trans (State.driver_voidBalance _ i)).trans (State.driver_wantHomeIf _ _ i)).trans
      (State.mild_lifeChanged _ i _).driver
  exact (heard.trans (State.mild_coupling _ _).driver).trans (s.enrolTaken_quiet i room length covering).driver

theorem State.link_enrolTaken : (s.enrolTaken i room length covering).link = s.link := by
  have chain (u : State) : (((u.voidBalance i).wantHomeIf (s.loop i).present i).lifeChanged i .vacant).link = u.link :=
    (((State.steps_voidBalance u i).trans (State.steps_wantHomeIf _ _ i)).trans (State.steps_lifeChanged _ i _)).calm.link
  have set : (s.enrolSet i room length covering).link = s.link := by
    rw [State.enrolSet, State.modLoop, State.setLoop_link]
  rw [(s.enrolTaken_quiet i room length covering).link, (State.mild_coupling _ _).link, State.enrolHeard, chain, set]

theorem State.commanded_enrolTaken :
    (s.enrolTaken i room length covering).Commanded (s.enrolTaken i room length covering) :=
  (State.commanded_lifeChanged _ i .vacant).of_demand (((State.sameDemand_coupling _ _).trans
    (State.sameDemand_tellHead _ s i)).trans (State.sameDemand_markRoomOf _ room))

variable {s i room length covering}

/-- The balance status an ENROL gives (R16, R142). -/
def State.enrolledBalance (s : State) (i : LoopIx) : Balance :=
  if (s.channel (loopChannel i)).state = .fault then .excluded else .unmeasured

theorem State.loop_enrolTaken : ((s.loop i).enrolledAs room length covering
    (ceilingByLength length (s.longestWith i length)) (s.enrolledBalance i)).Counted
      ((s.enrolTaken i room length covering).loop i) := by
  have told : ((s.enrolHeard i room length covering).loop i).Counted ((s.enrolTaken i room length covering).loop i) := by
    rw [State.enrolTaken, State.loop_markRoomOf, State.loop_tellHead]
    exact (State.counted_coupling _ _).loop i
  have set : (s.enrolSet i room length covering).loop i =
      (s.loop i).enrolled room length covering (ceilingByLength length (s.longestWith i length)) :=
    s.loop_modLoop_self i _
  have channels : (s.enrolSet i room length covering).channels = s.channels := by
    rw [State.enrolSet, State.modLoop, State.setLoop_channels]
  refine .trans ?_ told
  unfold State.enrolHeard
  generalize s.enrolSet i room length covering = u at set channels
  have life : (u.loop i).life = if (s.loop i).present then .homing else .enrolled := by rw [set]; rfl
  have owner : (u.loop i).owner = .auto := by rw [set]; rfl
  have settled : (u.loop i).life ≠ .vacant ∧ (u.loop i).life ≠ .ready := by
    rw [life]
    split_ifs <;> exact ⟨Lifecycle.noConfusion, Lifecycle.noConfusion⟩
  have voided : (u.voidBalance i).loop i = ((s.loop i).enrolled room length covering
      (ceilingByLength length (s.longestWith i length))).rate 0 (s.enrolledBalance i) := by
    rw [State.loop_voidBalance, State.unmeasured_eq settled.1, owner, set, State.channel_congr channels]
    simp only [reduceCtorEq, false_or]
    rfl
  have homed := (u.voidBalance i).loop_wantHomeIf (s.loop i).present i
  have unready : (((u.voidBalance i).wantHomeIf (s.loop i).present i).loop i).life ≠ .ready := by
    rw [homed.life, voided]
    cases fitted : (s.loop i).present <;> simp [Loop.homedIf, Loop.enrolled, Loop.rate, fitted, Loop.unhomed, Loop.setWant]
  have changed := State.loop_lifeChanged _ i .vacant i unready
  rw [voided] at homed
  exact (homed.map (f := fun l => l.setStroke 0 false) fun _ => rfl).trans changed

/-- An ENROL is no entry into READY, and leaves every campaign and round alone until it couples the manifold. -/
theorem State.spares_enrolHeard (m : Manifold) : s.Spares m (s.enrolHeard i room length covering) := by
  have set : s.Spares m (s.enrolSet i room length covering) := State.spares_modLoop s i (fun _ _ => rfl) m
  have voided (u : State) : u.Spares m (u.voidBalance i) := 
    State.spares_modLoop u i (f := fun l => l.rate 0 (u.unmeasured i)) (fun _ z => z) m
  have wants (u : State) (c : Bool) : u.Spares m (u.wantHomeIf c i) := by
    cases c with
    | true => exact u.spares_wantHome i m
    | false => exact .refl u m
  have record : ((s.enrolSet i room length covering).loop i).life = if (s.loop i).present then .homing else .enrolled :=
    congrArg Loop.life (s.loop_modLoop_self i _)
  unfold State.enrolHeard
  generalize s.enrolSet i room length covering = u at set record
  have homed := (u.voidBalance i).loop_wantHomeIf (s.loop i).present i
  refine ((set.trans (voided u)).trans (wants _ _)).trans (State.spares_lifeChanged ?_ m)
  have life : (((u.voidBalance i).wantHomeIf (s.loop i).present i).loop i).life ≠ .ready := by
    have kept : ((u.voidBalance i).loop i).life = (u.loop i).life := by rw [State.loop_voidBalance]; rfl
    have home (l : Loop) (c : Bool) : (l.homedIf c).life = l.life := by cases c <;> rfl
    rw [homed.life, home, kept, record]
    split_ifs <;> exact Lifecycle.noConfusion
  simp [State.crossed, life]

theorem State.fresh_enrolTaken : (s.enrolTaken i room length covering).FreshRound (manifoldOf i)
    ((s.timer (manifoldOf i)).remaining ≠ none) := by
  have spares := s.spares_enrolHeard (i := i) (room := room) (length := length) (covering := covering) (manifoldOf i)
  have told := (s.enrolTaken_quiet i room length covering).spares (s.steps_told_enrol i room length covering) (manifoldOf i)
  generalize s.enrolHeard i room length covering = u at spares told
  have running : u.timerRunning (manifoldOf i) = true ↔ (s.timer (manifoldOf i)).remaining ≠ none := by
    rw [State.timerRunning, spares.round.timer, Option.isSome_iff_ne_none]
  exact ((u.freshRound_coupling (manifoldOf i)).congr running).of_spares told

theorem State.campaign_coupling (u : State) (n m : Manifold) : (u.coupling n).campaign m = u.campaign m := by
  have coupled : (u.coupling n).campaigns = u.campaigns := by
    simp [State.coupling, State.clearCounters, State.roundStart]
  exact congrArg (PerManifold.get · m) coupled

theorem State.campaign_enrolTaken (m : Manifold) : (s.enrolTaken i room length covering).campaign m = s.campaign m := by
  have spares := s.spares_enrolHeard (i := i) (room := room) (length := length) (covering := covering) m
  have told := (s.enrolTaken_quiet i room length covering).spares (s.steps_told_enrol i room length covering) m
  exact told.campaign.trans ((State.campaign_coupling _ _ m).trans spares.campaign)

end

/-! ### The checks of ENROL (R15) -/

section
variable {b : Byte}

theorem given_eq (b : Byte) : given b = if b.toNat = 255 then none else some b.toNat := rfl

theorem roomGiven_of_room {q : RoomIx} (number : b.toNat = q.val + 1) : roomGiven (given b) = some (some q) := by
  rw [given_eq, if_neg (by omega)]
  have named : roomNumber b.toNat = some q := by
    rw [roomNumber, dif_pos (by omega)]
    exact congrArg some (Fin.ext (by simp only [number, Nat.add_sub_cancel]))
  rw [roomGiven, named]
  rfl

theorem roomGiven_of_absent (absent : b.toNat = 255) : roomGiven (given b) = some none := by
  rw [given_eq, if_pos absent]
  rfl

theorem roomGiven_of_outside (out : b.toNat = 0 ∨ 16 < b.toNat ∧ b.toNat ≠ 255) : roomGiven (given b) = none := by
  rw [given_eq, if_neg (by omega), roomGiven, roomNumber, dif_neg (by omega)]
  rfl

theorem lengthOk_given : lengthOk (given b) = true ↔ b.toNat = 255 ∨ 5 ≤ b.toNat ∧ b.toNat ≤ 200 := by
  rw [given_eq]
  split_ifs with absent
  · exact iff_of_true rfl (.inl absent)
  · simp [lengthOk, within, absent]

theorem coveringOk_given : within 1 ((given b).getD 1) 3 = true ↔ b.toNat = 255 ∨ 1 ≤ b.toNat ∧ b.toNat ≤ 3 := by
  rw [given_eq]
  split_ifs with absent
  · exact iff_of_true rfl (.inl absent)
  · simp [within, absent]

end

section
variable {s : State} {i : LoopIx} {x : EnrolRequest} {room : Option RoomIx}

theorem State.enrolLoop_busy (occupied : (s.loop i).life ≠ .vacant) : s.enrolLoop x i = s.refuse .busy :=
  if_pos (decide_eq_true occupied)

theorem State.enrolLoop_range (vacant : (s.loop i).life = .vacant)
    (out : roomGiven x.room = none ∨ ¬(lengthOk x.length && within 1 (x.covering.getD 1) 3) = true) :
    s.enrolLoop x i = s.refuse .range := by
  refine (if_neg fun occupied => absurd vacant (of_decide_eq_true occupied)).trans ?_
  cases room : roomGiven x.room with
  | none => rfl
  | some room => exact if_neg (out.resolve_left (by simp [room]))

theorem State.enrolLoop_room (vacant : (s.loop i).life = .vacant) (given : roomGiven x.room = some room)
    (good : (lengthOk x.length && within 1 (x.covering.getD 1) 3) = true) : s.enrolLoop x i =
      if s.roomHasPlace room then ⟨.done, [], s.enrol i room x.length (x.covering.getD 1)⟩ else s.refuse .full := by
  refine (if_neg fun occupied => absurd vacant (of_decide_eq_true occupied)).trans ?_
  simp only [given]
  exact if_pos good

theorem State.Polled.exec_enrol {k : SlotIx} {y : Slot} (polled : s.Polled k y) (service : slotKind k = .service)
    (l r n c : Byte) : exec (.enrol [l, r, n, c]) s = .next
      (((s.heard k y).onLoop l.toNat fun i => (s.heard k y).enrolLoop ⟨l.toNat, given r, given n, given c⟩ i).finish k) := by
  have taken := polled.taken (allowed := serviceStation) (form := enrolForm) (p := [l, r, n, c])
    (y := ⟨l.toNat, given r, given n, given c⟩) (serviceStation_of service) rfl fun _ t x =>
      t.onLoop x.loop fun i => t.enrolLoop x i
  exact taken

end

/-! ### RETIRE (R18) -/

/-- RETIRE of a READY loop up to the start of the next move: the exit from READY, then the PARK (R18). -/
def State.retireTaken (s : State) (i : LoopIx) : State :=
  ((((s.leftReady i .retiring).coupled i).want i .park).examineOpening (manifoldOf i)).markLoop i true

/-- A loop's record once it is RETIRING, its want and its open counter aside. -/
def Loop.retired (l : Loop) : Loop := (l.setLife .retiring).setStroke 0 false

theorem Loop.kept_retired (l : Loop) : (l.setLife .retiring).Kept l.retired := rfl

theorem Loop.kept_setWant (l : Loop) (w : Option MoveKind) : l.Kept (l.setWant w) := rfl

section
variable (s : State) (i : LoopIx)

theorem State.retireReady_eq : s.retireReady i = (s.retireTaken i).serve := rfl

theorem State.mild_coupled : s.Mild (s.coupled i) :=
  (s.quiet_recompute.mild.trans (State.mild_coupling _ _)).trans (State.quiet_recount _ i).mild

theorem State.mild_retireTaken : (s.leftReady i .retiring).Mild (s.retireTaken i) :=
  (((State.mild_coupled _ i).trans (State.quiet_want _ i .park).mild).trans (State.mild_examineOpening _ _)).trans
    (State.quiet_markLoop _ i true).mild

theorem State.loop_coupled (unready : (s.loop i).life ≠ .ready) :
    ((s.loop i).setStroke 0 false).Counted ((s.coupled i).loop i) := by
  have counted := ((s.recompute.counted_coupling (manifoldOf i)).trans (State.counted_recount _ i)).loop i
  rwa [s.loop_recompute i unready] at counted

theorem State.loop_retireTaken :
    ((s.loop i).retired.setWant (some (supersede (s.loop i).want .park))).Counted ((s.retireTaken i).loop i) := by
  have left := s.loop_leftReady i .retiring
  have coupled := (s.leftReady i .retiring).loop_coupled i (by rw [left]; exact Lifecycle.noConfusion)
  rw [left] at coupled
  have wanted := ((s.leftReady i .retiring).coupled i).loop_want_counted i .park
  have want : (((s.leftReady i .retiring).coupled i).loop i).want = (s.loop i).want := coupled.want
  rw [want] at wanted
  unfold State.retireTaken
  rw [State.loop_markLoop]
  generalize (s.leftReady i .retiring).coupled i = u at coupled wanted
  exact ((coupled.map (f := fun l => l.setWant (some (supersede (s.loop i).want .park))) fun _ => rfl).trans wanted).trans
    ((State.counted_examineOpening _ _).loop i)

theorem State.driver_retireTaken : s.SameDriver (s.retireTaken i) := by
  have left : s.SameDriver (s.leftReady i .retiring) := s.driver_modLoop i id
  exact left.trans (s.mild_retireTaken i).driver

theorem State.touches_retireTaken : State.Touches i s (s.retireTaken i) := by
  have left : State.Touches i s (s.leftReady i .retiring) := s.touches_modLoop i _
  exact left.trans ((s.mild_retireTaken i).touches i)

theorem State.link_retireTaken : (s.retireTaken i).link = s.link := by
  rw [(s.mild_retireTaken i).link, State.leftReady, State.modLoop, State.setLoop_link]

theorem State.counters_retireTaken {j : LoopIx} (same : manifoldOf j = manifoldOf i) :
    ((s.retireTaken i).loop j).openCounter = 0 := by
  have fresh := (s.leftReady i .retiring).freshRound_coupled i
  unfold State.retireTaken
  generalize (s.leftReady i .retiring).coupled i = u at fresh
  exact (((u.steps_want i .park).trans (State.steps_examineOpening _ _)).trans (State.steps_markLoop _ i true)).counter j
    (fresh.counters j same)

theorem State.fresh_retireTaken (unopened : (s.campaign (manifoldOf i)).state ≠ .opening) :
    (s.retireTaken i).FreshRound (manifoldOf i) ((s.timer (manifoldOf i)).remaining ≠ none) ∧
      (s.retireTaken i).campaign (manifoldOf i) = s.campaign (manifoldOf i) := by
  have left := s.spares_leftReady i .retiring (manifoldOf i)
  have fresh := (s.leftReady i .retiring).freshRound_coupled i
  have campaign := ((s.leftReady i .retiring).campaign_coupled i (manifoldOf i)).trans left.campaign
  rw [left.round.timer] at fresh
  unfold State.retireTaken
  generalize (s.leftReady i .retiring).coupled i = u at fresh campaign
  have wanted := (u.quiet_want i .park).spares (u.steps_want i .park) (manifoldOf i)
  rw [State.examineOpening_of_other (by rw [wanted.campaign, campaign]; exact unopened)]
  have told := (State.mark_records (u.want i .park) .loop i.val true).spares (manifoldOf i)
  exact ⟨(fresh.of_spares wanted).of_spares told, (told.campaign.trans wanted.campaign).trans campaign⟩

theorem State.link_setLife (new : Lifecycle) : (s.setLife i new).link = s.link := by
  rw [State.setLife_eq, (State.mild_lifeChanged _ i _).link, State.leftReady, State.modLoop, State.setLoop_link]

variable {s i}

theorem State.retireLoop_vacant (vacant : (s.loop i).life = .vacant) : s.retireLoop i = s.refuse .nosuch := by
  simp only [State.retireLoop, vacant]

theorem State.retireLoop_retiring (retiring : (s.loop i).life = .retiring) : s.retireLoop i = s.refuse .busy := by
  simp only [State.retireLoop, retiring]

theorem State.retireLoop_ready (ready : (s.loop i).life = .ready) (present : (s.loop i).present = true) :
    s.retireLoop i = ⟨.deferred, [], (s.retireTaken i).serve⟩ := by
  simp only [State.retireLoop, ready, present]
  rfl

theorem State.retireLoop_homing (homing : (s.loop i).life = .homing) (present : (s.loop i).present = true) :
    s.retireLoop i = ⟨.deferred, [], (s.setLife i .retiring).serve⟩ := by
  simp only [State.retireLoop, homing, present]
  rfl

/-- A loop with no head, or ENROLLED, is VACANT at once (R18). -/
theorem State.retireLoop_bare (occupied : (s.loop i).life ≠ .vacant) (kept : (s.loop i).life ≠ .retiring)
    (bare : (s.loop i).present = false ∨ (s.loop i).life = .enrolled) :
    s.retireLoop i = ⟨.done, [], (s.becomeVacant i).serve⟩ := by
  unfold State.retireLoop
  split
  · exact absurd ‹_› occupied
  · exact absurd ‹_› kept
  · rfl
  · next homing => rw [bare.resolve_right (by rw [homing]; exact Lifecycle.noConfusion)]; rfl
  · next ready => rw [bare.resolve_right (by rw [ready]; exact Lifecycle.noConfusion)]; rfl

theorem State.Polled.exec_retire {k : SlotIx} {x : Slot} (polled : s.Polled k x) (service : slotKind k = .service)
    (b : Byte) : exec (.retire [b]) s =
      .next (((s.heard k x).onLoop b.toNat fun i => (s.heard k x).retireLoop i).finish k) :=
  polled.taken (allowed := serviceStation) (form := oneByte) (p := [b]) (serviceStation_of service) rfl fun _ t b =>
    t.onLoop b.toNat fun i => t.retireLoop i

/-- A RETIRING loop at the start of the next move: kept, or VACANT where its PARK had no step to drive (R19, R63). -/
theorem State.retiring_serve {l : Loop} (marks : s.MarkLaw) (kept : l.Kept (s.loop i)) :
    l.Kept (s.serve.loop i) ∨ (s.serve.loop i).life = .vacant :=
  ((State.onlyDrive_serve marks).loops i List.not_mem_nil).imp kept.trans fun retires => retires.2

end

/-! ### The pairs of an AMEND of LOOP (R21, 11.2) -/

/-- An amendment with one field, by its identifier, asked for (11.3). -/
def LoopAmend.ask (a : LoopAmend) (f v : Nat) : LoopAmend where
  room := if f = 1 then some (if v = 65535 then none else roomNumber v) else a.room
  length := if f = 2 then some (if v = 65535 then none else some v) else a.length
  covering := if f = 3 then some v else a.covering
  ceiling := if f = 4 then some v else a.ceiling
  owner := if f = 5 then some (if v = 0 then .auto else .service) else a.owner
  override := if f = 6 then some v else a.override
  clear := if f = 7 then
    some ⟨decide (v % 2 = 1), decide (v / 2 % 2 = 1), decide (v / 4 % 2 = 1), decide (v / 8 % 2 = 1)⟩ else a.clear

theorem LoopInRange.field {f v : Nat} (h : LoopInRange f v) : 1 ≤ f ∧ f ≤ 7 := by
  unfold LoopInRange at h
  omega

theorem roomNumber_of_range {v : Nat} (low : 1 ≤ v) (high : v ≤ 16) : ∃ r, roomNumber v = some r :=
  ⟨_, dif_pos ⟨low, high⟩⟩

theorem LoopAmend.add_mk (a : LoopAmend) (f v : Nat) (range : LoopInRange f v) : a.add ⟨f, v⟩ = some (a.ask f v) := by
  obtain ⟨low, high⟩ := range.field
  have least : Config.minCeiling = 80 := rfl
  have most : Config.fullStroke = 1000 := rfl
  unfold LoopInRange at range
  obtain rfl | rfl | rfl | rfl | bounded : f = 1 ∨ f = 2 ∨ f = 5 ∨ f = 7 ∨ f = 3 ∨ f = 4 ∨ f = 6 := by omega
  · by_cases absent : v = 65535
    · subst absent
      rfl
    · obtain ⟨r, number⟩ := roomNumber_of_range (v := v) (by omega) (by omega)
      simp [LoopAmend.add, LoopAmend.ask, absent, number]
  · by_cases absent : v = 65535
    · subst absent
      rfl
    · have fits : 5 ≤ v ∧ v ≤ 200 := by omega
      simp [LoopAmend.add, LoopAmend.ask, absent, fits]
  · have bit : v = 0 ∨ v = 1 := by omega
    rcases bit with rfl | rfl <;> rfl
  · have fits : 1 ≤ v ∧ v ≤ 15 := by omega
    simp [LoopAmend.add, LoopAmend.ask, latchesOf, fits]
  · rcases bounded with rfl | rfl | rfl
    all_goals
      simp only [LoopAmend.add]
      rw [if_pos (by omega)]
      rfl

theorem LoopAmend.add_of_range (a : LoopAmend) {p : Pair} (range : LoopInRange p.field p.value) :
    a.add p = some (a.ask p.field p.value) := a.add_mk p.field p.value range

theorem LoopAmend.add_mk_none (a : LoopAmend) (f v : Nat) (out : ¬LoopInRange f v) : a.add ⟨f, v⟩ = none := by
  have least : Config.minCeiling = 80 := rfl
  have most : Config.fullStroke = 1000 := rfl
  unfold LoopInRange at out
  by_cases known : 1 ≤ f ∧ f ≤ 7
  · obtain ⟨low, high⟩ := known
    obtain rfl | rfl | rfl | rfl | bounded : f = 1 ∨ f = 2 ∨ f = 5 ∨ f = 7 ∨ f = 3 ∨ f = 4 ∨ f = 6 := by omega
    · simp only [LoopAmend.add, roomNumber]
      rw [if_neg (by omega), dif_neg (by omega)]
    · simp only [LoopAmend.add]
      rw [if_neg (by omega), if_neg (by omega)]
    · simp only [LoopAmend.add]
      rw [if_neg (by omega), if_neg (by omega)]
    · simp only [LoopAmend.add, latchesOf]
      rw [if_neg (by omega)]
    · rcases bounded with rfl | rfl | rfl
      all_goals
        simp only [LoopAmend.add]
        rw [if_neg (by omega)]
  · obtain rfl | ⟨g, rfl⟩ : f = 0 ∨ ∃ g, f = g + 8 := by
      by_cases zero : f = 0
      · exact .inl zero
      · exact .inr ⟨f - 8, by omega⟩
    · rfl
    · rfl

theorem loopAmend_refused {ps : List Pair}
    (h : ¬(ps.map Pair.field).Nodup ∨ ∃ q ∈ ps, ¬LoopInRange q.field q.value) : loopAmend ps = none := by
  by_cases distinct : (ps.map Pair.field).Nodup
  · obtain ⟨q, mem, out⟩ := h.resolve_left (not_not.mpr distinct)
    refine (if_pos (decide_eq_true distinct)).trans ?_
    exact foldPairs_refused (f := LoopAmend.add) mem (fun a => a.add_mk_none q.field q.value out) _
  · exact if_neg (by simpa [distinctFields] using distinct)

/-- The pairs, no field named twice, ask for what each asks for. -/
theorem loopAmend_taken {ps : List Pair} (distinct : (ps.map Pair.field).Nodup)
    (range : ∀ q ∈ ps, LoopInRange q.field q.value) : loopAmend ps = some (loopAsked ps) := by
  obtain ⟨b, taken⟩ := foldPairs_isSome (f := LoopAmend.add)
    (fun p m a => ⟨a.ask p.field p.value, a.add_of_range (range p m)⟩) LoopAmend.empty
  have read {β : Type} (g : LoopAmend → Option β) (n : Nat) (v : Nat → β) (first : g .empty = none)
      (field : ∀ (a : LoopAmend) (f x : Nat), g (a.ask f x) = if f = n then some (v x) else g a) :
      g b = (pairValue ps n).map v := by
    rw [read_foldPairs distinct g n (fun x => some (v x)) (fun p m a c add => ?_) taken, first]
    · cases pairValue ps n <;> rfl
    · rw [a.add_of_range (range p m)] at add
      rw [← Option.some.inj add, field]
  have value (g : LoopAmend → Option Nat) (n : Nat) (first : g .empty = none)
      (field : ∀ (a : LoopAmend) (f x : Nat), g (a.ask f x) = if f = n then some x else g a) : g b = pairValue ps n := by
    rw [read g n id first field, Option.map_id, id]
  refine (if_pos (decide_eq_true distinct)).trans (Eq.trans taken (congrArg some ?_))
  rcases b with ⟨⟩
  simp only [loopAsked, LoopAmend.mk.injEq]
  exact ⟨read LoopAmend.room 1 _ rfl fun _ _ _ => rfl, read LoopAmend.length 2 _ rfl fun _ _ _ => rfl,
    value LoopAmend.covering 3 rfl fun _ _ _ => rfl, value LoopAmend.ceiling 4 rfl fun _ _ _ => rfl,
    read LoopAmend.owner 5 _ rfl fun _ _ _ => rfl, value LoopAmend.override 6 rfl fun _ _ _ => rfl,
    read LoopAmend.clear 7 _ rfl fun _ _ _ => rfl⟩

/-! ### AMEND of LOOP (R21 to R25) -/

/-- A loop's record once amended and, for a retry, its head to be homed afresh. -/
def Loop.amendedAs (l : Loop) (a : LoopAmend) (b : Balance) : Loop :=
  (if a.voids l then (a.apply l).rate 0 b else a.apply l).homedIf (a.retries l)

/-- What an AMEND makes of a loop's record, and no start of a move changes (R21 to R25). -/
structure Loop.Amends (l : Loop) (a : LoopAmend) (b : Balance) (x : Loop) : Prop where
  config : (a.apply l).SameConfig x
  faults : x.faults = l.faults.without (a.clear.getD .empty)
  present : x.present = l.present
  retried : a.retries l = true → x.life = .homing ∧ x.homed = false ∧ x.capacity = none ∧ x.stepPos = none
  kept : a.retries l = false →
    x.life = l.life ∧ x.homed = l.homed ∧ x.capacity = l.capacity ∧ x.stepPos = l.stepPos
  voided : a.voids l = true → x.inBand = 0 ∧ x.balance = b
  judged : a.voids l = false → x.inBand = l.inBand ∧ x.balance = l.balance

section
variable {l : Loop} {a : LoopAmend} {b : Balance}

theorem LoopAmend.life_apply (a : LoopAmend) (l : Loop) :
    (a.apply l).life = if a.retries l then .homing else l.life := rfl

theorem Loop.amends_amendedAs : l.Amends a b (l.amendedAs a b) := by
  have life := a.life_apply l
  unfold Loop.amendedAs
  cases retries : a.retries l <;> cases voids : a.voids l <;> rw [retries] at life
  · exact ⟨⟨rfl, rfl, rfl, rfl, rfl, rfl⟩, rfl, rfl, fun w => Bool.noConfusion (retries.symm.trans w),
      fun _ => ⟨life, rfl, rfl, rfl⟩, fun w => Bool.noConfusion (voids.symm.trans w), fun _ => ⟨rfl, rfl⟩⟩
  · exact ⟨⟨rfl, rfl, rfl, rfl, rfl, rfl⟩, rfl, rfl, fun w => Bool.noConfusion (retries.symm.trans w),
      fun _ => ⟨life, rfl, rfl, rfl⟩, fun _ => ⟨rfl, rfl⟩, fun w => Bool.noConfusion (voids.symm.trans w)⟩
  · exact ⟨⟨rfl, rfl, rfl, rfl, rfl, rfl⟩, rfl, rfl, fun _ => ⟨life, rfl, rfl, rfl⟩,
      fun w => Bool.noConfusion (retries.symm.trans w), fun w => Bool.noConfusion (voids.symm.trans w),
      fun _ => ⟨rfl, rfl⟩⟩
  · exact ⟨⟨rfl, rfl, rfl, rfl, rfl, rfl⟩, rfl, rfl, fun _ => ⟨life, rfl, rfl, rfl⟩,
      fun w => Bool.noConfusion (retries.symm.trans w), fun _ => ⟨rfl, rfl⟩,
      fun w => Bool.noConfusion (voids.symm.trans w)⟩

theorem Loop.Amends.stands {x y : Loop} (h : l.Amends a b x) (g : x.Stands y) : l.Amends a b y where
  config := h.config.trans g.config
  faults := g.faults.trans h.faults
  present := g.present.trans h.present
  retried w := by
    obtain ⟨life, homed, capacity, stepPos⟩ := h.retried w
    exact ⟨g.life.trans life, g.homed.trans homed, g.capacity.trans capacity, g.stepPos.trans stepPos⟩
  kept w := by
    obtain ⟨life, homed, capacity, stepPos⟩ := h.kept w
    exact ⟨g.life.trans life, g.homed.trans homed, g.capacity.trans capacity, g.stepPos.trans stepPos⟩
  voided w := by
    obtain ⟨inBand, balance⟩ := h.voided w
    exact ⟨g.inBand.trans inBand, g.balance.trans balance⟩
  judged w := by
    obtain ⟨inBand, balance⟩ := h.judged w
    exact ⟨g.inBand.trans inBand, g.balance.trans balance⟩

theorem Loop.stallCount_amendedAs : (l.amendedAs a b).stallCount = if a.namesHead then 0 else l.stallCount := by
  unfold Loop.amendedAs
  cases a.retries l <;> cases a.voids l <;> rfl

theorem Loop.work_amendedAs (retries : a.retries l = true) :
    (l.amendedAs a b).position = none ∧ (l.amendedAs a b).want = some .home := by
  rw [Loop.amendedAs, retries]
  exact ⟨rfl, rfl⟩

theorem Loop.life_amendedAs : (l.amendedAs a b).life = if a.retries l then .homing else l.life := by
  have life := a.life_apply l
  unfold Loop.amendedAs
  cases retries : a.retries l <;> cases a.voids l <;> rw [retries] at life <;> exact life

theorem Loop.Steady.stallCount {x y : Loop} (h : x.Steady y) : y.stallCount = x.stallCount := by
  have field := congrArg Loop.stallCount h
  exact field

end

/-- The balance status that an amended loop is voided to (R23, R24, R142). -/
def State.amendedBalance (s : State) (i : LoopIx) (a : LoopAmend) : Balance :=
  if a.owner.getD (s.loop i).owner = .service ∨ (s.channel (loopChannel i)).state = .fault then .excluded
  else .unmeasured

/-- An AMEND with its retry, before the Demand Unit hears of it. -/
def State.amendSet (s : State) (i : LoopIx) (a : LoopAmend) : State :=
  (s.amended i a).wantHomeIf (a.retries (s.loop i)) i

/-- An AMEND as the Demand Unit and the Trimming Engine take it. -/
def State.amendHeard (s : State) (i : LoopIx) (a : LoopAmend) : State :=
  (((s.amendSet i a).recomputeIf (a.drives (s.loop i))).couplingIf a.ceiling.isSome (manifoldOf i)).recountIf
    (a.voids (s.loop i)) i

/-- An AMEND up to the start of the next move. -/
def State.amendTaken (s : State) (i : LoopIx) (a : LoopAmend) : State :=
  ((s.amendHeard i a).markLoopIf (decide ((s.amended i a).loop i ≠ s.loop i)) i
    (decide (((s.amended i a).loop i).life ≠ (s.loop i).life) ||
      decide (((s.amended i a).loop i).balance ≠ (s.loop i).balance))).markRooms (s.loop i).room
        ((s.amended i a).loop i).room

theorem State.markRooms_records (s : State) (a b : Option RoomIx) : s.SameRecords (s.markRooms a b) := by
  unfold State.markRooms
  split_ifs
  · exact .refl s
  · refine State.forEach_rel State.SameRecords.refl (fun _ _ _ => State.SameRecords.trans) (fun t r => ?_) allRooms s
    split_ifs
    · exact State.mark_records t _ _ _
    · exact .refl t

section
variable (s : State) (i : LoopIx) (a : LoopAmend)

theorem State.amendLoop_eq : s.amendLoop i a = (s.amendTaken i a).serve := rfl

theorem State.amendTaken_records : (s.amendHeard i a).SameRecords (s.amendTaken i a) :=
  (State.records_markLoopIf _ _ i _).trans (State.markRooms_records _ _ _)

theorem State.amendTaken_quiet : (s.amendHeard i a).Quiet (s.amendTaken i a) :=
  (State.quiet_markLoopIf _ _ i _).trans (State.quiet_markRooms _ _ _)

theorem State.mild_amendHeard : (s.amendSet i a).Mild (s.amendHeard i a) :=
  ((State.quiet_recomputeIf _ _).mild.trans (State.mild_couplingIf _ _ _)).trans (State.quiet_recountIf _ _ i).mild

theorem State.mild_amendTaken : (s.amendSet i a).Mild (s.amendTaken i a) :=
  (s.mild_amendHeard i a).trans (s.amendTaken_quiet i a).mild

theorem State.touches_amended : State.Touches i s (s.amended i a) := by
  have applied : State.Touches i s (s.setLoop i (a.apply (s.loop i))) := ⟨s.onlyDrive_setLoop i _, rfl⟩
  unfold State.amended
  split_ifs
  · exact applied.trans (State.touches_voidBalance _ i)
  · exact applied

theorem State.touches_wantHomeIf (c : Bool) : State.Touches i s (s.wantHomeIf c i) := by
  cases c with
  | true => exact s.touches_wantHome i
  | false => exact .refl i s

theorem State.touches_amendTaken : State.Touches i s (s.amendTaken i a) :=
  ((s.touches_amended i a).trans (State.touches_wantHomeIf _ i _)).trans ((s.mild_amendTaken i a).touches i)

theorem State.driver_amended : s.SameDriver (s.amended i a) := by
  have applied : s.SameDriver (s.setLoop i (a.apply (s.loop i))) := s.driver_modLoop i (f := a.apply) id
  exact State.driver_ite (applied.trans (State.driver_voidBalance _ i)) applied

theorem State.driver_amendTaken : s.SameDriver (s.amendTaken i a) :=
  ((s.driver_amended i a).trans (State.driver_wantHomeIf _ _ i)).trans (s.mild_amendTaken i a).driver

theorem State.link_amendTaken : (s.amendTaken i a).link = s.link := by
  have amended : (s.amended i a).link = s.link := by
    unfold State.amended
    split_ifs
    · rw [(State.steps_voidBalance _ i).calm.link, State.setLoop_link]
    · rw [State.setLoop_link]
  rw [(s.mild_amendTaken i a).link, State.amendSet, (State.steps_wantHomeIf _ _ i).calm.link, amended]

theorem State.spares_amended (m : Manifold) : s.Spares m (s.amended i a) := by
  have applied : s.Spares m (s.modLoop i a.apply) := State.spares_modLoop s i (f := a.apply) (fun _ z => z) m
  have voided (u : State) : u.Spares m (u.voidBalance i) :=
    State.spares_modLoop u i (f := fun l => l.rate 0 (u.unmeasured i)) (fun _ z => z) m
  unfold State.amended
  split_ifs
  · exact applied.trans (voided _)
  · exact applied

/-- Until a ceiling pair couples the manifold, an AMEND leaves every campaign and round alone (R23, R134). -/
theorem State.spares_amendDriven (m : Manifold) :
    s.Spares m ((s.amendSet i a).recomputeIf (a.drives (s.loop i))) := by
  have wants (u : State) (c : Bool) : u.Spares m (u.wantHomeIf c i) := by
    cases c with
    | true => exact u.spares_wantHome i m
    | false => exact .refl u m
  exact ((s.spares_amended i a m).trans (wants _ _)).trans
    ((State.quiet_recomputeIf _ _).spares (State.steps_recomputeIf _ _) m)

theorem State.spares_recountIf (u : State) (c : Bool) (m : Manifold) : u.Spares m (u.recountIf c i) :=
  (u.quiet_recountIf c i).spares (u.steps_recountIf c i) m

variable {s i a}

theorem State.fresh_amendTaken (ceiling : a.ceiling ≠ none) :
    (s.amendTaken i a).FreshRound (manifoldOf i) ((s.timer (manifoldOf i)).remaining ≠ none) := by
  have driven := s.spares_amendDriven i a (manifoldOf i)
  have told := (s.amendTaken_records i a).spares (manifoldOf i)
  unfold State.amendHeard at told
  generalize (s.amendSet i a).recomputeIf (a.drives (s.loop i)) = u at driven told
  rw [Option.isSome_iff_ne_none.2 ceiling] at told
  have running : u.timerRunning (manifoldOf i) = true ↔ (s.timer (manifoldOf i)).remaining ≠ none := by
    rw [State.timerRunning, driven.round.timer, Option.isSome_iff_ne_none]
  have fresh := (u.freshRound_coupling (manifoldOf i)).congr running
  exact (fresh.of_spares (State.spares_recountIf i _ _ _)).of_spares told

theorem State.campaign_amendTaken (m : Manifold) : (s.amendTaken i a).campaign m = s.campaign m := by
  have coupled (u : State) (c : Bool) (n : Manifold) : (u.couplingIf c n).campaign m = u.campaign m := by
    cases c with
    | true => exact u.campaign_coupling n m
    | false => rfl
  have recounted (u : State) (c : Bool) : (u.recountIf c i).campaign m = u.campaign m :=
    (State.spares_recountIf i u c m).campaign
  rw [((s.amendTaken_records i a).spares m).campaign, State.amendHeard, recounted, coupled,
    (s.spares_amendDriven i a m).campaign]

/-- With no ceiling pair, no round is touched. -/
theorem State.spares_amendTaken (ceiling : a.ceiling = none) (m : Manifold) : s.Spares m (s.amendTaken i a) := by
  have driven := s.spares_amendDriven i a m
  have told := (s.amendTaken_records i a).spares m
  unfold State.amendHeard at told
  generalize (s.amendSet i a).recomputeIf (a.drives (s.loop i)) = u at driven told
  rw [ceiling] at told
  have recounted : u.Spares m (u.recountIf (a.voids (s.loop i)) i) := State.spares_recountIf i u _ m
  exact (driven.trans recounted).trans told

theorem State.commanded_amendTaken (drives : a.drives (s.loop i) = true) :
    (s.amendTaken i a).Commanded (s.amendTaken i a) := by
  have told := s.amendTaken_records i a
  unfold State.amendHeard at told
  rw [drives] at told
  have commanded : ((s.amendSet i a).recomputeIf true).Commanded ((s.amendSet i a).recomputeIf true) :=
    State.commanded_recompute _
  generalize (s.amendSet i a).recomputeIf true = u at told commanded
  exact (commanded.of_demand ((State.sameDemand_couplingIf u _ _).trans (State.sameDemand_recountIf _ _ i))).of_records told

theorem LoopAmend.drives_false {a : LoopAmend} {l : Loop} (silent : a.drives l = false) :
    a.voids l = false ∧ a.retries l = false ∧ a.ceiling = none := by
  simp only [LoopAmend.drives, Bool.or_eq_false_iff] at silent
  obtain ⟨⟨⟨voids, -⟩, -⟩, retries⟩ := silent
  refine ⟨voids, retries, ?_⟩
  simp only [LoopAmend.voids, Bool.or_eq_false_iff] at voids
  exact Option.isSome_eq_false_iff.1 voids.1 |> Option.isNone_iff_eq_none.1

/-- Where the Demand Unit does not hear of the AMEND, the strokes are as they were. -/
theorem State.strokes_amendTaken (silent : a.drives (s.loop i) = false) : s.SameStrokes (s.amendTaken i a) := by
  obtain ⟨voids, retries, ceiling⟩ := LoopAmend.drives_false silent
  have told := s.amendTaken_records i a
  have applied : s.SameStrokes (s.modLoop i a.apply) := s.sameStrokes_modLoop i (fun _ => rfl) fun _ => rfl
  unfold State.amendHeard State.amendSet State.amended at told
  rw [silent, voids, retries, ceiling] at told
  exact applied.trans told.strokes

theorem State.loop_amended (occupied : (s.loop i).life ≠ .vacant) : (s.amended i a).loop i =
    if a.voids (s.loop i) then (a.apply (s.loop i)).rate 0 (s.amendedBalance i a) else a.apply (s.loop i) := by
  unfold State.amended
  split_ifs
  · have set : (s.setLoop i (a.apply (s.loop i))).loop i = a.apply (s.loop i) := s.loop_modLoop_self i a.apply
    have channels : (s.setLoop i (a.apply (s.loop i))).channels = s.channels := State.setLoop_channels _ _ _
    generalize s.setLoop i (a.apply (s.loop i)) = u at set channels
    have still : (u.loop i).life ≠ .vacant := by
      rw [set, a.life_apply]
      split_ifs
      · exact Lifecycle.noConfusion
      · exact occupied
    rw [State.loop_voidBalance, State.unmeasured_eq still, set, State.channel_congr channels]
    rfl
  · exact s.loop_modLoop_self i a.apply

theorem State.loop_amendSet (occupied : (s.loop i).life ≠ .vacant) :
    ((s.loop i).amendedAs a (s.amendedBalance i a)).Counted ((s.amendSet i a).loop i) := by
  have homed := (s.amended i a).loop_wantHomeIf (a.retries (s.loop i)) i
  rw [State.loop_amended occupied] at homed
  exact homed

/-- The work of a loop whose head is retried is not touched by the recompute (R118). -/
theorem State.work_amendTaken (retries : a.retries (s.loop i) = true) (occupied : (s.loop i).life ≠ .vacant) :
    ((s.amendTaken i a).loop i).position = none ∧ ((s.amendTaken i a).loop i).want = some .home := by
  have set := State.loop_amendSet (a := a) occupied
  have unready : ((s.amendSet i a).loop i).life ≠ .ready := by
    rw [set.life, Loop.life_amendedAs, retries]
    exact Lifecycle.noConfusion
  have drives : a.drives (s.loop i) = true := by rw [LoopAmend.drives, retries, Bool.or_true]
  have counted := ((State.counted_couplingIf (s.amendSet i a).recompute a.ceiling.isSome (manifoldOf i)).trans
    (State.counted_ite (State.counted_recount _ i) (.refl _) : State.Counted _ (State.recountIf _
      (a.voids (s.loop i)) i))).loop i
  rw [State.loop_recompute _ i unready] at counted
  have told := (s.amendTaken_records i a).loop i
  unfold State.amendHeard at told
  rw [drives] at told
  obtain ⟨position, want⟩ := Loop.work_amendedAs (b := s.amendedBalance i a) retries
  rw [told]
  exact ⟨counted.position.trans (set.position.trans position), counted.want.trans (set.want.trans want)⟩

end

/-! ### The checks of AMEND of LOOP (R21) -/

section
variable {s : State} {i : LoopIx} {a : LoopAmend} {ps : List Pair}

theorem State.amendLoopBy_vacant (vacant : (s.loop i).life = .vacant) : s.amendLoopBy ps i = s.refuse .nosuch := by
  simp only [State.amendLoopBy, vacant]

theorem State.amendLoopBy_retiring (retiring : (s.loop i).life = .retiring) : s.amendLoopBy ps i = s.refuse .busy := by
  simp only [State.amendLoopBy, retiring]

theorem State.amendLoopBy_asked (occupied : (s.loop i).life ≠ .vacant) (kept : (s.loop i).life ≠ .retiring)
    (asked : loopAmend ps = some a) : s.amendLoopBy ps i =
      if s.roomRefused i a then s.refuse .full else ⟨.done, [], (s.amendTaken i a).serve⟩ := by
  unfold State.amendLoopBy
  split
  · exact absurd ‹_› occupied
  · exact absurd ‹_› kept
  · simp only [asked]
    rfl

theorem State.amendLoopBy_range (occupied : (s.loop i).life ≠ .vacant) (kept : (s.loop i).life ≠ .retiring)
    (bad : loopAmend ps = none) : s.amendLoopBy ps i = s.refuse .range := by
  unfold State.amendLoopBy
  split
  · exact absurd ‹_› occupied
  · exact absurd ‹_› kept
  · simp only [bad]

theorem State.roomRefused_iff : s.roomRefused i a = true ↔
    ∃ q : RoomIx, a.room = some (some q) ∧ (s.loop i).room ≠ some q ∧ 6 ≤ (s.roomLoops q).length := by
  have full (q : RoomIx) : s.roomHasPlace (some q) = false ↔ 6 ≤ (s.roomLoops q).length :=
    decide_eq_false_iff_not.trans Nat.not_lt
  unfold State.roomRefused
  constructor
  · intro refused
    split at refused
    · next r asked =>
        obtain ⟨other, place⟩ := Bool.and_eq_true_iff.1 refused
        cases r with
        | none => exact Bool.noConfusion place
        | some q =>
          exact ⟨q, asked, Ne.symm (of_decide_eq_true other), (full q).1 (by simpa using place)⟩
    · exact Bool.noConfusion refused
  · rintro ⟨q, asked, other, none⟩
    simp only [asked]
    rw [decide_eq_true (Ne.symm other), (full q).2 none]
    rfl

theorem State.Polled.exec_amendLoop {k : SlotIx} {x : Slot} (polled : s.Polled k x) (service : slotKind k = .service)
    {p : List Byte} {n : Nat} (form : amendForm loopFields p = some (n, ps)) :
    exec (.amendLoop p) s = .next (((s.heard k x).onLoop n fun i => (s.heard k x).amendLoopBy ps i).finish k) :=
  polled.taken (allowed := serviceStation) (serviceStation_of service) form fun _ t p =>
    t.onLoop p.1 fun i => t.amendLoopBy p.2 i

theorem LoopAmend.namesHead_iff (a : LoopAmend) : a.namesHead = true ↔
    (a.clear.getD .empty).headStall = true ∨ (a.clear.getD .empty).headFail = true := by
  unfold LoopAmend.namesHead
  cases a.clear with
  | none => simp [FaultSet.empty]
  | some f => simp

theorem LoopAmend.retries_iff (a : LoopAmend) (l : Loop) :
    a.retries l = true ↔ a.namesHead = true ∧ l.life = .enrolled ∧ l.present = true := by
  simp [LoopAmend.retries, and_assoc]

theorem LoopAmend.voids_iff (a : LoopAmend) (l : Loop) :
    a.voids l = true ↔ a.ceiling ≠ none ∨ a.owner.getD l.owner ≠ l.owner := by
  rw [LoopAmend.voids, Bool.or_eq_true, decide_eq_true_eq, Option.isSome_iff_ne_none]
  rfl

theorem LoopAmend.drives_iff (a : LoopAmend) (l : Loop) : a.drives l = true ↔
    a.ceiling ≠ none ∨ a.owner.getD l.owner ≠ l.owner ∨ a.override.getD l.override ≠ l.override ∨
      a.room.getD l.room ≠ l.room ∨ a.namesHead = true ∧ l.life = .enrolled ∧ l.present = true := by
  simp only [LoopAmend.drives, Bool.or_eq_true, a.voids_iff, a.retries_iff, decide_eq_true_eq, or_assoc]
  rfl

end

end Sys2Proof.Machine

open Sys2Proof Sys2Proof.Machine

/-- Settles O26: the checks of R26, then the ceilings laid out, one recompute and one coupling event. -/
theorem presetLaysOutTheCeilings : Obligations.PresetLaysOutTheCeilings := by
  intro s k x b polled marks service
  refine ⟨fun first second => ?_, fun m number => ⟨fun opened => ?_, fun idle vacant => ?_,
    fun idle occupied longest is => ?_⟩⟩
  · exact polled.serviceRejects service (exec_preset _ s) rfl (presetForm_of_other first second)
  all_goals have taken := polled.exec_preset service (presetForm_of_number number)
  · exact onlyAnswers_of_refused taken (State.presetManifold_busy opened)
  · refine onlyAnswers_of_refused taken ((State.presetManifold_idle (s := s.heard k x) idle).trans (if_neg fun any => ?_))
    obtain ⟨i, here, occupied⟩ := State.occupied_any_iff.1 any
    exact occupied (vacant i here)
  · rw [State.presetManifold_idle (s := s.heard k x) idle,
      if_pos (State.occupied_any_iff (s := s.heard k x).2 occupied)] at taken
    have law : (s.heard k x).MarkLaw := marks
    have heard := s.heard_records k x
    have laid : (s.mapLoops (s.presetRecord m longest)).SameRecords ((s.heard k x).layOut m) := by
      have relinked : (s.heard k x).mapLoops (s.presetRecord m longest) =
          (s.mapLoops (s.presetRecord m longest)).relink (s.heard k x).link := by
        rw [State.heard_relink]
        rfl
      rw [State.layOut_eq (s := s.heard k x) is]
      exact relinked ▸ State.relink_records _ _
    have mild := State.mild_presetTaken (s := s.heard k x) (m := m)
    have fresh := State.fresh_presetTaken (s := s.heard k x) (m := m)
    have campaign := State.campaign_presetTaken (s := s.heard k x) (m := m)
    have commanded := State.commanded_presetTaken (s := s.heard k x) (m := m)
    have law' := mild.markLaw (State.marks_layOut law)
    have taken : exec (.preset [b]) s = .next
        (Taken.finish ⟨.done, [], ((s.heard k x).presetTaken m).serve⟩ k) := taken
    have link : ((s.heard k x).presetTaken m).link = (s.heard k x).link := by
      rw [mild.link, State.layOut, State.mapLoops_link]
    generalize (s.heard k x).presetTaken m = u at mild fresh campaign commanded law' taken link
    have finish := Taken.finish_records ⟨.done, [], u.serve⟩ k
    refine ⟨_, taken, State.replies_finish ((State.link_serve u).trans link) .done [],
      ((laid.onlyDrive.trans mild.onlyDrive).trans (State.onlyDrive_serve law')).trans finish.onlyDrive, ?_,
      fun busy => ?_⟩
    · have spares := State.spares_serve law' (m := m) (by rw [campaign, (heard.spares m).campaign, idle])
      exact (fresh.of_spares spares).of_spares (finish.spares m)
    · have waits : u.DriverBusy := mild.busy (by
        unfold State.DriverBusy at busy ⊢
        rwa [State.layOut, State.mapLoops_drive, heard.drive])
      rw [waits.serve] at finish ⊢
      exact commanded.of_records finish

/-- Settles O23: the checks of R15, then the record of R16 and what the other blocks make of it. -/
theorem enrolSetsTheLoop : Obligations.EnrolSetsTheLoop := by
  intro s k x l r n c polled marks service
  have taken := polled.exec_enrol service l r n c
  refine ⟨fun out => onlyAnswers_of_refused taken (State.onLoop_outside _ out _), fun i number => ?_⟩
  rw [State.onLoop_of_loop _ number] at taken
  refine ⟨fun occupied => onlyAnswers_of_refused taken (State.enrolLoop_busy occupied), fun vacant =>
    ⟨fun out => onlyAnswers_of_refused taken (State.enrolLoop_range vacant ?_),
      fun _ room low length _ covering => ?_⟩⟩
  · by_cases badRoom : r.toNat = 0 ∨ 16 < r.toNat ∧ r.toNat ≠ 255
    · exact .inl (roomGiven_of_outside badRoom)
    · refine .inr fun good => ?_
      obtain ⟨lengthGood, coveringGood⟩ := Bool.and_eq_true_iff.1 good
      rw [lengthOk_given] at lengthGood
      rw [coveringOk_given] at coveringGood
      omega
  have good : (lengthOk (given n) && within 1 ((given c).getD 1) 3) = true := by
    rw [Bool.and_eq_true, lengthOk_given, coveringOk_given]
    omega
  obtain ⟨chosen, isGiven, named, absent⟩ : ∃ chosen, roomGiven (given r) = some chosen ∧
      (∀ q : RoomIx, chosen = some q ↔ r.toNat = q.val + 1) ∧ (r.toNat = 255 → chosen = none) := by
    by_cases absent : r.toNat = 255
    · exact ⟨none, roomGiven_of_absent absent, fun q => iff_of_false nofun (by omega), fun _ => rfl⟩
    · have number : r.toNat = (⟨r.toNat - 1, by omega⟩ : RoomIx).val + 1 := by
        show r.toNat = r.toNat - 1 + 1
        omega
      refine ⟨_, roomGiven_of_room number, fun q => ?_, fun w => absurd w absent⟩
      rw [Option.some_inj, Fin.ext_iff]
      show r.toNat - 1 = q.val ↔ _
      omega
  rw [State.enrolLoop_room (s := s.heard k x) vacant isGiven good] at taken
  refine ⟨fun ⟨q, is, full⟩ => onlyAnswers_of_refused taken (if_neg ?_), fun places => ?_⟩
  · rw [(named q).2 is]
    exact fun place => absurd (of_decide_eq_true place) (Nat.not_lt.2 full)
  have place : (s.heard k x).roomHasPlace chosen = true := by
    cases chosen with
    | none => rfl
    | some q => exact decide_eq_true (places q ((named q).1 rfl))
  rw [if_pos place, State.enrol_eq] at taken
  have heard := s.heard_records k x
  have law : (s.heard k x).MarkLaw := marks
  have record := State.loop_enrolTaken (s := s.heard k x) (i := i) (room := chosen) (length := given n)
    (covering := (given c).getD 1)
  have touches := (s.heard k x).touches_enrolTaken i chosen (given n) ((given c).getD 1)
  have driver := (s.heard k x).driver_enrolTaken i chosen (given n) ((given c).getD 1)
  have link := (s.heard k x).link_enrolTaken i chosen (given n) ((given c).getD 1)
  have commanded := (s.heard k x).commanded_enrolTaken i chosen (given n) ((given c).getD 1)
  have fresh := State.fresh_enrolTaken (s := s.heard k x) (i := i) (room := chosen) (length := given n)
    (covering := (given c).getD 1)
  have campaign := State.campaign_enrolTaken (s := s.heard k x) (i := i) (room := chosen) (length := given n)
    (covering := (given c).getD 1) (manifoldOf i)
  generalize named' : (s.heard k x).enrolTaken i chosen (given n) ((given c).getD 1) = u at *
  clear named'
  have law' : u.MarkLaw := driver.markLaw law
  have finish := Taken.finish_records ⟨.done, [], u.serve⟩ k
  have loops := finish.loop
  have enrols := Loop.enrols_enrolledAs.stands record.stands
  have stays : (u.loop i).life ≠ .retiring := by
    rw [enrols.life]
    split_ifs <;> exact Lifecycle.noConfusion
  have enrols := enrols.stands (State.kept_serve law' stays).stands
  rw [← loops i] at enrols
  have waits (busy : s.DriverBusy) : u.serve = u := State.DriverBusy.serve (driver.busy (heard.busy busy))
  refine ⟨_, taken, State.replies_finish ((State.link_serve u).trans link) .done [],
    (heard.onlyDrive.widen [i]).then heard.floorList
      ((touches.onlyDrive.trans (State.onlyDrive_serve law')).trans finish.onlyDrive), fun w => enrols.room.trans (absent w),
    fun q w => enrols.room.trans ((named q).2 w), enrols.length, ?_, enrols.owner, enrols.override, enrols.faults,
    enrols.inBand, enrols.balance, enrols.present, enrols.life, fun w => ?_, fun longest is w => ?_, fun j same => ?_,
    fun w => ?_, fun busy => ?_, fun fitted => ?_⟩
  · rw [enrols.covering, given_eq]
    split_ifs <;> rfl
  · rw [enrols.ceiling, given_eq, if_pos w]
    rfl
  · have reached : (s.heard k x).longest (manifoldOf i) = longest := State.IsLongest.eq (s := s.heard k x) is
    rw [enrols.ceiling, given_eq, if_neg w, State.longestWith, reached]
    rfl
  · rw [loops]
    exact u.steps_serve.counter j (fresh.counters j same)
  · have spares : u.Spares (manifoldOf i) u.serve := by
      rcases w with unopened | busy
      · exact State.spares_serve_unopened law' (by rw [campaign, (heard.spares _).campaign]; exact unopened)
      · rw [waits busy]
        exact .refl u _
    exact (fresh.of_spares spares).of_spares (finish.spares _)
  · rw [waits busy] at finish ⊢
    exact commanded.of_records finish
  · obtain ⟨homed, capacity, stepPos⟩ := enrols.unhomed fitted
    refine ⟨homed, capacity, stepPos, fun busy => ?_⟩
    have work := Loop.work_enrolledAs (l := s.loop i) (room := chosen) (length := given n)
      (covering := (given c).getD 1) (ceiling := ceilingByLength (given n) ((s.heard k x).longestWith i (given n)))
      (b := (s.heard k x).enrolledBalance i) fitted
    have same : (s.heard k x).loop i = s.loop i := heard.loop i
    rw [loops, waits busy, record.position, record.want, same]
    exact work

/-- Settles O24: one case for each row of R18's table. -/
theorem retireFollowsItsTable : Obligations.RetireFollowsItsTable := by
  intro s k x b polled marks service
  have taken := polled.exec_retire service b
  refine ⟨fun out => onlyAnswers_of_refused taken (State.onLoop_outside _ out _), fun i number => ?_⟩
  rw [State.onLoop_of_loop _ number] at taken
  have heard := s.heard_records k x
  have law : (s.heard k x).MarkLaw := marks
  have same : (s.heard k x).loop i = s.loop i := heard.loop i
  refine ⟨fun vacant => onlyAnswers_of_refused taken (State.retireLoop_vacant vacant),
    fun retiring => onlyAnswers_of_refused taken (State.retireLoop_retiring retiring), fun occupied kept bare => ?_,
    fun ready present => ?_, fun homing present => ?_⟩
  · rw [State.retireLoop_bare (s := s.heard k x) occupied kept bare] at taken
    have vacates := (s.heard k x).vacates_becomeVacant i
    have record := (s.heard k x).loop_becomeVacant i
    have unqueued := (s.heard k x).unqueued_becomeVacant i
    generalize (s.heard k x).becomeVacant i = u at taken vacates record unqueued
    have law' := vacates.markLaw law
    have finish := Taken.finish_records ⟨.done, [], u.serve⟩ k
    have started := State.onlyDrive_serve law'
    have gone := State.kept_serve law' (i := i) (by rw [vacates.life]; exact Lifecycle.noConfusion)
    refine ⟨_, taken, State.replies_finish ((State.link_serve u).trans vacates.link) .done [],
      (heard.onlyDrive.widen [i]).then heard.floorList ((vacates.onlyDrive.trans started).trans finish.onlyDrive),
      ?_, ?_, fun busy => ?_⟩
    · rw [finish.loop, gone.stands.life, vacates.life]
    · rw [finish.floorList]
      intro mem
      have left := started.members.subset mem
      rw [vacates.floorList] at left
      simp at left
    · rw [finish.drive, finish.loop, (vacates.busy (heard.busy busy)).serve, record, same]
      exact ⟨(State.queued_eq_false _ i).1 unqueued.queued, rfl⟩
  · rw [State.retireLoop_ready (s := s.heard k x) ready present] at taken
    have record := (s.heard k x).loop_retireTaken i
    have touches := (s.heard k x).touches_retireTaken i
    have driver := (s.heard k x).driver_retireTaken i
    have link := (s.heard k x).link_retireTaken i
    have counters (j : LoopIx) := (s.heard k x).counters_retireTaken i (j := j)
    have fresh := (s.heard k x).fresh_retireTaken i
    rw [(heard.spares _).campaign, same] at *
    generalize (s.heard k x).retireTaken i = u at taken record touches driver link counters fresh
    have law' := driver.markLaw law
    have finish := Taken.finish_records ⟨.deferred, [], u.serve⟩ k
    have kept : ((s.loop i).setLife .retiring).Kept (u.loop i) := (s.loop i).kept_retired.trans ((Loop.kept_setWant _ _).trans record.kept)
    refine ⟨_, taken, State.replies_finish ((State.link_serve u).trans link) .deferred [],
      (heard.onlyDrive.widen [i]).then heard.floorList
        ((touches.onlyDrive.trans (State.onlyDrive_serve law')).trans finish.onlyDrive), ?_, fun j place => ?_,
      fun unopened => ?_, fun busy => ?_⟩
    · rw [finish.loop]
      exact State.retiring_serve law' kept
    · rw [finish.loop]
      exact u.steps_serve.counter j (counters j place)
    · obtain ⟨fresh, campaign⟩ := fresh unopened
      have spares := State.spares_serve_unopened law' (m := manifoldOf i) (by rw [campaign]; exact unopened)
      exact (fresh.of_spares spares).of_spares (finish.spares _)
    · have waits : u.serve = u := State.DriverBusy.serve (driver.busy (heard.busy busy))
      rw [finish.loop, waits]
      refine ⟨kept, ?_, ?_, fun other => ?_⟩
      · rcases record with e | e <;> rw [e] <;> rfl
      · rcases record with e | e <;> rw [e] <;> rfl
      · have park : supersede (s.loop i).want .park = .park := by
          cases want : (s.loop i).want with
          | none => rfl
          | some w =>
            cases w with
            | home => exact absurd want other
            | park => rfl
            | position => rfl
            | exercise => rfl
        rw [record.want, park]
        rfl
  · rw [State.retireLoop_homing (s := s.heard k x) homing present] at taken
    have record := State.loop_setLife (s := s.heard k x) (i := i) (new := .retiring) Lifecycle.noConfusion
    have touches := (s.heard k x).touches_setLife i .retiring
    have driver := (s.heard k x).driver_setLife i .retiring
    have link := (s.heard k x).link_setLife i .retiring
    rw [same] at record
    generalize (s.heard k x).setLife i .retiring = u at taken record touches driver link
    have law' := driver.markLaw law
    have finish := Taken.finish_records ⟨.deferred, [], u.serve⟩ k
    have kept : ((s.loop i).setLife .retiring).Kept (u.loop i) := (s.loop i).kept_retired.trans record.kept
    refine ⟨_, taken, State.replies_finish ((State.link_serve u).trans link) .deferred [],
      (heard.onlyDrive.widen [i]).then heard.floorList
        ((touches.onlyDrive.trans (State.onlyDrive_serve law')).trans finish.onlyDrive), ?_, fun busy => ?_⟩
    · rw [finish.loop]
      exact State.retiring_serve law' kept
    · have waits : u.serve = u := State.DriverBusy.serve (driver.busy (heard.busy busy))
      rw [finish.loop, waits, record.life, record.want]
      exact ⟨rfl, rfl⟩

/-- Settles O25: the checks of R21, then the pairs applied together, one recompute and at most one coupling event. -/
theorem amendLoopAppliesItsPairsTogether : Obligations.AmendLoopAppliesItsPairsTogether := by
  intro s k x p n ps polled marks service form
  have taken := polled.exec_amendLoop service form
  refine ⟨fun out => onlyAnswers_of_refused taken (State.onLoop_outside _ out _), fun i number => ?_⟩
  rw [State.onLoop_of_loop _ number] at taken
  have heard := s.heard_records k x
  have law : (s.heard k x).MarkLaw := marks
  have same : (s.heard k x).loop i = s.loop i := heard.loop i
  refine ⟨fun vacant => onlyAnswers_of_refused taken (State.amendLoopBy_vacant vacant),
    fun retiring => onlyAnswers_of_refused taken (State.amendLoopBy_retiring retiring), fun occupied kept =>
    ⟨fun bad => onlyAnswers_of_refused taken (State.amendLoopBy_range occupied kept (loopAmend_refused bad)),
      fun distinct range a asked => ?_⟩⟩
  subst asked
  have occupied' : ((s.heard k x).loop i).life ≠ .vacant := by rwa [same]
  rw [State.amendLoopBy_asked (s := s.heard k x) occupied' (by rwa [same]) (loopAmend_taken distinct range)] at taken
  generalize loopAsked ps = a at taken
  refine ⟨fun full => onlyAnswers_of_refused taken (if_pos (State.roomRefused_iff (s := s.heard k x).2 full)),
    fun places => ?_⟩
  have place : ¬(s.heard k x).roomRefused i a = true := fun refused => by
    obtain ⟨q, room, other, full⟩ := State.roomRefused_iff.1 refused
    exact absurd (places q room other) (Nat.not_lt.2 full)
  rw [if_neg place] at taken
  have set := State.loop_amendSet (a := a) occupied'
  have steady := ((s.heard k x).mild_amendTaken i a).loops i
  have touches := (s.heard k x).touches_amendTaken i a
  have driver := (s.heard k x).driver_amendTaken i a
  have link := (s.heard k x).link_amendTaken i a
  have fresh := State.fresh_amendTaken (s := s.heard k x) (i := i) (a := a)
  have spared := State.spares_amendTaken (s := s.heard k x) (i := i) (a := a)
  have campaign := State.campaign_amendTaken (s := s.heard k x) (i := i) (a := a) (manifoldOf i)
  have commanded := State.commanded_amendTaken (s := s.heard k x) (i := i) (a := a)
  have strokes := State.strokes_amendTaken (s := s.heard k x) (i := i) (a := a)
  have work := State.work_amendTaken (s := s.heard k x) (i := i) (a := a)
  rw [same] at set commanded strokes work
  rw [(heard.spares _).campaign] at campaign
  have balance : (s.heard k x).amendedBalance i a = s.amendedBalance i a := rfl
  rw [balance] at set
  generalize taking : (s.heard k x).amendTaken i a = u at *
  generalize (s.heard k x).amendSet i a = v at set steady
  clear taking
  have law' : u.MarkLaw := driver.markLaw law
  have finish := Taken.finish_records ⟨.done, [], u.serve⟩ k
  have loops := finish.loop
  have amends := (Loop.amends_amendedAs.stands set.stands).stands steady.kept.stands
  have stays : (u.loop i).life ≠ .retiring := by
    rw [steady.kept.life, set.life, Loop.life_amendedAs]
    split_ifs
    · exact Lifecycle.noConfusion
    · exact kept
  have amends := amends.stands (State.kept_serve law' stays).stands
  rw [← loops i] at amends
  have waits (busy : s.DriverBusy) : u.serve = u := State.DriverBusy.serve (driver.busy (heard.busy busy))
  have spares (w : (s.campaign (manifoldOf i)).state ≠ .opening ∨ s.DriverBusy) :
      u.Spares (manifoldOf i) (Taken.finish ⟨.done, [], u.serve⟩ k) := by
    refine .trans ?_ (finish.spares _)
    rcases w with unopened | busy
    · exact State.spares_serve_unopened law' (by rw [campaign]; exact unopened)
    · rw [waits busy]
      exact .refl u _
  refine ⟨_, taken, State.replies_finish ((State.link_serve u).trans link) .done [],
    (heard.onlyDrive.widen [i]).then heard.floorList
      ((touches.onlyDrive.trans (State.onlyDrive_serve law')).trans finish.onlyDrive), amends.config.room,
    amends.config.length, amends.config.covering, amends.config.ceiling, amends.config.owner, amends.config.override,
    ?_, amends.present, fun names enrolled fitted => ?_, fun stays => ?_, fun busy => ?_, fun voids => ?_,
    fun unset owner => ?_, fun ceiling j place => ?_, fun w => ⟨fun ceiling => ?_, fun unset => ?_⟩,
    fun busy heard' is => ⟨fun hears => ?_, fun silent => ?_⟩⟩
  · rintro c rfl
    exact ⟨amends.faults, a.namesHead_iff⟩
  · have retries := (a.retries_iff (s.loop i)).2 ⟨names, enrolled, fitted⟩
    obtain ⟨life, homed, capacity, stepPos⟩ := amends.retried retries
    refine ⟨life, homed, capacity, stepPos, fun busy => ?_⟩
    rw [loops, waits busy]
    exact work retries occupied
  · refine amends.kept (Bool.eq_false_iff.2 fun retries => ?_)
    obtain ⟨names, enrolled, fitted⟩ := (a.retries_iff _).1 retries
    rcases stays with unnamed | other | bare
    · exact Bool.noConfusion (unnamed.symm.trans names)
    · exact other enrolled
    · exact Bool.noConfusion (bare.symm.trans fitted)
  · rw [loops, waits busy, steady.stallCount, set.stallCount, Loop.stallCount_amendedAs]
  · exact amends.voided ((a.voids_iff _).2 voids)
  · refine amends.judged (Bool.eq_false_iff.2 fun voids => ?_)
    rcases (a.voids_iff _).1 voids with ceiling | changed
    · exact ceiling unset
    · exact changed owner
  · rw [loops]
    exact u.steps_serve.counter j ((fresh ceiling).counters j place)
  · exact (fresh ceiling).of_spares (spares w)
  · exact (((heard.spares _).trans (spared unset _)).trans (spares w)).round
  · rw [is, decide_eq_true_eq, ← a.drives_iff] at hears
    rw [waits busy] at finish ⊢
    exact (commanded hears).of_records finish
  · have unheard : a.drives (s.loop i) = false := by
      rw [Bool.eq_false_iff, Ne, a.drives_iff, ← decide_eq_true_eq (p := _ ∨ _), ← is, silent]
      exact Bool.noConfusion
    have kept := finish.strokes
    rw [waits busy] at kept ⊢
    have kept := (heard.strokes.trans (strokes unheard)).trans kept
    exact ⟨kept.short, fun j => ⟨kept.stroke j, kept.held j⟩⟩
end

section
/-! PROOF. O47 and O48: the round expiry (R136 to R140, R27, R8) and the count of a campaign's round (R154, R155, R158). -/

namespace Sys2Proof.Machine

/-! ### What a round expiry leaves alone (R140) -/

/-- The records that no judgement, no claim and no count of a round changes. -/
structure State.Frames (s t : State) : Prop where
  rooms : t.rooms = s.rooms
  house : t.house = s.house
  channels : t.channels = s.channels
  link : t.link = s.link
  pending : t.pending = s.pending

theorem State.Frames.refl (s : State) : s.Frames s := ⟨rfl, rfl, rfl, rfl, rfl⟩

theorem State.Frames.trans {s t u : State} (h : s.Frames t) (g : t.Frames u) : s.Frames u :=
  ⟨g.rooms.trans h.rooms, g.house.trans h.house, g.channels.trans h.channels, g.link.trans h.link,
    g.pending.trans h.pending⟩

theorem State.Mild.frames {s t : State} (h : s.Mild t) : s.Frames t :=
  ⟨h.rooms, h.house, h.channels, h.link, h.pending⟩

theorem State.frames_mapLoops (s : State) (f : LoopIx → Loop → Loop) : s.Frames (s.mapLoops f) := by
  constructor <;> simp

theorem State.frames_modLoop (s : State) (i : LoopIx) (f : Loop → Loop) : s.Frames (s.modLoop i f) := by
  constructor <;> simp [State.modLoop]

theorem State.frames_ite {c : Prop} [Decidable c] {s t u : State} (h : s.Frames t) (g : s.Frames u) :
    s.Frames (if c then t else u) := by split <;> assumption

/-! ### Records that agree but for what the Demand Unit and the Drive Queue hold in them -/

theorem Loop.Steady.rate {l x : Loop} (h : l.Steady x) (n : Nat) (b : Balance) : (l.rate n b).Steady (x.rate n b) := by
  rcases l with ⟨⟩
  rcases x with ⟨⟩
  simp only [Loop.Steady, Loop.rate, Loop.mk.injEq] at *
  simp_all

theorem Loop.Steady.setCeiling {l x : Loop} (h : l.Steady x) (n : Nat) : (l.setCeiling n).Steady (x.setCeiling n) := by
  rcases l with ⟨⟩
  rcases x with ⟨⟩
  simp only [Loop.Steady, Loop.setCeiling, Loop.mk.injEq] at *
  simp_all

theorem Loop.Steady.setFaults {l x : Loop} (h : l.Steady x) (f : FaultSet) : (l.setFaults f).Steady (x.setFaults f) := by
  rcases l with ⟨⟩
  rcases x with ⟨⟩
  simp only [Loop.Steady, Loop.setFaults, Loop.mk.injEq] at *
  simp_all

theorem Loop.Counted.steady {l x : Loop} (h : l.Counted x) : l.Steady x := by
  rcases h with same | zeroed
  · exact same ▸ .refl l
  · exact zeroed ▸ rfl

/-! ### Verdicts (R136 to R139) -/

section
variable {s : State} {m : Manifold} {i : LoopIx}

/-- A loop that R136 admits is judged (R137). -/
theorem State.verdict_judged {dt : Int} (ready : (s.loop i).life = .ready) (auto : (s.loop i).owner = .auto)
    (ok : (s.channel (loopChannel i)).state = .ok) (measured : (s.loop i).deltaT = some dt)
    (counted : (s.timer m).settleBase * (s.loop i).covering ≤ (s.loop i).openCounter) : s.verdict m i =
      some (judge (s.loop i).ceiling (s.loop i).inBand dt (s.timer m).design (s.timer m).deadband) := by
  simp [State.verdict, State.sensorFault, ready, auto, ok, measured, counted]

/-- A loop that R136 leaves out of a round, with no cause of R142, has no verdict. -/
theorem State.verdict_none (unjudged : (s.loop i).life ≠ .ready ∨ (s.loop i).deltaT = none ∨
      (s.loop i).openCounter < (s.timer m).settleBase * (s.loop i).covering) (auto : (s.loop i).owner = .auto)
    (sound : (s.channel (loopChannel i)).state ≠ .fault) : s.verdict m i = none := by
  by_cases ready : (s.loop i).life = .ready
  · rcases unjudged.resolve_left (not_not.2 ready) with unmeasured | few
    · simp [State.verdict, State.sensorFault, ready, auto, sound, unmeasured]
    · cases measured : (s.loop i).deltaT <;>
        simp [State.verdict, State.sensorFault, ready, auto, sound, measured, Nat.not_le.2 few]
  · exact if_pos ready

/-- A claim is made for a READY AUTO loop alone (R138). -/
theorem State.ready_of_claimOn (claim : s.claimOn m i ≠ none) :
    (s.loop i).life = .ready ∧ (s.loop i).owner = .auto := by
  by_cases ready : (s.loop i).life = .ready
  · by_cases excluded : (s.loop i).owner = .service ∨ s.sensorFault i = true
    · refine absurd ?_ claim
      unfold State.claimOn State.verdict
      dsimp only
      rw [if_neg (not_not.2 ready), if_pos excluded]
      split_ifs <;> rfl
    · refine ⟨ready, ?_⟩
      cases owner : (s.loop i).owner with
      | auto => rfl
      | service => exact absurd (.inl owner) excluded
  · refine absurd ?_ claim
    unfold State.claimOn State.verdict
    dsimp only
    rw [if_pos ready]
    rfl

theorem State.claims_iff (place : manifoldOf i = m) : s.Claims m i ↔ s.claimOn m i ≠ none := by
  constructor
  · rintro ⟨-, ready, auto, ok, counted, dt, measured, claim⟩
    rwa [State.claimOn_ready m ready auto, if_pos ⟨ok, counted⟩, measured]
  · intro claim
    obtain ⟨ready, auto⟩ := State.ready_of_claimOn claim
    rw [State.claimOn_ready m ready auto] at claim
    split_ifs at claim with admitted
    · cases measured : (s.loop i).deltaT with
      | none =>
        rw [measured] at claim
        exact absurd rfl claim
      | some dt =>
        rw [measured] at claim
        exact ⟨place, ready, auto, admitted.1, admitted.2, dt, measured, claim⟩
    · exact absurd rfl claim

end

/-! ### Claims taken (R27, R140) -/

/-- A loop's record with a claim taken, where there is one. -/
def Loop.claimed (l : Loop) (c : Option Nat) : Loop := { l with ceiling := c.getD l.ceiling }

/-- A claim taken or dropped, where there is one. -/
def State.takeClaimOf (s : State) (c : Option Nat) (i : LoopIx) : State :=
  match c with
  | some n => s.takeClaim i n
  | none => s

section
variable (s : State) (i : LoopIx)

theorem State.takeClaim_of (ready : (s.loop i).life = .ready) (auto : (s.loop i).owner = .auto) (n : Nat) :
    s.takeClaim i n =
      (((s.modLoop i fun l => l.setCeiling n).recompute).recount i).markLoop i false := if_pos ⟨ready, auto⟩

theorem State.frames_takeClaim (n : Nat) : s.Frames (s.takeClaim i n) := by
  refine State.frames_ite ?_ (.refl s)
  exact (s.frames_modLoop i _).trans (((State.quiet_recompute _).trans (State.quiet_recount _ i)).trans
    (State.quiet_markLoop _ i false)).mild.frames

theorem State.spares_takeClaim (n : Nat) (m : Manifold) : s.Spares m (s.takeClaim i n) := by
  unfold State.takeClaim
  split_ifs
  · refine .trans (.trans (.trans (State.spares_modLoop s i (f := fun l => l.setCeiling n) (fun _ z => z) m)
      (State.spares_recompute _ m)) (State.spares_recount _ i m)) ?_
    exact (State.mark_records _ _ _ _).spares m
  · exact .refl s m

theorem State.steady_takeClaim (c : Option Nat) (admitted : c ≠ none → (s.loop i).life = .ready ∧ (s.loop i).owner = .auto)
    (j : LoopIx) : (if j = i then (s.loop j).claimed c else s.loop j).Steady ((s.takeClaimOf c i).loop j) := by
  cases c with
  | none => split_ifs <;> exact .refl _
  | some n =>
    obtain ⟨ready, auto⟩ := admitted (Option.some_ne_none n)
    have steady := (((State.quiet_recompute (s.modLoop i fun l => l.setCeiling n)).trans
      (State.quiet_recount _ i)).trans (State.quiet_markLoop _ i false)).loops j
    rw [State.loop_modLoop] at steady
    rw [State.takeClaimOf, s.takeClaim_of i ready auto]
    by_cases self : j = i
    · subst self
      rw [if_pos rfl] at steady ⊢
      exact steady
    · rw [if_neg (Ne.symm self)] at steady
      rwa [if_neg self]

theorem State.commanded_takeClaim (ready : (s.loop i).life = .ready) (auto : (s.loop i).owner = .auto) (n : Nat) :
    (s.takeClaim i n).Commanded (s.takeClaim i n) := by
  rw [s.takeClaim_of i ready auto]
  exact ((State.commanded_recompute _).of_demand (State.sameDemand_recount _ i)).of_records (State.mark_records _ _ _ _)

theorem State.Commanded.takeClaimOf {s : State} (commanded : s.Commanded s) (c : Option Nat) (i : LoopIx) :
    (s.takeClaimOf c i).Commanded (s.takeClaimOf c i) := by
  cases c with
  | none => exact commanded
  | some n =>
    by_cases taken : (s.loop i).life = .ready ∧ (s.loop i).owner = .auto
    · exact s.commanded_takeClaim i taken.1 taken.2 n
    · rw [State.takeClaimOf, State.takeClaim, if_neg taken]
      exact commanded

end

section
variable {claim : LoopIx → Option Nat}

/-- Claims taken one after another: each loop's ceiling is its claim's, where there is one. -/
theorem State.steady_takeAll {l : List LoopIx} (distinct : l.Nodup) (s : State)
    (admitted : ∀ i ∈ l, claim i ≠ none → (s.loop i).life = .ready ∧ (s.loop i).owner = .auto) (j : LoopIx) :
    (if j ∈ l then (s.loop j).claimed (claim j) else s.loop j).Steady
      ((s.forEach l fun t i => t.takeClaimOf (claim i) i).loop j) := by
  induction l generalizing s with
  | nil => exact .refl _
  | cons i l ih =>
    obtain ⟨once, distinct⟩ := List.nodup_cons.1 distinct
    have first := s.steady_takeClaim i (claim i) (admitted i List.mem_cons_self)
    have rest := ih distinct (s.takeClaimOf (claim i) i) fun k mem wants => by
      obtain ⟨ready, auto⟩ := admitted k (List.mem_cons_of_mem i mem) wants
      have same := first k
      rw [if_neg fun self : k = i => once (self ▸ mem)] at same
      exact ⟨same.kept.life.trans ready, same.config.owner.trans auto⟩
    have head := first j
    by_cases self : j = i
    · subst self
      rw [if_neg once] at rest
      rw [if_pos rfl] at head
      rw [if_pos List.mem_cons_self]
      exact head.trans rest
    · rw [if_neg self] at head
      have tail : j ∈ i :: l ↔ j ∈ l := by simp [self]
      simp only [tail]
      by_cases later : j ∈ l
      · rw [if_pos later] at rest ⊢
        refine .trans ?_ rest
        have claimed : ((s.loop j).claimed (claim j)).Steady (((s.takeClaimOf (claim i) i).loop j).claimed (claim j)) := by
          rw [Loop.claimed, Loop.claimed, head.config.ceiling]
          exact head.setCeiling _
        exact claimed
      · rw [if_neg later] at rest ⊢
        exact head.trans rest

theorem State.commanded_takeAll {l : List LoopIx} (s : State)
    (admitted : ∀ i ∈ l, claim i ≠ none → (s.loop i).life = .ready ∧ (s.loop i).owner = .auto)
    (some : ∃ i ∈ l, claim i ≠ none) : (s.forEach l fun t i => t.takeClaimOf (claim i) i).Commanded
      (s.forEach l fun t i => t.takeClaimOf (claim i) i) := by
  induction l generalizing s with
  | nil =>
    obtain ⟨_, mem, _⟩ := some
    cases mem
  | cons i l ih =>
    have later (t : State) (commanded : t.Commanded t) := State.forEach_keeps (P := fun t => t.Commanded t)
      (f := fun t i => t.takeClaimOf (claim i) i) (fun t i h => State.Commanded.takeClaimOf h (claim i) i) l t commanded
    show ((s.takeClaimOf (claim i) i).forEach l _).Commanded ((s.takeClaimOf (claim i) i).forEach l _)
    cases asked : claim i with
    | none =>
      obtain ⟨k, mem, wants⟩ := some
      refine ih s (fun k mem => admitted k (List.mem_cons_of_mem i mem)) ⟨k, ?_, wants⟩
      exact List.mem_of_ne_of_mem (fun self => wants (self ▸ asked)) mem
    | some n =>
      obtain ⟨ready, auto⟩ := admitted i List.mem_cons_self (by rw [asked]; exact Option.some_ne_none n)
      exact later _ (s.commanded_takeClaim i ready auto n)

theorem State.takeAll_none {l : List LoopIx} (s : State) (none : ∀ i ∈ l, claim i = none) :
    (s.forEach l fun t i => t.takeClaimOf (claim i) i) = s := by
  induction l generalizing s with
  | nil => rfl
  | cons i l ih =>
    show (s.takeClaimOf (claim i) i).forEach l _ = s
    rw [none i List.mem_cons_self]
    exact ih s fun k mem => none k (List.mem_cons_of_mem i mem)

end

/-! ### A round expiry up to the count of the campaign (R140) -/

/-- A loop's record once judged, with the claim that is taken for it and the latch that is cleared (R137, R27, R8). -/
def Loop.judgedBy (l : Loop) (v : Option Verdict) : Loop :=
  match v with
  | some v =>
    { l with
      inBand := v.inBand
      balance := v.balance
      ceiling := v.claim.getD l.ceiling
      faults := if v.balance.settled then l.faults.withChanged false else l.faults }
  | none => l

/-- A loop's record with the count and the status of a verdict, where there is one. -/
def Loop.rated (l : Loop) (v : Option Verdict) : Loop :=
  match v with
  | some v => l.rate v.inBand v.balance
  | none => l

/-- The record of a loop after its manifold's round expiry, or another's. -/
def State.roundRecord (s : State) (m : Manifold) (i : LoopIx) : Loop :=
  if manifoldOf i = m then (s.loop i).judgedBy (s.verdict m i) else s.loop i

/-- The judgements and the next round's start. -/
def State.roundBegun (s : State) (m : Manifold) : State := (s.judged m).roundStart m true

/-- The same with the claims taken. -/
def State.roundClaimed (s : State) (m : Manifold) : State := (s.roundBegun m).takeClaims s m

/-- A round expiry before the campaign is counted. -/
def State.roundTaken (s : State) (m : Manifold) : State :=
  ((s.roundClaimed m).couplingIf (s.claimTaken m) m).clearChanged s m

theorem State.RoundStarted.of_spares {s t : State} {m : Manifold} {runs : Prop} (h : s.RoundStarted m runs)
    (g : s.Spares m t) : t.RoundStarted m runs := by
  obtain ⟨running, frozen, settleBase, design, deadband, supplyRef⟩ := h
  constructor <;> simpa only [g.round.timer, g.round.supplyRef, g.house, State.channel_congr g.channels]

theorem State.RoundStarted.congr {t : State} {m : Manifold} {p q : Prop} (h : t.RoundStarted m p) (same : p ↔ q) :
    t.RoundStarted m q := propext same ▸ h

theorem Loop.openCounter_setFaults (l : Loop) (f : FaultSet) : (l.setFaults f).openCounter = l.openCounter := rfl

theorem State.couplingIf_false (s : State) (m : Manifold) : s.couplingIf false m = s := rfl

theorem State.roundOver_eq (s : State) (m : Manifold) :
    s.roundOver m = ((s.roundTaken m).countRound m).markVerdicts s m := rfl

theorem State.takeClaims_eq (s before : State) (m : Manifold) :
    s.takeClaims before m = s.forEach (loopsOf m) fun t i => t.takeClaimOf (before.claimOn m i) i := rfl

theorem nodup_loopsOf (m : Manifold) : (loopsOf m).Nodup := (List.nodup_finRange 24).filter _

section
variable (s : State) (m : Manifold)

theorem State.frames_takeClaims (before : State) : s.Frames (s.takeClaims before m) := by
  refine State.forEach_rel State.Frames.refl (fun _ _ _ => State.Frames.trans) (fun t i => ?_) (loopsOf m) s
  split
  · exact t.frames_takeClaim i _
  · exact .refl t

theorem State.storage_takeClaims (before : State) : (s.takeClaims before m).storage = s.storage := by
  refine State.forEach_keeps (P := fun t => t.storage = s.storage) (fun t i same => ?_) (loopsOf m) s rfl
  split
  · next n _ =>
      have kept : (t.takeClaim i n).storage = t.storage := by
        unfold State.takeClaim
        split_ifs
        · rw [State.markLoop_storage, (State.quiet_recount _ i).storage, (State.quiet_recompute _).storage]
          exact State.setLoop_storage _ _ _
        · rfl
      exact kept.trans same
  · exact same

theorem State.spares_takeClaims (before : State) (n : Manifold) : s.Spares n (s.takeClaims before m) := by
  refine State.forEach_rel (R := fun s t => State.Spares s n t) (fun t => .refl t n) (fun _ _ _ => State.Spares.trans)
    (fun t i => ?_) (loopsOf m) s
  split
  · exact t.spares_takeClaim i _ n
  · exact .refl t n

theorem State.clearChanged_records (before : State) : (s.mapLoops fun i l =>
    if manifoldOf i = m ∧ before.settles m i then l.setFaults (l.faults.withChanged false) else l).SameRecords
      (s.clearChanged before m) :=
  State.forEach_rel State.SameRecords.refl (fun _ _ _ => State.SameRecords.trans)
    (fun t i => t.records_markLoopIf _ i _) (loopsOf m) _

theorem State.link_clearChanged (before : State) : (s.clearChanged before m).link = s.link := by
  have told := State.steps_forEach (f := fun t i => t.markLoopIf
    (before.settles m i && (before.loop i).faults.headChanged) i false) (s.mapLoops fun i l =>
    if manifoldOf i = m ∧ before.settles m i then l.setFaults (l.faults.withChanged false) else l) (loopsOf m)
    fun t i => t.steps_markLoopIf _ i _
  exact told.calm.link.trans (State.mapLoops_link _ _)

theorem State.frames_clearChanged (before : State) : s.Frames (s.clearChanged before m) := by
  have told := s.clearChanged_records m before
  have set := s.frames_mapLoops fun i l =>
    if manifoldOf i = m ∧ before.settles m i then l.setFaults (l.faults.withChanged false) else l
  exact ⟨told.rooms.trans set.rooms, told.house.trans set.house, told.channels.trans set.channels,
    s.link_clearChanged m before, told.pending.trans set.pending⟩

theorem State.loop_clearChanged (before : State) (i : LoopIx) : (s.clearChanged before m).loop i =
    if manifoldOf i = m ∧ before.settles m i then (s.loop i).setFaults ((s.loop i).faults.withChanged false)
    else s.loop i := by
  rw [(s.clearChanged_records m before).loop, State.loop_mapLoops]

theorem State.spares_clearChanged (before : State) (n : Manifold) : s.Spares n (s.clearChanged before m) := by
  have told := s.clearChanged_records m before
  refine .trans ⟨?_, ⟨?_, ?_⟩, ?_, ?_, ?_, fun i zero => ?_⟩ (told.spares n)
  · exact congrArg (PerManifold.get · n) (State.mapLoops_campaigns _ _)
  · exact State.timer_congr (State.mapLoops_timers _ _) n
  · rw [State.mapLoops_supplyRefs]
  · rw [State.mapLoops_house]
  · rw [State.mapLoops_channels]
  · rw [State.mapLoops_drive]
  · rw [State.loop_mapLoops]
    split_ifs <;> exact zero

/-! #### The loops -/

theorem State.loop_roundBegun (i : LoopIx) : (s.roundBegun m).loop i =
    if manifoldOf i = m then (s.loop i).rated (s.verdict m i) else s.loop i := by
  rw [State.roundBegun, State.roundStart, State.loop_setSupplyRef, State.loop_setTimer, State.judged,
    State.loop_mapLoops]
  rfl

theorem State.judged_steps (i : LoopIx) : ((s.roundBegun m).loop i).life = (s.loop i).life ∧
    ((s.roundBegun m).loop i).owner = (s.loop i).owner ∧
      ((s.roundBegun m).loop i).openCounter = (s.loop i).openCounter := by
  rw [s.loop_roundBegun m i]
  split_ifs
  · cases s.verdict m i <;> exact ⟨rfl, rfl, rfl⟩
  · exact ⟨rfl, rfl, rfl⟩

theorem State.admitted_roundBegun (i : LoopIx) (claim : s.claimOn m i ≠ none) :
    ((s.roundBegun m).loop i).life = .ready ∧ ((s.roundBegun m).loop i).owner = .auto := by
  obtain ⟨life, owner, -⟩ := s.judged_steps m i
  obtain ⟨ready, auto⟩ := State.ready_of_claimOn claim
  exact ⟨life.trans ready, owner.trans auto⟩

/-- A judged record with its claim taken and its latch cleared. -/
theorem State.roundRecord_eq (i : LoopIx) (place : manifoldOf i = m) : s.roundRecord m i =
    if s.settles m i then (((s.roundBegun m).loop i).claimed (s.claimOn m i)).setFaults
      ((((s.roundBegun m).loop i).claimed (s.claimOn m i)).faults.withChanged false)
    else ((s.roundBegun m).loop i).claimed (s.claimOn m i) := by
  rw [s.loop_roundBegun m i, if_pos place, State.roundRecord, if_pos place]
  unfold State.settles State.claimOn
  cases s.verdict m i with
  | none => rfl
  | some v =>
    cases settled : v.balance.settled <;> simp only [Loop.judgedBy, settled] <;> rfl

theorem State.steady_roundTaken (i : LoopIx) : (s.roundRecord m i).Steady ((s.roundTaken m).loop i) := by
  have claimed := State.steady_takeAll (nodup_loopsOf m) (s.roundBegun m)
    (fun j _ claim => s.admitted_roundBegun m j claim) i
  rw [← State.takeClaims_eq] at claimed
  have coupled : ((s.roundClaimed m).loop i).Steady (((s.roundClaimed m).couplingIf (s.claimTaken m) m).loop i) :=
    (((s.roundClaimed m).counted_couplingIf (s.claimTaken m) m).loop i).steady
  have steady := claimed.trans coupled
  rw [State.roundTaken, State.loop_clearChanged]
  simp only [mem_loopsOf] at steady
  generalize ((s.roundClaimed m).couplingIf (s.claimTaken m) m).loop i = x at steady
  by_cases place : manifoldOf i = m
  · rw [if_pos place] at steady
    rw [s.roundRecord_eq m i place]
    by_cases settles : s.settles m i = true
    · rw [if_pos settles, if_pos ⟨place, settles⟩]
      have faults : x.faults = (((s.roundBegun m).loop i).claimed (s.claimOn m i)).faults := steady.kept.stands.faults
      rw [faults]
      exact steady.setFaults _
    · rw [if_neg settles, if_neg fun w => settles w.2]
      exact steady
  · rw [if_neg place] at steady
    rw [if_neg fun w => place w.1, State.roundRecord, if_neg place]
    rwa [s.loop_roundBegun m i, if_neg place] at steady

/-! #### The round and the campaign -/

theorem State.roundStarted_roundBegun : (s.roundBegun m).RoundStarted m True :=
  ((s.judged m).roundStarted_roundStart m true).congr (iff_of_true rfl trivial)

theorem State.campaigns_roundBegun : (s.roundBegun m).campaigns = s.campaigns := by
  simp [State.roundBegun, State.roundStart, State.judged]

theorem State.campaign_roundTaken (n : Manifold) : (s.roundTaken m).campaign n = s.campaign n := by
  have begun : (s.roundBegun m).campaign n = s.campaign n :=
    congrArg (PerManifold.get · n) (s.campaigns_roundBegun m)
  have claimed := ((s.roundBegun m).spares_takeClaims m s n).campaign
  have coupled : ((s.roundClaimed m).couplingIf (s.claimTaken m) m).campaign n = (s.roundClaimed m).campaign n := by
    cases s.claimTaken m with
    | true => exact State.campaign_coupling _ m n
    | false => rfl
  exact ((State.spares_clearChanged _ m s n).campaign.trans coupled).trans (claimed.trans begun)

theorem State.roundStarted_roundTaken : (s.roundTaken m).RoundStarted m True := by
  have begun := (s.roundStarted_roundBegun m).of_spares ((s.roundBegun m).spares_takeClaims m s m)
  refine State.RoundStarted.of_spares ?_ (State.spares_clearChanged _ m s m)
  cases s.claimTaken m with
  | true =>
    have running : (s.roundClaimed m).timerRunning m = true := by
      rw [State.timerRunning, State.roundClaimed, begun.running trivial]
      rfl
    exact ((s.roundClaimed m).freshRound_coupling m |>.congr (iff_of_true running trivial)).started
  | false => exact begun

/-- Claims that are taken are one coupling event (R134). -/
theorem State.counters_roundTaken (claims : ∃ i, s.Claims m i) {j : LoopIx} (place : manifoldOf j = m) :
    ((s.roundTaken m).loop j).openCounter = 0 := by
  refine (State.spares_clearChanged _ m s m).counters j ?_
  rw [(s.claimTaken_iff m).2 claims]
  exact ((s.roundClaimed m).freshRound_coupling m).counters j place

theorem State.commanded_roundTaken (claims : ∃ i, s.Claims m i) : (s.roundTaken m).Commanded (s.roundTaken m) := by
  obtain ⟨i, claims⟩ := claims
  have place : manifoldOf i = m := claims.1
  have claimed := State.commanded_takeAll (claim := s.claimOn m) (l := loopsOf m) (s.roundBegun m)
    (fun j _ claim => s.admitted_roundBegun m j claim) ⟨i, (mem_loopsOf m i).2 place, (State.claims_iff place).1 claims⟩
  rw [← State.takeClaims_eq] at claimed
  have cleared (t : State) : t.SameDemand (t.clearChanged s m) := by
    refine .trans (t.sameDemand_mapLoops fun j l => ?_) (t.clearChanged_records m s).sameDemand
    split_ifs
    · exact l.sameAim_setFaults _
    · exact .refl l
  exact claimed.of_demand ((State.sameDemand_couplingIf _ _ m).trans (cleared _))

/-- Where no claim is taken, the loops are judged and nothing more, and the drive is as it was. -/
theorem State.roundTaken_unclaimed (none : ∀ i, ¬s.Claims m i) : (s.roundTaken m).drive = s.drive ∧
    ∀ i, ((s.roundTaken m).loop i).openCounter = (s.loop i).openCounter := by
  have unasked (i : LoopIx) (mem : i ∈ loopsOf m) : s.claimOn m i = Option.none :=
    not_not.1 fun claim => none i ((State.claims_iff ((mem_loopsOf m i).1 mem)).2 claim)
  have untaken : s.claimTaken m = false :=
    Bool.eq_false_iff.2 fun taken => by
      obtain ⟨i, claims⟩ := (s.claimTaken_iff m).1 taken
      exact none i claims
  have same : s.roundTaken m = (s.roundBegun m).clearChanged s m := by
    rw [State.roundTaken, State.roundClaimed, State.takeClaims_eq, State.takeAll_none _ unasked, untaken,
      State.couplingIf_false]
  rw [same]
  refine ⟨?_, fun i => ?_⟩
  · rw [((s.roundBegun m).clearChanged_records m s).drive, State.mapLoops_drive]
    simp [State.roundBegun, State.roundStart, State.judged]
  · obtain ⟨-, -, counter⟩ := s.judged_steps m i
    rw [State.loop_clearChanged]
    split_ifs
    · rw [Loop.openCounter_setFaults, counter]
    · exact counter

theorem State.frames_roundTaken : s.Frames (s.roundTaken m) := by
  have judged : s.Frames (s.judged m) := by
    unfold State.judged
    exact s.frames_mapLoops _
  have begun : s.Frames (s.roundBegun m) := judged.trans ((s.judged m).mild_roundStart m true).frames
  have claimed := begun.trans ((s.roundBegun m).frames_takeClaims m s)
  exact (claimed.trans (State.mild_couplingIf _ _ m).frames).trans (State.frames_clearChanged _ m s)

theorem State.storage_roundTaken : (s.roundTaken m).storage = s.storage := by
  have begun : (s.roundBegun m).storage = s.storage := by simp [State.roundBegun, State.roundStart, State.judged]
  rw [State.roundTaken, (State.clearChanged_records _ m s).storage, State.mapLoops_storage,
    (State.mild_couplingIf _ _ m).storage, State.roundClaimed, State.storage_takeClaims, begun]

end

/-! ### A campaign's return to IDLE, and its automatic store (R149, R158) -/

section
variable {s : State} {m : Manifold} (rounds : (s.campaign m).state = .rounds) (o : LastOutcome) (r : Option AbandonReason)
include rounds

/-- A departure from ROUNDS has the round timer's conditions checked (R149, R130). -/
theorem State.returned : (s.returnToIdle m o r).campaign m = (s.campaign m).closed o r ∧
    s.Checked m (s.returnToIdle m o r) := by
  have closed := s.campaign_setCampaign m ((s.campaign m).closed o r)
  have left : (s.returnToIdle m o r) = ((s.setCampaign m ((s.campaign m).closed o r)).checkTimer m).recompute := by
    rw [State.returnToIdle, State.checkTimerIf, if_pos (decide_eq_true rounds)]
  have spares := ((s.setCampaign m ((s.campaign m).closed o r)).checkTimer m).spares_recompute m
  obtain ⟨freezes, released, runsOn, supplyRef⟩ :=
    State.checked_checkTimer (s.setCampaign m ((s.campaign m).closed o r)) m
  rw [left]
  refine ⟨spares.campaign.trans ?_, State.Checked.of_spares ⟨freezes, released, runsOn, supplyRef⟩ spares⟩
  exact (congrArg (PerManifold.get · m) (State.checkTimer_same _ m).1).trans closed

end

/-- A round that had just started, once its conditions have been checked (R130). -/
theorem State.RoundStarted.checked {s t : State} {m : Manifold} (h : s.RoundStarted m True) (g : s.Checked m t)
    (house : t.house = s.house) (channels : t.channels = s.channels) : t.RoundStarted m (t.RoundConditions m) := by
  obtain ⟨running, -, settleBase, design, deadband, supplyRef⟩ := h
  have runs : (s.timer m).remaining ≠ none := by
    rw [running trivial]
    exact Option.some_ne_none _
  have ref := g.supplyRef (.inl runs) (by rw [State.channel_congr channels])
  rw [← State.channel_congr channels] at supplyRef
  by_cases conditions : t.RoundConditions m
  · have timer := g.runsOn conditions runs
    rw [← timer, ← house] at running settleBase design deadband
    exact ⟨fun _ => running trivial, fun w => absurd conditions w, settleBase, design, deadband, ref.trans supplyRef⟩
  · have timer := g.freezes conditions
    constructor
    case running => exact fun w => absurd w conditions
    case frozen => rw [timer]; exact fun _ => rfl
    case supplyRef => exact ref.trans supplyRef
    all_goals rw [timer, house]
    · exact settleBase
    · exact design
    · exact deadband

theorem State.spares_automaticStore (s : State) (m : Manifold) : s.Spares m s.automaticStore := by
  have stored (x : Storage) : s.Spares m (s.setStorage x) := ⟨rfl, ⟨rfl, rfl⟩, rfl, rfl, rfl, fun _ => id⟩
  unfold State.automaticStore
  split_ifs
  · exact stored _
  · exact (stored _).trans (s.takeStore_records.spares m)

theorem State.sameDemand_automaticStore (s : State) : s.SameDemand s.automaticStore := by
  have stored (x : Storage) : s.SameDemand (s.setStorage x) := State.sameDemand_of_loops rfl rfl rfl rfl rfl rfl
  unfold State.automaticStore
  split_ifs
  · exact stored _
  · exact (stored _).trans s.takeStore_records.sameDemand

/-- An automatic store is taken at once, or remembered (R54). -/
theorem State.storage_automaticStore (s : State) : s.automaticStore.storage.running ≠ none ∧
    (s.storage.running ≠ none → s.automaticStore.storage.again = true) := by
  unfold State.automaticStore
  split_ifs with busy
  · exact ⟨Option.isSome_iff_ne_none.1 busy, fun _ => rfl⟩
  · exact ⟨Option.some_ne_none _, fun w => absurd (Option.isSome_iff_ne_none.2 w) busy⟩

/-! ### The count of a campaign's round (R155) -/

/-- Records but for storage and campaigns: what a count of a campaign leaves of them. -/
structure State.Counts (s t : State) : Prop where
  frames : s.Frames t
  loops : ∀ i, (s.loop i).Steady (t.loop i)
  counters : ∀ i, (s.loop i).openCounter = 0 → (t.loop i).openCounter = 0

theorem State.Counts.refl (s : State) : s.Counts s := ⟨.refl s, fun _ => .refl _, fun _ => id⟩

theorem State.Counts.trans {s t u : State} (h : s.Counts t) (g : t.Counts u) : s.Counts u :=
  ⟨h.frames.trans g.frames, fun i => (h.loops i).trans (g.loops i), fun i z => g.counters i (h.counters i z)⟩

theorem State.Mild.counts {s t : State} (h : s.Mild t) (steps : s.Steps t) : s.Counts t :=
  ⟨h.frames, h.loops, fun i => steps.counter i⟩

theorem State.counts_automaticStore (s : State) : s.Counts s.automaticStore := by
  have stored (x : Storage) : s.Counts (s.setStorage x) :=
    ⟨⟨rfl, rfl, rfl, rfl, rfl⟩, fun _ => .refl _, fun _ => id⟩
  unfold State.automaticStore
  split_ifs
  · exact stored _
  · exact (stored _).trans ((State.mild_markHouse _ true).counts (State.steps_markHouse _ true))

theorem State.counts_returnToIdle (s : State) (m : Manifold) (o : LastOutcome) (r : Option AbandonReason) :
    s.Counts (s.returnToIdle m o r) := by
  have mild := s.mild_returnToIdle m o r
  refine ⟨mild.frames, mild.loops, fun i zero => ?_⟩
  have steps := (State.steps_checkTimerIf (s.setCampaign m ((s.campaign m).closed o r))
    (decide ((s.campaign m).state = .rounds)) m).trans (State.steps_recompute _)
  exact steps.counter i zero

theorem State.counts_endCampaign (s : State) (m : Manifold) (o : LastOutcome) : s.Counts (s.endCampaign m o) :=
  ((s.counts_returnToIdle m o none).trans (State.counts_automaticStore _)).trans
    ((State.mild_markHouse _ true).counts (State.steps_markHouse _ true))

theorem State.counts_decideRound (s : State) (m : Manifold) : s.Counts (s.decideRound m) := by
  unfold State.decideRound
  split_ifs
  · exact (s.mild_abandon m .noLoops).counts (s.steps_abandon m .noLoops)
  · exact s.counts_endCampaign m .complete
  · exact s.counts_endCampaign m .partly
  · exact (s.mild_markHouse false).counts (s.steps_markHouse false)

/-- A campaign in ROUNDS with one more round done. -/
def State.countedRound (s : State) (m : Manifold) : State := s.setCampaign m (s.campaign m).counted

theorem State.countRound_rounds {s : State} {m : Manifold} (rounds : (s.campaign m).state = .rounds) :
    s.countRound m = (s.countedRound m).decideRound m := if_pos rounds

theorem State.countRound_other {s : State} {m : Manifold} (other : (s.campaign m).state ≠ .rounds) :
    s.countRound m = s := if_neg other

theorem State.counts_countRound (s : State) (m : Manifold) : s.Counts (s.countRound m) := by
  unfold State.countRound
  split_ifs
  · refine .trans ((s.mild_setCampaign m _).frames |> fun frames => ⟨frames, fun i => ?_, fun i => ?_⟩)
      (State.counts_decideRound _ m)
    · rw [State.loop_setCampaign]
      exact .refl _
    · rw [State.loop_setCampaign]
      exact id
  · exact .refl s

/-- A campaign that a count of its round has ended. -/
structure State.RoundEnds (s : State) (m : Manifold) (c : Campaign) (t : State) : Prop where
  campaign : t.campaign m = c
  checked : s.Checked m t
  commanded : t.Commanded t

section
variable {s : State} {m : Manifold} (rounds : (s.campaign m).state = .rounds)
include rounds

theorem State.roundEnds_abandon (r : AbandonReason) :
    s.RoundEnds m ⟨.idle, none, (s.campaign m).roundsDone, .abandoned, some r⟩ (s.abandon m r) := by
  have opened : (s.campaign m).state ≠ .idle := by
    rw [rounds]
    exact CampaignState.noConfusion
  have abandoned := s.abandoned_abandon m r
  exact ⟨abandoned.ended opened, abandoned.checked rounds, State.commanded_abandon opened r⟩

theorem State.roundEnds_endCampaign (o : LastOutcome) :
    s.RoundEnds m ⟨.idle, none, (s.campaign m).roundsDone, o, none⟩ (s.endCampaign m o) := by
  obtain ⟨campaign, checked⟩ := State.returned rounds o none
  have commanded : (s.returnToIdle m o none).Commanded (s.returnToIdle m o none) := State.commanded_recompute _
  unfold State.endCampaign
  generalize s.returnToIdle m o none = u at campaign checked commanded
  have told := State.mark_records u.automaticStore .house 0 true
  have spares := (u.spares_automaticStore m).trans (told.spares m)
  exact ⟨spares.campaign.trans campaign, checked.of_spares spares,
    (commanded.of_demand u.sameDemand_automaticStore).of_records told⟩

omit rounds in
theorem State.storage_endCampaign (s : State) (m : Manifold) (o : LastOutcome) :
    (s.endCampaign m o).storage.running ≠ none ∧
      (s.storage.running ≠ none → (s.endCampaign m o).storage.again = true) := by
  have stored := (s.returnToIdle m o none).storage_automaticStore
  rwa [(s.mild_returnToIdle m o none).storage] at stored

end

/-! #### The whole of a round expiry -/

section
variable (s : State) (m : Manifold)

theorem State.markVerdicts_records (before : State) : s.SameRecords (s.markVerdicts before m) := by
  refine State.forEach_rel State.SameRecords.refl (fun _ _ _ => State.SameRecords.trans) (fun t i => ?_) (loopsOf m) s
  split
  · exact t.records_markLoopIf _ i _
  · exact .refl t

theorem State.roundOver_records : ((s.roundTaken m).countRound m).SameRecords (s.roundOver m) :=
  State.markVerdicts_records _ m s

theorem State.steady_roundOver (i : LoopIx) : (s.roundRecord m i).Steady ((s.roundOver m).loop i) := by
  rw [(s.roundOver_records m).loop]
  exact (s.steady_roundTaken m i).trans (((s.roundTaken m).counts_countRound m).loops i)

theorem State.frames_roundOver : s.Frames (s.roundOver m) := by
  have counted := (s.frames_roundTaken m).trans ((s.roundTaken m).counts_countRound m).frames
  have told := s.roundOver_records m
  refine ⟨told.rooms.trans counted.rooms, told.house.trans counted.house, told.channels.trans counted.channels, ?_,
    told.pending.trans counted.pending⟩
  exact (State.steps_markVerdicts _ s m).calm.link.trans counted.link

theorem State.counters_roundOver (claims : ∃ i, s.Claims m i) {j : LoopIx} (place : manifoldOf j = m) :
    ((s.roundOver m).loop j).openCounter = 0 := by
  rw [(s.roundOver_records m).loop]
  exact ((s.roundTaken m).counts_countRound m).counters j (s.counters_roundTaken m claims place)

/-- What a count leaves of strokes that one recompute gives. -/
theorem State.Commanded.countRound {u : State} (commanded : u.Commanded u) :
    (u.countRound m).Commanded (u.countRound m) := by
  by_cases rounds : (u.campaign m).state = .rounds
  · rw [State.countRound_rounds rounds]
    have counted : (u.countedRound m).Commanded (u.countedRound m) :=
      commanded.of_demand (u.sameDemand_setCampaign (by rw [Campaign.counted]))
    have still : ((u.countedRound m).campaign m).state = .rounds := by
      rw [State.countedRound, State.campaign_setCampaign]
      exact rounds
    unfold State.decideRound
    split_ifs
    · exact (State.roundEnds_abandon still .noLoops).commanded
    · exact (State.roundEnds_endCampaign still .complete).commanded
    · exact (State.roundEnds_endCampaign still .partly).commanded
    · exact counted.of_records (State.mark_records _ _ _ _)
  · rw [State.countRound_other rounds]
    exact commanded

theorem State.commanded_roundOver (claims : ∃ i, s.Claims m i) : (s.roundOver m).Commanded (s.roundOver m) :=
  (State.Commanded.countRound m (s.commanded_roundTaken m claims)).of_records (s.roundOver_records m)

theorem State.roundOver_idle (idle : (s.campaign m).state = .idle) : (s.roundTaken m).SameRecords (s.roundOver m) := by
  have records := s.roundOver_records m
  rwa [State.countRound_other (by rw [s.campaign_roundTaken m m, idle]; exact CampaignState.noConfusion)] at records

end

theorem exec_roundExpiry_none {s : State} {m : Manifold} (p : s.powered = true) (quiet : s.ReportLaw)
    (counting : (s.timer m).remaining ≠ some 0) : exec (.roundExpiry m) s = .next s := by
  rw [exec_roundExpiry, execRoundExpiry, event_next p, if_neg counting, State.tellWatches_quiet quiet]

theorem exec_roundExpiry_over {s : State} {m : Manifold} (p : s.powered = true) (expired : (s.timer m).remaining = some 0) :
    exec (.roundExpiry m) s = .next (s.roundOver m).serve.tellWatches := by
  rw [exec_roundExpiry, execRoundExpiry, event_next p, if_pos expired]

/-! ### What a round expiry decides (R154, R155) -/

/-- A participant of a campaign at a round expiry (R154). -/
def State.Participates (s : State) (m : Manifold) (i : LoopIx) : Prop :=
  manifoldOf i = m ∧ (s.loop i).life = .ready ∧ (s.loop i).owner = .auto ∧ (s.channel (loopChannel i)).state = .ok

/-- An automatic store has been requested (R54). -/
def State.Stored (s t : State) : Prop :=
  t.storage.running ≠ none ∧ (s.storage.running ≠ none → t.storage.again = true)

theorem State.mem_participants (s : State) (m : Manifold) (i : LoopIx) :
    i ∈ s.participants m ↔ s.Participates m i := by
  simp [State.participants, State.Participates, mem_loopsOf]

theorem Loop.stands_judgedBy (l : Loop) (v : Option Verdict) : (l.judgedBy v).life = l.life ∧
    (l.judgedBy v).owner = l.owner := by
  cases v <;> exact ⟨rfl, rfl⟩

theorem State.stands_roundRecord (s : State) (m : Manifold) (i : LoopIx) :
    (s.roundRecord m i).life = (s.loop i).life ∧ (s.roundRecord m i).owner = (s.loop i).owner := by
  unfold State.roundRecord
  split_ifs
  · exact (s.loop i).stands_judgedBy _
  · exact ⟨rfl, rfl⟩

theorem State.RoundEnds.of_records {s t u : State} {m : Manifold} {c : Campaign} (h : s.RoundEnds m c t)
    (g : t.SameRecords u) : s.RoundEnds m c u :=
  ⟨(g.spares m).campaign.trans h.campaign, h.checked.of_spares (g.spares m), h.commanded.of_records g⟩

section
variable (s : State) (m : Manifold)

/-- The state in which the outcome of a round is decided. -/
def State.roundCounted : State := (s.roundTaken m).countedRound m

theorem State.loop_roundCounted (i : LoopIx) : (s.roundCounted m).loop i = (s.roundTaken m).loop i :=
  State.loop_setCampaign _ _ _ _

theorem State.participates_roundCounted (i : LoopIx) : (s.roundCounted m).Participates m i ↔ s.Participates m i := by
  have steady := s.steady_roundTaken m i
  obtain ⟨life, owner⟩ := s.stands_roundRecord m i
  have channels : (s.roundCounted m).channels = s.channels :=
    (State.setCampaign_channels _ _ _).trans (s.frames_roundTaken m).channels
  unfold State.Participates
  rw [s.loop_roundCounted m, steady.kept.life, steady.config.owner, life, owner, State.channel_congr channels]

theorem State.campaign_roundCounted : (s.roundCounted m).campaign m = (s.campaign m).counted := by
  rw [State.roundCounted, State.countedRound, State.campaign_setCampaign, s.campaign_roundTaken m m]

theorem State.roundStarted_roundCounted : (s.roundCounted m).RoundStarted m True := by
  obtain ⟨running, frozen, settleBase, design, deadband, supplyRef⟩ := s.roundStarted_roundTaken m
  exact ⟨running, frozen, settleBase, design, deadband, supplyRef⟩

theorem State.storage_roundCounted : (s.roundCounted m).storage = s.storage :=
  (State.setCampaign_storage _ _ _).trans (s.storage_roundTaken m)

theorem State.balance_roundOver (i : LoopIx) :
    ((s.roundOver m).loop i).balance = ((s.roundCounted m).loop i).balance := by
  rw [(s.roundOver_records m).loop, s.loop_roundCounted m]
  exact (((s.roundTaken m).counts_countRound m).loops i).kept.stands.balance

variable {s m}

/-- What a counted round comes to (R155, steps 2 to 5). -/
inductive State.RoundDecided (s : State) (m : Manifold) (t : State) : Prop
  | noLoops (nobody : ∀ i, ¬s.Participates m i) (storage : t.storage = s.storage)
      (ends : (s.roundCounted m).RoundEnds m ⟨.idle, none, (s.campaign m).roundsDone + 1, .abandoned, some .noLoops⟩ t)
  | complete (somebody : ∃ i, s.Participates m i) (settled : ∀ i, s.Participates m i → (t.loop i).balance.settled = true)
      (stored : s.Stored t)
      (ends : (s.roundCounted m).RoundEnds m ⟨.idle, none, (s.campaign m).roundsDone + 1, .complete, none⟩ t)
  | partly (unsettled : ∃ i, s.Participates m i ∧ (t.loop i).balance.settled = false)
      (limit : s.house.roundLimit ≤ (s.campaign m).roundsDone + 1) (stored : s.Stored t)
      (ends : (s.roundCounted m).RoundEnds m ⟨.idle, none, (s.campaign m).roundsDone + 1, .partly, none⟩ t)
  | next (unsettled : ∃ i, s.Participates m i ∧ (t.loop i).balance.settled = false)
      (more : (s.campaign m).roundsDone + 1 < s.house.roundLimit) (storage : t.storage = s.storage)
      (campaign : t.campaign m = (s.campaign m).counted) (started : t.RoundStarted m True)
      (drive : t.drive = (s.roundTaken m).drive) (loops : ∀ i, t.loop i = (s.roundTaken m).loop i)

section
variable {t : State} (h : s.RoundDecided m t)
include h

theorem State.RoundDecided.returned (idle : (t.campaign m).state = .idle) (rounds : (s.campaign m).state = .rounds) :
    ∃ c, (s.roundCounted m).RoundEnds m c t := by
  rcases h with ⟨-, -, ends⟩ | ⟨-, -, -, ends⟩ | ⟨-, -, -, ends⟩ | ⟨-, -, -, campaign, -⟩
  · exact ⟨_, ends⟩
  · exact ⟨_, ends⟩
  · exact ⟨_, ends⟩
  · exact CampaignState.noConfusion (idle.symm.trans ((congrArg Campaign.state campaign).trans rounds))

theorem State.RoundDecided.goesOn (rounds : (t.campaign m).state = .rounds) : t.RoundStarted m True := by
  have ended {c : Campaign} (idle : c.state = .idle) (campaign : t.campaign m = c) : False := by
    rw [campaign, idle] at rounds
    exact CampaignState.noConfusion rounds
  rcases h with ⟨-, -, ends⟩ | ⟨-, -, -, ends⟩ | ⟨-, -, -, ends⟩ | ⟨-, -, -, -, started, -⟩
  · exact (ended rfl ends.campaign).elim
  · exact (ended rfl ends.campaign).elim
  · exact (ended rfl ends.campaign).elim
  · exact started

theorem State.RoundDecided.nobody (nobody : ∀ i, ¬s.Participates m i) :
    t.campaign m = ⟨.idle, none, (s.campaign m).roundsDone + 1, .abandoned, some .noLoops⟩ ∧ t.storage = s.storage := by
  rcases h with ⟨-, storage, ends⟩ | ⟨⟨i, part⟩, -⟩ | ⟨⟨i, part, -⟩, -⟩ | ⟨⟨i, part, -⟩, -⟩
  · exact ⟨ends.campaign, storage⟩
  · exact absurd part (nobody i)
  · exact absurd part (nobody i)
  · exact absurd part (nobody i)

theorem State.RoundDecided.settled (somebody : ∃ i, s.Participates m i)
    (settled : ∀ i, s.Participates m i → (t.loop i).balance.settled = true) :
    t.campaign m = ⟨.idle, none, (s.campaign m).roundsDone + 1, .complete, none⟩ ∧ s.Stored t := by
  have never {i : LoopIx} (part : s.Participates m i) (bad : (t.loop i).balance.settled = false) : False := by
    rw [settled i part] at bad
    exact Bool.noConfusion bad
  rcases h with ⟨nobody, -⟩ | ⟨-, -, stored, ends⟩ | ⟨⟨i, part, bad⟩, -⟩ | ⟨⟨i, part, bad⟩, -⟩
  · obtain ⟨i, part⟩ := somebody
    exact absurd part (nobody i)
  · exact ⟨ends.campaign, stored⟩
  · exact (never part bad).elim
  · exact (never part bad).elim

/-- With a participant that is not settled, the round limit alone decides (R155). -/
theorem State.RoundDecided.unsettled {i : LoopIx} (part : s.Participates m i) (bad : (t.loop i).balance.settled = false) :
    (s.house.roundLimit ≤ (s.campaign m).roundsDone + 1 →
      t.campaign m = ⟨.idle, none, (s.campaign m).roundsDone + 1, .partly, none⟩ ∧ s.Stored t) ∧
    ((s.campaign m).roundsDone + 1 < s.house.roundLimit →
      t.campaign m = (s.campaign m).counted ∧ t.storage = s.storage) := by
  rcases h with ⟨nobody, -⟩ | ⟨-, settled, -⟩ | ⟨-, limit, stored, ends⟩ | ⟨-, more, storage, campaign, -⟩
  · exact absurd part (nobody i)
  · rw [settled i part] at bad
    exact Bool.noConfusion bad
  · exact ⟨fun _ => ⟨ends.campaign, stored⟩, fun more => absurd more (Nat.not_lt.2 limit)⟩
  · exact ⟨fun limit => absurd more (Nat.not_lt.2 limit), fun _ => ⟨campaign, storage⟩⟩

end

theorem State.roundOver_decided (rounds : (s.campaign m).state = .rounds) : s.RoundDecided m (s.roundOver m) := by
  have records := s.roundOver_records m
  rw [State.countRound_rounds (by rw [s.campaign_roundTaken m m, rounds])] at records
  have still : ((s.roundCounted m).campaign m).state = .rounds := by
    rw [s.campaign_roundCounted m]
    exact rounds
  have done : ((s.roundCounted m).campaign m).roundsDone = (s.campaign m).roundsDone + 1 := by
    rw [s.campaign_roundCounted m]
    rfl
  have limit : (s.roundCounted m).house.roundLimit = s.house.roundLimit := by
    rw [show (s.roundCounted m).house = s.house from
      (State.setCampaign_house _ _ _).trans (s.frames_roundTaken m).house]
  have storage := s.storage_roundCounted m
  have balance := s.balance_roundOver m
  have started := s.roundStarted_roundCounted m
  have campaign := s.campaign_roundCounted m
  have same : (s.roundTaken m).countedRound m = s.roundCounted m := rfl
  have participates (i : LoopIx) : i ∈ (s.roundCounted m).participants m ↔ s.Participates m i :=
    ((s.roundCounted m).mem_participants m i).trans (s.participates_roundCounted m i)
  rw [same] at records
  unfold State.decideRound at records
  have all : ((s.roundCounted m).participants m).all (fun i => ((s.roundCounted m).loop i).balance.settled) = true ↔
      ∀ i, s.Participates m i → ((s.roundOver m).loop i).balance.settled = true := by
    simp only [List.all_eq_true, participates, balance]
  split_ifs at records with empty settled ended
  · have nobody : (s.roundCounted m).participants m = [] := List.isEmpty_iff.1 empty
    have ends := (State.roundEnds_abandon still .noLoops).of_records records
    rw [done] at ends
    refine .noLoops (fun i part => ?_) ?_ ends
    · have mem := (participates i).2 part
      rw [nobody] at mem
      cases mem
    · exact (records.storage.trans ((s.roundCounted m).mild_abandon m .noLoops).storage).trans storage
  · have ends := (State.roundEnds_endCampaign still .complete).of_records records
    rw [done] at ends
    obtain ⟨i, mem⟩ := List.exists_mem_of_ne_nil _ fun none => empty (List.isEmpty_iff.2 none)
    refine .complete ⟨i, (participates i).1 mem⟩ (all.1 settled) ?_ ends
    have stored := State.storage_endCampaign (s.roundCounted m) m .complete
    rwa [← records.storage, storage] at stored
  · have ends := (State.roundEnds_endCampaign still .partly).of_records records
    rw [done] at ends
    rw [limit, done] at ended
    have stored := State.storage_endCampaign (s.roundCounted m) m .partly
    rw [← records.storage, storage] at stored
    rw [all] at settled
    push Not at settled
    obtain ⟨i, part, bad⟩ := settled
    exact .partly ⟨i, part, Bool.not_eq_true _ ▸ bad⟩ ended stored ends
  · rw [limit, done] at ended
    rw [all] at settled
    push Not at settled
    obtain ⟨i, part, bad⟩ := settled
    have told := (State.mark_records (s.roundCounted m) .house 0 false).trans records
    exact .next ⟨i, part, Bool.not_eq_true _ ▸ bad⟩ (Nat.lt_of_not_le ended) (told.storage.trans storage)
      ((told.spares m).campaign.trans campaign) (started.of_spares (told.spares m))
      (told.drive.trans (State.setCampaign_drive _ _ _)) fun i => (told.loop i).trans (s.loop_roundCounted m i)

/-- Where no claim is taken and the campaign goes on, the open counters run on and the drive is as it was (R140). -/
theorem State.roundOver_unclaimed (none : ∀ i, ¬s.Claims m i)
    (still : ((s.roundOver m).campaign m).state = (s.campaign m).state) : (s.roundOver m).drive = s.drive ∧
      ∀ i, ((s.roundOver m).loop i).openCounter = (s.loop i).openCounter := by
  obtain ⟨drive, counter⟩ := s.roundTaken_unclaimed m none
  suffices same : (s.roundOver m).drive = (s.roundTaken m).drive ∧
      ∀ i, (s.roundOver m).loop i = (s.roundTaken m).loop i from
    ⟨same.1.trans drive, fun i => by rw [same.2, counter]⟩
  by_cases rounds : (s.campaign m).state = .rounds
  · have ended {c : Campaign} (idle : c.state = .idle) (campaign : (s.roundOver m).campaign m = c) : False := by
      rw [campaign, idle, rounds] at still
      exact CampaignState.noConfusion still
    rcases State.roundOver_decided rounds with ⟨-, -, ends⟩ | ⟨-, -, -, ends⟩ | ⟨-, -, -, ends⟩ | ⟨-, -, -, -, -, drive, loops⟩
    · exact (ended rfl ends.campaign).elim
    · exact (ended rfl ends.campaign).elim
    · exact (ended rfl ends.campaign).elim
    · exact ⟨drive, loops⟩
  · have records := s.roundOver_records m
    rw [State.countRound_other (by rw [s.campaign_roundTaken m m]; exact rounds)] at records
    exact ⟨records.drive, records.loop⟩

end

end Sys2Proof.Machine

open Sys2Proof Sys2Proof.Machine

/-- Settles O47: the judgements, the claims and the next round, then the start of a move. -/
theorem roundExpiryJudgesTheManifold : Obligations.RoundExpiryJudgesTheManifold := by
  intro s m powered quiet marks
  refine ⟨exec_roundExpiry_none powered quiet, fun expired => ?_⟩
  have step := exec_roundExpiry_over powered expired
  have steady := s.steady_roundOver m
  have driver := s.driver_roundOver m
  have frames := s.frames_roundOver m
  have counters := s.counters_roundOver m
  have commanded := s.commanded_roundOver m
  have idleRecords := s.roundOver_idle m
  have law := driver.markLaw marks
  have started := State.onlyDrive_serve law
  have told := (s.roundOver m).serve.tellWatches_records
  have kept (i : LoopIx) (stays : (s.loop i).life ≠ .retiring) :
      (s.roundRecord m i).Kept ((s.roundOver m).serve.tellWatches.loop i) := by
    have life := (steady i).kept.life.trans (s.stands_roundRecord m i).1
    rw [told.loop]
    exact (steady i).kept.trans (State.kept_serve law (by rw [life]; exact stays))
  refine ⟨_, step, State.linkKept_told ((State.link_serve _).trans frames.link),
    told.rooms.trans (started.rooms.trans frames.rooms), told.house.trans (started.house.trans frames.house),
    told.channels.trans (started.channels.trans frames.channels), ?_,
    told.pending.trans (started.pending.trans frames.pending),
    fun i place ready auto ok dt measured counted => ?_, fun i place stays unjudged auto sound => ?_,
    fun i other => ?_, fun claims => ⟨fun i place => ?_, fun busy => ?_⟩, fun none start still i => ?_, fun idle => ?_⟩
  · rw [told.drive, started.driveState, driver.state]
  · have stands := (kept i (by rw [ready]; exact Lifecycle.noConfusion)).stands
    rw [State.roundRecord, if_pos place, State.verdict_judged ready auto ok measured counted] at stands
    refine ⟨stands.inBand, stands.balance, stands.config.ceiling, ?_⟩
    rw [stands.faults, stands.balance]
    rfl
  · have kept := kept i stays
    rwa [State.roundRecord, if_pos place, State.verdict_none unjudged auto sound] at kept
  · have record : s.roundRecord m i = s.loop i := if_neg other
    have steady := steady i
    rw [record] at steady
    rw [told.loop]
    refine (started.loops i List.not_mem_nil).imp steady.kept.trans fun ⟨retiring, vacant⟩ => ⟨?_, vacant⟩
    rwa [steady.kept.life] at retiring
  · rw [told.loop]
    exact (State.steps_serve _).counter i (counters claims place)
  · have waits : (s.roundOver m).serve = s.roundOver m := State.DriverBusy.serve (driver.busy busy)
    rw [waits] at told ⊢
    exact (commanded claims).of_records told
  · have passes := State.spares_serve_unopened law (m := m)
    have same : ((s.roundOver m).campaign m).state = (s.campaign m).state := by
      by_cases opening : ((s.roundOver m).campaign m).state = .opening
      · by_contra other
        by_cases rounds : (s.campaign m).state = .rounds
        · rcases State.roundOver_decided rounds with ⟨-, -, ends⟩ | ⟨-, -, -, ends⟩ | ⟨-, -, -, ends⟩ | ⟨-, -, -, campaign, -⟩
          · exact CampaignState.noConfusion ((congrArg Campaign.state ends.campaign).symm.trans opening)
          · exact CampaignState.noConfusion ((congrArg Campaign.state ends.campaign).symm.trans opening)
          · exact CampaignState.noConfusion ((congrArg Campaign.state ends.campaign).symm.trans opening)
          · exact CampaignState.noConfusion (rounds.symm.trans ((congrArg Campaign.state campaign).symm.trans opening))
        · have records := s.roundOver_records m
          rw [State.countRound_other (by rw [s.campaign_roundTaken m m]; exact rounds)] at records
          exact other (congrArg Campaign.state ((records.spares m).campaign.trans (s.campaign_roundTaken m m)))
      · rw [← (passes opening).campaign, ← (told.spares m).campaign, still]
    obtain ⟨drive, counter⟩ := State.roundOver_unclaimed none same
    have waits : (s.roundOver m).serve = s.roundOver m :=
      State.serve_of_startLaw (State.startLaw_congr (s := s) drive start)
    rw [told.loop, waits]
    exact counter i
  · have records := idleRecords idle
    have campaign := (records.spares m).campaign.trans (s.campaign_roundTaken m m)
    have spares := State.spares_serve law (m := m) (by rw [campaign, idle])
    refine ⟨((told.spares m).campaign.trans spares.campaign).trans campaign, ?_, ?_⟩
    · exact told.storage.trans (started.storage.trans (records.storage.trans (s.storage_roundTaken m)))
    · exact (((s.roundStarted_roundTaken m).of_spares (records.spares m)).of_spares spares).of_spares (told.spares m)

/-- Settles O48, one case for each outcome of R155. -/
theorem roundExpiryDecidesTheCampaign : Obligations.RoundExpiryDecidesTheCampaign := by
  intro s m powered marks expired rounds
  have step := exec_roundExpiry_over powered expired
  have driver := s.driver_roundOver m
  have law := driver.markLaw marks
  have decided := State.roundOver_decided rounds
  have counted := s.roundStarted_roundCounted m
  have house : (s.roundOver m).house = (s.roundCounted m).house :=
    (s.frames_roundOver m).house.trans (((s.frames_roundTaken m).trans
      ((s.roundTaken m).mild_setCampaign m _).frames).house).symm
  have channels : (s.roundOver m).channels = (s.roundCounted m).channels :=
    (s.frames_roundOver m).channels.trans (((s.frames_roundTaken m).trans
      ((s.roundTaken m).mild_setCampaign m _).frames).channels).symm
  have started := State.onlyDrive_serve law
  have told := (s.roundOver m).serve.tellWatches_records
  have stays (i : LoopIx) (ready : (s.loop i).life = .ready) :
      ((s.roundOver m).serve.tellWatches.loop i).balance = ((s.roundOver m).loop i).balance := by
    have life := (s.steady_roundOver m i).kept.life.trans (s.stands_roundRecord m i).1
    rw [told.loop]
    exact (State.kept_serve law (by rw [life, ready]; exact Lifecycle.noConfusion)).stands.balance
  have unopened : ((s.roundOver m).campaign m).state ≠ .opening := by
    rcases decided with ⟨-, -, ends⟩ | ⟨-, -, -, ends⟩ | ⟨-, -, -, ends⟩ | ⟨-, -, -, campaign, -⟩
    · simp [ends.campaign]
    · simp [ends.campaign]
    · simp [ends.campaign]
    · rw [campaign, Campaign.counted, rounds]
      exact CampaignState.noConfusion
  have spares := (State.spares_serve_unopened law unopened).trans (told.spares m)
  have storage := told.storage.trans started.storage
  have same (i : LoopIx) (part : s.Participates m i) := stays i part.2.1
  refine ⟨_, step, fun runs => ?_, fun idle => ?_, fun nobody => ?_, fun somebody => ⟨fun settled => ?_, ?_⟩⟩
  · rw [spares.campaign] at runs
    exact (decided.goesOn runs).of_spares spares
  · rw [spares.campaign] at idle
    obtain ⟨c, ends⟩ := decided.returned idle rounds
    refine ⟨counted.checked (ends.checked.of_spares spares) (spares.house.trans house)
      (spares.channels.trans channels), fun b => ?_⟩
    have waits : (s.roundOver m).serve = s.roundOver m := State.DriverBusy.serve (driver.busy b)
    rw [waits] at told ⊢
    exact ends.commanded.of_records told
  · obtain ⟨campaign, kept⟩ := decided.nobody fun i part => nobody i part.1 part.2
    exact ⟨spares.campaign.trans campaign, storage.trans kept⟩
  · obtain ⟨campaign, stored⟩ := decided.settled somebody fun i part => by
      rw [← same i part]
      exact settled i part.1 part.2.1 part.2.2.1 part.2.2.2
    rw [spares.campaign, storage]
    exact ⟨campaign, stored⟩
  · rintro ⟨i, place, ready, auto, ok, bad⟩
    rw [same i ⟨place, ready, auto, ok⟩] at bad
    rw [spares.campaign, storage]
    exact decided.unsettled ⟨place, ready, auto, ok⟩ bad
end

section
/-! PROOF. O13: the images of the records (11.5), and the records a LOOK carries (R180, R185). -/

namespace Sys2Proof.Machine

/-! ### The fields of record images (11.5) -/

theorem toNat_byte (n : Nat) : (byte n).toNat = n % 256 := BitVec.toNat_ofNat n 8

theorem bytes2_eq (w : BitVec 16) : bytes2 w = [byte (w.toNat / 256), byte w.toNat] := by
  unfold bytes2 byte
  rw [List.cons.injEq]
  refine ⟨?_, rfl⟩
  apply BitVec.eq_of_toNat_eq
  simp [Nat.shiftRight_eq_div_pow]

theorem word_eq (n : Nat) : word n = [byte (n / 256), byte n] := by
  unfold word
  rw [bytes2_eq]
  congr 1
  · apply BitVec.eq_of_toNat_eq
    rw [toNat_byte, toNat_byte, BitVec.toNat_ofNat]
    omega
  · congr 1
    apply BitVec.eq_of_toNat_eq
    rw [toNat_byte, toNat_byte, BitVec.toNat_ofNat]
    omega

theorem wordOr_eq (x : Option Nat) : wordOr x = word (x.getD 65535) := by
  cases x <;> rfl

theorem byteOr_eq (x : Option Nat) : byteOr x = byte (x.getD 255) := by
  cases x <;> rfl

theorem tempOr_eq (x : Option Int) : tempOr x = word (signedCode x) := by
  cases x with
  | none => rfl
  | some n =>
    refine congrArg bytes2 (BitVec.eq_of_toNat_eq ?_)
    rw [BitVec.toNat_ofInt, BitVec.toNat_ofNat]
    simp only [signedCode, Option.map_some, Option.getD_some]
    omega

theorem flags_eq (bits : List Bool) : flags bits = byte (bitSum bits) := rfl

/-- Two bytes of a quantity, the first the more significant. -/
theorem twoAt_word (n : Nat) : 256 * (byte (n / 256)).toNat + (byte n).toNat = n % 65536 := by
  rw [toNat_byte, toNat_byte]
  omega

theorem padded_eq {n : Nat} {bytes : List Byte} (fits : bytes.length ≤ n) :
    padded n bytes = (List.range n).map fun i => bytes[i]?.getD 0xFF := by
  refine List.ext_getElem? fun i => ?_
  unfold padded
  by_cases inside : i < bytes.length
  · rw [List.getElem?_append_left inside]
    have := Nat.lt_of_lt_of_le inside fits
    simp [this, inside]
  · rw [List.getElem?_append_right (Nat.le_of_not_lt inside), List.getElem?_replicate]
    have outside : bytes[i]? = none := List.getElem?_eq_none (Nat.le_of_not_lt inside)
    by_cases place : i < n
    · simp [place, outside]
      omega
    · simp [place]
      omega

/-- A list of indices, filled up. -/
theorem padded_indices {n bound : Nat} {l : List (Fin bound)} (fits : l.length ≤ n) :
    padded n (l.map fun i => byte i.val) = (List.range n).map fun j => byte ((l[j]?.map fun i => i.val).getD 255) := by
  rw [padded_eq (by rwa [List.length_map])]
  refine List.map_congr_left fun j _ => ?_
  rw [List.getElem?_map]
  cases l[j]? <;> rfl

theorem Drive.idle_eq (d : Drive) : d.idle = decide (d.moving = none ∧ d.dwell = none ∧ d.queue = []) := by
  rw [Bool.eq_iff_iff]
  simp [Drive.idle, and_assoc]

/-! ### The record images, field by field -/

section
variable (s : State)

theorem State.shown_loopImage (i : LoopIx) : s.LoopShown i (s.loopImage i) := by
  unfold State.LoopShown State.loopImage
  simp only [wordOr_eq, byteOr_eq, tempOr_eq, flags_eq, word_eq]
  constructor
  · rfl
  · simp [oneAt, toNat_byte]
  · simp [twoAt, twoAt_word, Channel.reading]

theorem State.shown_roomImage {r : RoomIx} (fits : (s.roomLoops r).length ≤ 6) : s.RoomShown r (s.roomImage r) := by
  unfold State.RoomShown State.roomImage
  dsimp only
  rw [padded_indices fits]
  simp only [byteOr_eq]
  constructor
  · rfl
  · simp [oneAt, toNat_byte, List.range_succ, State.roomLoops]
  · exact List.forall_mem_nil _

theorem State.shown_floorImage (fits : s.floorList.length ≤ 8) : s.FloorShown s.floorImage := by
  unfold State.FloorShown State.floorImage
  rw [padded_indices fits]
  constructor
  · rfl
  · simp [oneAt, toNat_byte, List.range_succ]
  · exact List.forall_mem_nil _

theorem State.shown_houseImage : s.HouseShown s.houseImage := by
  unfold State.HouseShown State.houseImage Campaign.image Campaign.shownAt
  simp only [byteOr_eq, flags_eq, word_eq, Drive.idle_eq]
  constructor
  · rfl
  · simp [oneAt, toNat_byte, House.pause]
  · simp [twoAt, twoAt_word]

theorem State.shown_manifoldImage (m : Manifold) : s.ManifoldShown m (s.manifoldImage m) := by
  unfold State.ManifoldShown State.manifoldImage
  simp only [tempOr_eq, word_eq]
  constructor
  · rfl
  · simp [oneAt, toNat_byte]
  · simp [twoAt, twoAt_word, Channel.reading]

theorem shows_driveRecord (occupancy : Nat) (loop : Option LoopIx) (kind : Option MoveKind) (target : Option Nat)
    (leg : Option Leg) (back : Option Nat) (ending : Option MoveEnd) (reason : Option EndReason)
    (remaining : Option Nat) :
    Shows (driveRecord occupancy loop kind target leg back ending reason remaining) 11
      [(0, occupancy), (1, (loop.map fun i => i.val).getD 255), (2, (kind.map MoveKind.code).getD 255),
        (5, (leg.map Leg.code).getD 255), (8, (ending.map MoveEnd.code).getD 255),
        (9, (reason.map EndReason.code).getD 255), (10, remaining.getD 255)]
      [(3, target.getD 65535), (6, back.getD 65535)] := by
  unfold driveRecord
  simp only [wordOr_eq, byteOr_eq, word_eq]
  constructor
  · rfl
  · simp [oneAt, toNat_byte]
  · simp [twoAt, twoAt_word]

theorem State.shown_driveImage (n : Nat) : s.DriveShown n (s.driveImage n) := by
  unfold State.driveImage
  refine ⟨fun zero still rest => ?_, fun m zero moving => ?_, fun d zero still dwell => ?_, fun e waits entry => ?_,
    fun waits vacant => ?_⟩
  · rw [if_pos zero, still, rest]
    exact shows_driveRecord 0 none none none none none none none none
  · rw [if_pos zero, moving]
    exact shows_driveRecord 1 m.loop m.kind m.target m.leg m.returnStroke none none none
  · rw [if_pos zero, still, dwell]
    exact shows_driveRecord 2 d.loop d.kind none none none d.ending d.reason d.remaining
  · rw [if_neg waits, entry]
    exact shows_driveRecord 3 e.loop e.kind e.target none none none none none
  · rw [if_neg waits, vacant]
    exact shows_driveRecord 0 none none none none none none none none

theorem Watch.image_eq (w : Watch) : w.image = [byte w.table.code, byte w.base, byte w.span,
    byte (if w.mirror = true then 1 else 0), byte (if w.condition = .state then 1 else 0)] := by
  unfold Watch.image
  cases w.condition <;> rfl

/-- The image of an occupied slot, its watches filled up to two. -/
theorem shows_slot (k : SlotIx) (x : Slot) (fits : x.watches.length ≤ 2) :
    Shows (padded 16 ([1, byte x.address, byte (kindCode (slotKind k)), byte x.misses,
        (if x.marker.isSome then 1 else 0), byte x.watches.length] ++ x.watches.flatMap Watch.image)) 16
      ([(0, 1), (1, x.address), (2, kindCode (slotKind k)), (3, x.misses), (4, if x.marker = none then 0 else 1),
        (5, x.watches.length)] ++ watchShownAt x.watches[0]? 6 ++ watchShownAt x.watches[1]? 11) [] := by
  obtain ⟨address, misses, watches, marker⟩ := x
  have pending : (if marker.isSome then 1 else 0 : Byte) = byte (if marker = none then 0 else 1) := by
    cases marker <;> rfl
  rw [pending]
  match watches, fits with
  | [], _ =>
    refine ⟨rfl, ?_, List.forall_mem_nil _⟩
    simp [oneAt, toNat_byte, padded, watchShownAt]
  | [w], _ =>
    refine ⟨rfl, ?_, List.forall_mem_nil _⟩
    simp [oneAt, toNat_byte, padded, watchShownAt, Watch.image_eq]
  | [w, v], _ =>
    refine ⟨rfl, ?_, List.forall_mem_nil _⟩
    simp [oneAt, toNat_byte, padded, watchShownAt, Watch.image_eq]

theorem State.shown_rosterImage {k : SlotIx} (fits : ∀ x, s.slot k = some x → x.watches.length ≤ 2) :
    s.RosterShown k (s.rosterImage k) := by
  unfold State.rosterImage
  refine ⟨fun vacant => ?_, fun x occupied => ?_⟩
  · rw [vacant]
    refine ⟨rfl, ?_, List.forall_mem_nil _⟩
    dsimp only
    decide
  · rw [occupied]
    exact shows_slot k x (fits x occupied)

/-! ### The tables and their indices (R180) -/

theorem State.recordAt_loop (i : LoopIx) : s.recordAt .loop i.val = some (s.loopImage i) := by
  rw [State.recordAt, loopIndex_of_val rfl]
  rfl

theorem State.recordAt_room (r : RoomIx) : s.recordAt .room (r.val + 1) = some (s.roomImage r) := by
  rw [State.recordAt, roomNumber_of_room rfl]
  rfl

theorem State.recordAt_drive {n : Nat} {b : List Byte} (h : s.recordAt .drive n = some b) : s.driveImage n = b := by
  have inside : n ≤ Config.queueCapacity := by
    by_contra outside
    have absent : s.recordAt .drive n = none := if_neg outside
    rw [absent] at h
    cases h
  have found : s.recordAt .drive n = some (s.driveImage n) := if_pos inside
  exact Option.some.inj (found.symm.trans h)

theorem State.recordAt_roster (k : SlotIx) : s.recordAt .roster k.val = some (s.rosterImage k) := dif_pos k.isLt

theorem State.exists_recordAt_house (n : Nat) : s.recordAt .house n ≠ none ↔ n ≤ 2 := by
  match n with
  | 0 | 1 | 2 => simp [State.recordAt]
  | n + 3 => simp [State.recordAt]

theorem State.exists_recordAt (n : Nat) : (s.recordAt .loop n ≠ none ↔ n ≤ 23) ∧
    (s.recordAt .room n ≠ none ↔ 1 ≤ n ∧ n ≤ 16) ∧ (s.recordAt .floor n ≠ none ↔ n = 0) ∧
      (s.recordAt .drive n ≠ none ↔ n ≤ 16) ∧ (s.recordAt .roster n ≠ none ↔ n ≤ 17) := by
  refine ⟨?_, ?_, ?_, ?_, ?_⟩
  · simp [State.recordAt, loopIndex]
    omega
  · simp [State.recordAt, roomNumber]
  · simp [State.recordAt]
  · change (if n ≤ 16 then some (s.driveImage n) else none) ≠ none ↔ n ≤ 16
    simp
  · simp [State.recordAt]
    omega

/-! ### The records of a LOOK (R180) -/

section
variable (t : Table)

theorem State.recordAt_of_recordsFrom {b : List Byte} : ∀ {count index left m : Nat},
    (s.recordsFrom t count index left)[m]? = some b → s.recordAt t (index + m) = some b
  | 0, _, _, _, h => nomatch h
  | count + 1, index, left, m, h => by
    unfold State.recordsFrom at h
    cases record : s.recordAt t index with
    | none =>
      rw [record] at h
      cases h
    | some bytes =>
      simp only [record] at h
      split_ifs at h with room
      · cases m with
        | zero => exact record.trans h
        | succ m =>
          have rest := State.recordAt_of_recordsFrom h
          rwa [show index + 1 + m = index + (m + 1) by omega] at rest
      · cases h

theorem State.recordsFrom_length_le : ∀ count index left : Nat, (s.recordsFrom t count index left).length ≤ count
  | 0, _, _ => Nat.le_refl 0
  | count + 1, index, left => by
    unfold State.recordsFrom
    split
    · split_ifs
      · exact Nat.succ_le_succ (State.recordsFrom_length_le count _ _)
      · exact Nat.zero_le _
    · exact Nat.zero_le _

theorem State.recordsFrom_fits : ∀ count index left : Nat, (s.recordsFrom t count index left).flatten.length ≤ left
  | 0, _, left => Nat.zero_le left
  | count + 1, index, left => by
    unfold State.recordsFrom
    split
    · next bytes _ =>
      split_ifs with room
      · have rest := State.recordsFrom_fits count (index + 1) (left - bytes.length)
        rw [List.flatten_cons, List.length_append]
        omega
      · exact Nat.zero_le _
    · exact Nat.zero_le _

/-- Why no further record is carried. -/
theorem State.recordsFrom_ends (count index left : Nat) :
    (s.recordsFrom t count index left).length = count ∨
      s.recordAt t (index + (s.recordsFrom t count index left).length) = none ∨
      ∃ more, s.recordAt t (index + (s.recordsFrom t count index left).length) = some more ∧
        left < (s.recordsFrom t count index left).flatten.length + more.length := by
  induction count generalizing index left with
  | zero => exact .inl rfl
  | succ count ih =>
    unfold State.recordsFrom
    cases record : s.recordAt t index with
    | none => exact .inr (.inl record)
    | some bytes =>
      dsimp only
      split_ifs with room
      · have ih := ih (index + 1) (left - bytes.length)
        simp only [List.length_cons, List.flatten_cons, List.length_append, Nat.add_right_cancel_iff]
        rw [show index + ((s.recordsFrom t count (index + 1) (left - bytes.length)).length + 1) =
          index + 1 + (s.recordsFrom t count (index + 1) (left - bytes.length)).length by omega]
        refine ih.imp_right (Or.imp_right fun ⟨more, record, full⟩ => ⟨more, record, by omega⟩)
      · exact .inr (.inr ⟨bytes, record, by simpa using room⟩)

end

end

/-! ### LOOK (R180, R185) -/

theorem byte_of_toNat (b : Byte) : byte b.toNat = b := BitVec.ofNat_toNat 8 b |>.trans (BitVec.setWidth_eq b)

theorem tableOf_code {b : Byte} {t : Table} (h : tableOf b = some t) : b.toNat = t.code := by
  rw [tableOf_iff] at h
  cases t <;> simpa [Table.code] using h

theorem lookForm_iff {t i n : Byte} {form : Table × Nat × Nat} : lookForm [t, i, n] = some form ↔
    tableOf t = some form.1 ∧ (1 ≤ n.toNat ∧ n.toNat ≤ 4) ∧ form.2 = (i.toNat, n.toNat) := by
  obtain ⟨table, rest⟩ := form
  cases code : tableOf t with
  | none => simp [lookForm, code]
  | some u =>
    simp only [lookForm, code, Option.ite_none_right_eq_some, Option.some.injEq, Prod.mk.injEq]
    tauto

theorem lookForm_refused {t i n : Byte} (h : t.toNat = 0 ∨ 6 < t.toNat ∨ n.toNat = 0 ∨ 4 < n.toNat) :
    lookForm [t, i, n] = none := by
  refine Option.eq_none_iff_forall_ne_some.2 fun form formed => ?_
  obtain ⟨code, count, -⟩ := lookForm_iff.1 formed
  have code := tableOf_code code
  generalize form.1 = table at code
  cases table <;> simp only [Table.code] at code <;> omega

theorem State.Polled.exec_look {s : State} {k : SlotIx} {x : Slot} (h : s.Polled k x) {t i n : Byte} {table : Table}
    (f : lookForm [t, i, n] = some (table, i.toNat, n.toNat)) : exec (.look [t, i, n]) s =
      .next ((if ((s.heard k x).recordAt table i.toNat).isSome then
        ⟨.done, (s.heard k x).lookBody table i.toNat n.toNat, s.heard k x⟩
        else (s.heard k x).refuse .nosuch).finish k) := by
  rw [Sys2Proof.Machine.exec_look, execLook,
    h.taken rfl f fun _ t x => if (t.recordAt x.1 x.2.1).isSome then ⟨.done, t.lookBody x.1 x.2.1 x.2.2, t⟩
      else t.refuse .nosuch]

end Sys2Proof.Machine

open Sys2Proof Sys2Proof.Machine

/-- Settles O13: the images field by field, and the records of a LOOK one after another. -/
theorem lookCarriesWholeRecords : Obligations.LookCarriesWholeRecords := by
  refine ⟨fun s k x t i n polled bad => ?_, fun s => ?_, fun s k x t i n table polled row few many => ?_⟩
  · rw [exec_look]
    exact polled.onlyRange rfl (lookForm_refused bad) _
  · have indices (n : Nat) := s.exists_recordAt n
    refine ⟨fun n => (indices n).1, fun n => (indices n).2.1, s.exists_recordAt_house, fun n => (indices n).2.2.1,
      fun n => (indices n).2.2.2.1, fun n => (indices n).2.2.2.2, fun i b found => ?_, fun r b fits found => ?_,
      fun b found => ?_, fun b found => ?_, fun b found => ?_, fun b fits found => ?_, fun n b found => ?_,
      fun k b fits found => ?_⟩
    · rw [s.recordAt_loop] at found
      exact Option.some.inj found ▸ s.shown_loopImage i
    · rw [s.recordAt_room] at found
      exact Option.some.inj found ▸ s.shown_roomImage fits
    · exact Option.some.inj found ▸ s.shown_houseImage
    · exact Option.some.inj found ▸ s.shown_manifoldImage .a
    · exact Option.some.inj found ▸ s.shown_manifoldImage .b
    · exact Option.some.inj found ▸ s.shown_floorImage fits
    · exact s.recordAt_drive found ▸ s.shown_driveImage n
    · rw [s.recordAt_roster] at found
      exact Option.some.inj found ▸ s.shown_rosterImage fits
  · have formed := tableOf_iff.2 row
    have taken := polled.exec_look (i := i) (lookForm_iff.2 ⟨formed, ⟨few, many⟩, rfl⟩)
    refine ⟨fun lacks => ?_, fun has => ?_⟩
    · rw [lacks] at taken
      exact onlyAnswers_of_refused taken rfl
    · rw [if_pos (Option.isSome_iff_ne_none.2 has), State.lookBody, ← tableOf_code formed, byte_of_toNat,
        byte_of_toNat] at taken
      refine ⟨_, _, taken, s.onlyAnswers_finish k x .done _, fun m inside => ?_, ?_, ?_, ?_⟩
      · exact State.recordAt_of_recordsFrom _ _ (List.getElem?_eq_getElem inside)
      · exact State.recordsFrom_length_le _ _ _ _ _
      · exact State.recordsFrom_fits _ _ _ _ _
      · exact State.recordsFrom_ends _ _ _ _ _
end

section
/-! PROOF. O5: power-up with an image: the records it loads, the HOME wants in ascending index, and the first start (R29, R52, R74, R97). -/

namespace Sys2Proof.Machine

/-! ### The wants and entries of homing loops (R74, R78, R79, R83) -/

/-- The entry of a HOME. -/
def homeEntry (i : LoopIx) : Entry := ⟨i, .home, none⟩

/-- A drive at rest whose wants and entries are the HOMEs of a list of loops, in its order. -/
structure State.Homes (t : State) (homes : List LoopIx) : Prop where
  drive : t.drive = ⟨none, (homes.take 16).map homeEntry, none, .running⟩
  want : ∀ j, (t.loop j).want = if j ∈ homes then some .home else none
  counter : ∀ j, (t.loop j).openCounter = 0
  position : ∀ j, (t.loop j).position = none

/-- Records but for loops and the drive. -/
structure State.Beside (s t : State) : Prop where
  powered : t.powered = s.powered
  rooms : t.rooms = s.rooms
  floorList : t.floorList = s.floorList
  floorShort : t.floorShort = s.floorShort
  house : t.house = s.house
  storage : t.storage = s.storage
  channels : t.channels = s.channels
  supplyRefs : t.supplyRefs = s.supplyRefs
  timers : t.timers = s.timers
  campaigns : t.campaigns = s.campaigns
  link : t.link = s.link
  pending : t.pending = s.pending

theorem State.Beside.refl (s : State) : s.Beside s := ⟨rfl, rfl, rfl, rfl, rfl, rfl, rfl, rfl, rfl, rfl, rfl, rfl⟩

theorem State.Beside.trans {s t u : State} (h : s.Beside t) (g : t.Beside u) : s.Beside u :=
  ⟨g.powered.trans h.powered, g.rooms.trans h.rooms, g.floorList.trans h.floorList, g.floorShort.trans h.floorShort,
    g.house.trans h.house, g.storage.trans h.storage, g.channels.trans h.channels, g.supplyRefs.trans h.supplyRefs,
    g.timers.trans h.timers, g.campaigns.trans h.campaigns, g.link.trans h.link, g.pending.trans h.pending⟩

theorem State.Quiet.beside {s t : State} (h : s.Quiet t) (short : t.floorShort = s.floorShort) : s.Beside t :=
  ⟨h.powered, h.rooms, h.floorList, short, h.house, h.storage, h.channels, h.supplyRefs, h.timers, h.campaigns, h.link,
    h.pending⟩

theorem State.beside_fill (s : State) : s.Beside s.fill := s.quiet_fill.beside s.sameDemand_fill.strokes.short

theorem State.beside_recount (s : State) (i : LoopIx) : s.Beside (s.recount i) :=
  (s.quiet_recount i).beside (s.sameDemand_recount i).strokes.short

theorem State.beside_setQueue (s : State) (q : List Entry) : s.Beside (s.setQueue q) :=
  ⟨rfl, rfl, rfl, rfl, rfl, rfl, rfl, rfl, rfl, rfl, rfl, rfl⟩

/-- The driver's taking a HOME up changes the drive and the loop alone. -/
theorem State.beside_begun_home (s : State) (i : LoopIx) : s.Beside (s.begun (homeEntry i).move) := by
  have moves : s.Beside (s.setMoving (some (homeEntry i).move)) :=
    ⟨rfl, rfl, rfl, rfl, rfl, rfl, rfl, rfl, rfl, rfl, rfl, rfl⟩
  have wants : (s.setMoving (some (homeEntry i).move)).wantAtStart (homeEntry i).move =
    s.setMoving (some (homeEntry i).move) := if_pos rfl
  rw [State.begun, wants]
  generalize s.setMoving (some (homeEntry i).move) = u at moves
  have lost : u.Beside (u.modLoop (homeEntry i).move.loop fun l => l.setPosition none) :=
    ⟨rfl, rfl, rfl, rfl, rfl, rfl, rfl, rfl, rfl, rfl, rfl, rfl⟩
  exact ((moves.trans lost).trans (State.beside_recount _ _)).trans (State.beside_fill _)

theorem Loop.begun_home {l : Loop} (counter : l.openCounter = 0) (position : l.position = none) : l.begun .home = l := by
  obtain ⟨⟩ := l
  cases counter
  cases position
  rfl

theorem State.queued_of_homes {t : State} {l : List LoopIx} (queue : t.drive.queue = l.map homeEntry) (j : LoopIx) :
    t.queued j = true ↔ j ∈ l := by
  rw [State.queued, queue, List.any_map, List.any_eq_true]
  exact ⟨fun ⟨_, mem, same⟩ => of_decide_eq_true same ▸ mem, fun mem => ⟨j, mem, decide_eq_true rfl⟩⟩

section
variable {s : State} {i : LoopIx} {others : List LoopIx} (h : s.Homes (i :: others))
  (listed : (i :: others).Sublist allLoops)
include h

theorem State.Homes.waiting : s.drive.queue = homeEntry i :: (others.take 15).map homeEntry := by
  rw [h.drive]
  rfl

/-- The taking up of the first HOME leaves every loop's record. -/
theorem State.Homes.loop_begun (q : List Entry) (j : LoopIx) :
    ((s.setQueue q).begun (homeEntry i).move).loop j = s.loop j := by
  by_cases self : j = i
  · subst self
    exact ((s.setQueue q).loop_begun_self (homeEntry j).move).trans (Loop.begun_home (h.counter j) (h.position j))
  · exact (s.setQueue q).loop_begun_ne _ self

include listed

/-- Once the first HOME is taken up, the wants that wait are those behind the entries. -/
theorem State.Homes.outstanding_takenUp (j : LoopIx) :
    ((s.setQueue ((others.take 15).map homeEntry)).takenUp (homeEntry i).move).outstanding j =
      decide (j ∈ others.drop 15) := by
  obtain ⟨fresh, once⟩ := List.nodup_cons.1 (nodup_allLoops.sublist listed)
  have parts : j ∈ others ↔ j ∈ others.take 15 ∨ j ∈ others.drop 15 := by
    rw [← List.mem_append, List.take_append_drop]
  have apart : j ∈ others.take 15 → j ∉ others.drop 15 := fun a b => List.disjoint_take_drop once (le_refl 15) a b
  have loops := h.loop_begun ((others.take 15).map homeEntry) j
  rw [State.begun_eq, State.loop_fill] at loops
  have drive := (s.setQueue ((others.take 15).map homeEntry)).drive_takenUp (homeEntry i).move
  generalize (s.setQueue ((others.take 15).map homeEntry)).takenUp (homeEntry i).move = u at loops drive
  have unqueued : (∀ e ∈ u.drive.queue, e.loop ≠ j) ↔ j ∉ others.take 15 := by
    rw [← State.queued_eq_false, ← Bool.not_eq_true, State.queued_of_homes (by rw [drive]; rfl)]
  have moving : u.drive.moving = some (homeEntry i).move := by rw [drive]
  rw [Bool.eq_iff_iff, State.outstanding_iff, State.Outstanding, unqueued, loops, h.want, moving, decide_eq_true_eq]
  constructor
  · rintro ⟨wants, out, idle⟩
    rw [ne_eq, ite_eq_right_iff, Classical.not_imp] at wants
    rcases List.mem_cons.1 wants.1 with self | mem
    · exact absurd ⟨if_pos wants.1, _, rfl, self.symm, rfl⟩ idle
    · exact (parts.1 mem).resolve_left out
  · intro mem
    have own := parts.2 (.inr mem)
    rw [if_pos (List.mem_cons_of_mem i own)]
    refine ⟨Option.some_ne_none _, fun taken => apart taken mem, ?_⟩
    rintro ⟨-, m, moves, self, -⟩
    cases moves
    subst self
    exact fresh own

/-- The lowest of the homing loops is homed, and the next 16 wait (R74, R79, R83). -/
theorem State.Homes.serve_cons : s.serve.drive =
      ⟨some ⟨i, .home, none, .first, none, false⟩, (others.take 16).map homeEntry, none, .running⟩ ∧
      (∀ j, s.serve.loop j = s.loop j) ∧ s.Beside s.serve := by
  have start : s.canStart = true :=
    (State.canStart_iff s).2 (by rw [h.drive]; exact ⟨rfl, rfl, rfl, List.cons_ne_nil _ _⟩)
  have out := h.outstanding_takenUp listed
  have serve := State.serve_of_start start h.waiting
  rw [State.beginMove_drives (.inl rfl)] at serve
  have loops := h.loop_begun ((others.take 15).map homeEntry)
  have wanted : ∀ j ∈ others.drop 15, ((s.setQueue ((others.take 15).map homeEntry)).takenUp
      (homeEntry i).move).wantedEntry j = some (homeEntry j) := fun j mem => by
    have loop := loops j
    rw [State.begun_eq, State.loop_fill] at loop
    rw [State.wantedEntry, loop, h.want, if_pos (List.mem_cons_of_mem _ (List.mem_of_mem_drop mem))]
    rfl
  have queue : ((s.setQueue ((others.take 15).map homeEntry)).begun (homeEntry i).move).drive.queue =
      (others.take 16).map homeEntry := by
    have tail : (others.drop 15).Sublist allLoops :=
      ((List.drop_sublist 15 others).trans (List.sublist_cons_self i others)).trans listed
    have room : (others.drop 15).take (16 - (others.take 15).length) = (others.drop 15).take 1 := by
      rw [List.length_take]
      rcases Nat.lt_or_ge 15 others.length with long | short
      · rw [Nat.min_eq_left (by omega)]
      · rw [List.drop_of_length_le short, List.take_nil, List.take_nil]
    rw [State.queue_begun, funext out, filter_mem_of_sublist tail nodup_allLoops]
    change (others.take 15).map homeEntry ++ List.filterMap _ ((others.drop 15).take
      (16 - ((others.take 15).map homeEntry).length)) = _
    rw [List.length_map, room, List.filterMap_congr fun j mem => wanted j (List.mem_of_mem_take mem)]
    change _ ++ List.filterMap (some ∘ homeEntry) _ = _
    rw [List.filterMap_eq_map, ← List.map_append, ← List.take_add]
  have beside := (s.setQueue ((others.take 15).map homeEntry)).beside_begun_home i
  have drive := (s.setQueue ((others.take 15).map homeEntry)).drive_begun (homeEntry i).move
  rw [queue] at drive
  rw [serve]
  refine ⟨?_, loops, State.Beside.trans (s.beside_setQueue _) beside⟩
  rw [drive]
  change (⟨_, _, s.drive.dwell, s.drive.state⟩ : Drive) = _
  rw [h.drive]
  rfl

end

/-! ### A recompute of a house with no READY loop -/

section
variable {s : State} (unready : ∀ i, (s.loop i).life ≠ .ready)
include unready

theorem State.drive_recompute_unready : s.recompute.drive = s.drive := by
  have handed : s.evaluated.handStrokes s s.evaluated = s.evaluated :=
    State.forEach_id (fun i => if_neg fun c => unready i c.1) _
  have short (t : State) : (t.tellShort s s.evaluated).drive = t.drive := by
    unfold State.tellShort
    split_ifs
    · rfl
    · exact (t.mark_records .house 0 false).drive
  have told (t : State) : (t.tellStrokes s s.evaluated).drive = t.drive :=
    (State.forEach_rel (f := fun u i => u.markLoopIf
      (decide ((s.loop i).commanded ≠ (s.evaluated.loop i).commanded) ||
        decide ((s.loop i).floorHeld ≠ (s.evaluated.loop i).floorHeld)) i false)
      State.SameRecords.refl (fun _ _ _ => State.SameRecords.trans) (fun u i => u.records_markLoopIf _ i _) allLoops
      t).drive
  rw [State.recompute, told, short, handed, State.evaluated, State.setFloorShort_drive, State.mapLoops_drive]

/-- With no READY loop nothing flows, and the floor is short wherever one is asked for (R120, R122, R125). -/
theorem State.short_recompute_unready : s.recompute.floorShort =
    (decide (s.house.season = .heating) && decide (0 < s.house.flowFloor)) := by
  rw [State.short_recompute]
  cases season : s.house.season with
  | standby => rw [State.floorWalk_of_standby season]; rfl
  | heating =>
    have sum : s.strokeSum = 0 := by
      have none : (allLoops.filter fun i => (s.loop i).life = .ready) = [] :=
        List.filter_eq_nil_iff.2 fun i _ => by simpa using unready i
      rw [State.strokeSum, none]
      rfl
    have helped : (s.walk s.floorList 0).1 = [] :=
      List.eq_nil_iff_forall_not_mem.2 fun i mem =>
        unready i ((s.canHelp_iff i).1 (s.walk_held _ _ i mem).1).1
    have total := s.walk_total s.floorList 0
    rw [helped] at total
    rw [State.floorWalk_of_heating season, sum, total]
    rfl

end

/-! ### Power-up with an image (R29, R42, R45, R52, R74, R97) -/

/-- A loop's record at power-up with an image. -/
def Image.awake (g : Image) (heads : Vector Bool 24) (i : LoopIx) : Loop :=
  { Loop.vacant with
    life := if (g.loops[i]).life = .enrolled ∧ heads[i] = true then .homing else (g.loops[i]).life
    room := (g.loops[i]).room
    length := (g.loops[i]).length
    covering := (g.loops[i]).covering
    ceiling := (g.loops[i]).ceiling
    balance := if (g.loops[i]).balance = .excluded then .unmeasured else (g.loops[i]).balance
    present := heads[i]
    want := if (g.loops[i]).life = .enrolled ∧ heads[i] = true then some .home else none }

/-- The records of a part that powers up with an image, the HOME wants set. -/
def State.wakened (s : State) (g : Image) (heads : Vector Bool 24) (line : Bool) : State :=
  { State.reset with
    loops := Vector.ofFn (g.awake heads)
    rooms := Vector.ofFn fun r => (g.rooms[r]).load
    floorList := g.floorList
    house := g.house.setLine line
    storage := ⟨.sound g, .valid, none, false⟩
    timers := ⟨(g.house.setLine line).round .a false, (g.house.setLine line).round .b false⟩
    pending := s.pending }

section
variable {g : Image} (sound : g.Sound) (heads : Vector Bool 24) (line : Bool)

theorem Image.loop_cases (sound : g.Sound) (i : LoopIx) :
    g.loops[i] = ⟨.vacant, none, none, 1, 1000, .unmeasured⟩ ∨ (g.loops[i]).life = .enrolled :=
  (sound.loops i).imp_right And.left

include sound in
theorem Image.awake_eq (i : LoopIx) : (loadLoop (some g) heads i).wakened = g.awake heads i := by
  have present : (loadLoop (some g) heads i).present = heads[i] := rfl
  have life : (loadLoop (some g) heads i).life = (g.loops[i]).life := rfl
  unfold Loop.wakened Image.awake
  rcases g.loop_cases sound i with vacant | enrolled
  · have asleep : ¬((loadLoop (some g) heads i).occupied && (loadLoop (some g) heads i).present) = true := by
      simp [Loop.occupied, life, vacant]
    rw [if_neg asleep, vacant]
    simp [loadLoop, ImageLoop.load, vacant]
    rfl
  · by_cases head : heads[i] = true
    · have awake : ((loadLoop (some g) heads i).occupied && (loadLoop (some g) heads i).present) = true := by
        rw [Loop.occupied, life, enrolled, present, head]
        rfl
      rw [if_pos awake, if_pos ⟨enrolled, head⟩, if_pos ⟨enrolled, head⟩]
      rfl
    · have asleep : ¬((loadLoop (some g) heads i).occupied && (loadLoop (some g) heads i).present) = true := by
        simp [present, head]
      rw [if_neg asleep, if_neg fun w => head w.2, if_neg fun w => head w.2]
      rfl

include sound in
theorem State.wakened_eq {s : State} (memory : s.storage.afterLoss = .sound g) :
    ((s.loaded heads line).mapLoops fun _ l => l.wakened) = s.wakened g heads line := by
  have found := NvMemory.examine_sound sound
  have loops : ((s.loaded heads line).mapLoops fun _ l => l.wakened).loops = (s.wakened g heads line).loops := by
    refine Vector.ext fun i inside => ?_
    simp only [State.mapLoops, State.wakened, State.loop, State.loaded, memory, found, Vector.getElem_ofFn]
    exact (congrArg Loop.wakened (Vector.getElem_ofFn ..)).trans (Image.awake_eq sound heads ⟨i, inside⟩)
  simp only [State.wakened, State.loaded, State.mapLoops, memory, found] at loops ⊢
  rw [loops]
  rfl

end

/-! ### The first recompute and the first start -/

theorem Link.eq {k l : Link} (roster : k.roster = l.roster) (window : k.window = l.window) (cursor : k.cursor = l.cursor)
    (lineBreak : k.lineBreak = l.lineBreak) (sent : k.sent = l.sent) : k = l := by
  obtain ⟨⟩ := k
  obtain ⟨⟩ := l
  cases roster
  cases window
  cases cursor
  cases lineBreak
  cases sent
  rfl

/-- A roster of empty slots has no marker to keep. -/
theorem State.LinkKept.of_vacant {s t : State} (h : s.LinkKept t) (vacant : ∀ j, s.slot j = none) : t.link = s.link := by
  have slots (j : SlotIx) : t.slot j = s.slot j := by
    have kept := h.slots j
    rw [vacant j, Option.map_none, Option.map_eq_none_iff] at kept
    exact kept.trans (vacant j).symm
  have roster : t.link.roster = s.link.roster := Vector.ext fun j inside => slots ⟨j, inside⟩
  exact Link.eq roster h.window h.cursor h.lineBreak h.sent

section
variable {s : State} {g : Image} (sound : g.Sound) (heads : Vector Bool 24) (line : Bool)

/-- The loops to be homed at power-up, ascending. -/
def Image.homes (g : Image) (heads : Vector Bool 24) : List LoopIx :=
  allLoops.filter fun i => (g.awake heads i).life = .homing

theorem State.loop_wakened (i : LoopIx) : (s.wakened g heads line).loop i = g.awake heads i :=
  Vector.getElem_ofFn ..

include sound in
theorem Image.life_awake (i : LoopIx) : (g.awake heads i).life ≠ .ready ∧
    ((g.awake heads i).life = .homing ↔ (g.loops[i]).life = .enrolled ∧ heads[i] = true) := by
  have life : (g.awake heads i).life =
    if (g.loops[i]).life = .enrolled ∧ heads[i] = true then .homing else (g.loops[i]).life := rfl
  rw [life]
  split_ifs with wakes
  · exact ⟨Lifecycle.noConfusion, iff_of_true rfl wakes⟩
  · rcases g.loop_cases sound i with vacant | enrolled
    · rw [vacant]
      exact ⟨Lifecycle.noConfusion, iff_of_false Lifecycle.noConfusion fun w => Lifecycle.noConfusion w.1⟩
    · rw [enrolled] at wakes ⊢
      exact ⟨Lifecycle.noConfusion, iff_of_false Lifecycle.noConfusion wakes⟩

include sound in
theorem Image.want_awake (i : LoopIx) : (g.awake heads i).want = if i ∈ g.homes heads then some .home else none := by
  have mem : i ∈ g.homes heads ↔ (g.loops[i]).life = .enrolled ∧ heads[i] = true := by
    rw [← (g.life_awake sound heads i).2]
    simp [Image.homes, allLoops]
  simp only [mem]
  rfl

/-- The lowest of the chosen loops heads their list. -/
theorem head?_homes {p : LoopIx → Prop} [DecidablePred p] {l : List LoopIx} (list : allLoops.filter (fun i => p i) = l)
    {i : LoopIx} (own : p i) (first : ∀ j : LoopIx, j < i → ¬p j) : l.head? = some i := by
  have ordered : l.Pairwise (· < ·) := list ▸ (List.pairwise_lt_finRange 24).filter _
  have mem (j : LoopIx) : j ∈ l ↔ p j := by
    rw [← list]
    simp [allLoops]
  cases l with
  | nil => exact absurd ((mem i).2 own) List.not_mem_nil
  | cons j rest =>
    rcases List.mem_cons.1 ((mem i).2 own) with self | later
    · rw [self]
      rfl
    · exact absurd ((mem j).1 List.mem_cons_self) (first j (List.rel_of_pairwise_cons ordered later))

/-- The part as it stands before the first start. -/
def State.powering (s : State) (g : Image) (heads : Vector Bool 24) (line : Bool) : State :=
  (s.wakened g heads line).fill.recompute

theorem State.quiet_powering : (s.wakened g heads line).Quiet (s.powering g heads line) :=
  (State.quiet_fill _).trans (State.quiet_recompute _)

include sound

theorem State.loop_powering (i : LoopIx) : (s.powering g heads line).loop i = g.awake heads i := by
  have loop : (s.wakened g heads line).fill.loop i = g.awake heads i := by
    rw [State.loop_fill, State.loop_wakened]
  rw [State.powering, State.loop_recompute _ i (by rw [loop]; exact (g.life_awake sound heads i).1), loop]
  rfl

theorem State.drive_powering :
    (s.powering g heads line).drive = ⟨none, ((g.homes heads).take 16).map homeEntry, none, .running⟩ := by
  have want (i : LoopIx) : ((s.wakened g heads line).loop i).want = if i ∈ g.homes heads then some .home else none := by
    rw [State.loop_wakened, g.want_awake sound heads]
  have outstanding (i : LoopIx) : (s.wakened g heads line).outstanding i = decide (i ∈ g.homes heads) := by
    rw [Bool.eq_iff_iff, State.outstanding_iff, State.Outstanding, want, decide_eq_true_eq]
    constructor
    · rintro ⟨wants, -, -⟩
      by_contra out
      exact wants (if_neg out)
    · intro mem
      rw [if_pos mem]
      refine ⟨Option.some_ne_none _, fun e waits => ?_, ?_⟩
      · cases waits
      · rintro ⟨-, m, moving, -⟩
        cases moving
  have sub : (g.homes heads).Sublist allLoops := List.filter_sublist
  have queue := (s.wakened g heads line).queue_fill
  rw [funext outstanding, filter_mem_of_sublist sub nodup_allLoops,
    List.filterMap_congr (g := some ∘ homeEntry) fun i mem => ?_, List.filterMap_eq_map] at queue
  · rw [State.powering, State.drive_recompute_unready fun i => ?_]
    · rw [(State.quiet_fill (s.wakened g heads line)).onlyDemand.drive, queue]
      rfl
    · rw [State.loop_fill, State.loop_wakened]
      exact (g.life_awake sound heads i).1
  · rw [State.wantedEntry, want, if_pos (List.mem_of_mem_take mem)]
    rfl

theorem State.homes_powering : (s.powering g heads line).Homes (g.homes heads) := by
  refine ⟨State.drive_powering sound heads line, fun i => ?_, fun i => ?_, fun i => ?_⟩
  · rw [State.loop_powering sound, g.want_awake sound heads]
  · rw [State.loop_powering sound]
    rfl
  · rw [State.loop_powering sound]
    rfl

theorem State.short_powering : (s.powering g heads line).floorShort =
    (decide (g.season = .heating) && decide (0 < g.flowFloor)) := by
  have house : (s.wakened g heads line).fill.house = g.house.setLine line := (State.quiet_fill _).house
  rw [State.powering, State.short_recompute_unready fun i => ?_, house]
  · rfl
  · rw [State.loop_fill, State.loop_wakened]
    exact (g.life_awake sound heads i).1

/-- The first of the loops to be homed is homed, the next 16 wait, and nothing else has changed. -/
theorem State.serve_powering : (s.powering g heads line).serve.drive =
      ⟨(g.homes heads).head?.map fun i => ⟨i, .home, none, .first, none, false⟩,
        (((g.homes heads).drop 1).take 16).map homeEntry, none, .running⟩ ∧
      (∀ i, (s.powering g heads line).serve.loop i = g.awake heads i) ∧
      (s.powering g heads line).Beside (s.powering g heads line).serve := by
  have homes := State.homes_powering (s := s) sound heads line
  have loops := State.loop_powering (s := s) sound heads line
  have sub : (g.homes heads).Sublist allLoops := List.filter_sublist
  generalize s.powering g heads line = u at homes loops
  cases list : g.homes heads with
  | nil =>
    rw [list] at homes
    have still : u.StartLaw := Bool.eq_false_iff.2 fun start => ((State.canStart_iff u).1 start).2.2.2 (by
      rw [homes.drive]
      rfl)
    rw [State.serve_of_startLaw still, homes.drive]
    exact ⟨rfl, loops, .refl u⟩
  | cons i others =>
    rw [list] at homes sub
    obtain ⟨drive, same, beside⟩ := homes.serve_cons sub
    exact ⟨drive, fun j => (same j).trans (loops j), beside⟩

end

end Sys2Proof.Machine

open Sys2Proof Sys2Proof.Machine

/-- Settles O5: the loaded records, the HOME wants in ascending index, and the start of the first of them. -/
theorem powerUpLoadsTheImage : Obligations.PowerUpLoadsTheImage := by
  intro heads line s g memory lawful
  have sound := g.lawful_iff.1 lawful
  obtain ⟨drive, loops, beside⟩ := State.serve_powering (s := s) sound heads line
  have quiet := State.quiet_powering (s := s) (g := g) heads line
  have short := State.short_powering (s := s) sound heads line
  have step : exec (.powerUp heads line) s = .next (s.powering g heads line).serve.tellWatches := by
    rw [exec_powerUp, execPowerUp, State.powerUp, State.wakened_eq sound heads line memory]
    rfl
  refine ⟨_, step, ?_⟩
  generalize s.powering g heads line = u at drive loops beside quiet short
  have told := u.serve.tellWatches_records
  have link : u.serve.tellWatches.link = State.reset.link :=
    State.LinkKept.of_vacant (State.linkKept_told (beside.link.trans quiet.link)) fun j => Vector.getElem_replicate ..
  have house := told.house.trans (beside.house.trans quiet.house)
  have rooms := told.rooms.trans (beside.rooms.trans quiet.rooms)
  have loop (i : LoopIx) : u.serve.tellWatches.loop i = g.awake heads i := by rw [told.loop, loops]
  refine ⟨told.powered.trans (beside.powered.trans quiet.powered), told.pending.trans (beside.pending.trans quiet.pending),
    told.storage.trans (beside.storage.trans quiet.storage), house, fun r => ?_,
    told.floorList.trans (beside.floorList.trans quiet.floorList), told.floorShort.trans (beside.floorShort.trans short),
    told.channels.trans (beside.channels.trans quiet.channels),
    told.supplyRefs.trans (beside.supplyRefs.trans quiet.supplyRefs),
    told.campaigns.trans (beside.campaigns.trans quiet.campaigns), link, fun m => ?_, loop, ?_⟩
  · rw [State.room, rooms]
    exact Vector.getElem_ofFn ..
  · have timers := told.timers.trans (beside.timers.trans quiet.timers)
    rw [State.timer, timers, house]
    cases m <;> rfl
  · have queue := told.drive.trans drive
    have homes : (allLoops.filter fun i => (u.serve.tellWatches.loop i).life = .homing) = g.homes heads := by
      simp only [loop]
      rfl
    rw [homes, queue]
    refine ⟨rfl, rfl, fun i homing first => ?_, rfl, fun none => ?_⟩
    · rw [head?_homes homes homing first]
      rfl
    · rw [← homes, List.filter_eq_nil_iff.2 fun i _ => by simpa using none i]
      rfl
end

section
/-! PROOF. O42: a scan (R100, R104 to R108): what one manifold's news leaves of the other, the loops' news, and each manifold's supply. -/

namespace Sys2Proof.Machine

/-! ### What one manifold's news leaves of the other -/

/-- One manifold's campaign, round, loops and grounds for an examination are as they were. -/
structure State.Apart (s : State) (m : Manifold) (t : State) : Prop where
  spares : s.Spares m t
  grounds : s.SameGrounds m t
  loops : ∀ i, manifoldOf i = m → t.loop i = s.loop i

theorem State.SameGrounds.refl (s : State) (m : Manifold) : s.SameGrounds m s := ⟨rfl, .rfl, .rfl, rfl, rfl⟩

theorem State.SameGrounds.trans {s t u : State} {m : Manifold} (h : s.SameGrounds m t) (g : t.SameGrounds m u) :
    s.SameGrounds m u :=
  ⟨g.campaign.trans h.campaign, g.suspends.trans h.suspends, g.still.trans h.still, g.moving.trans h.moving,
    g.dwell.trans h.dwell⟩

theorem State.Apart.refl (s : State) (m : Manifold) : s.Apart m s := ⟨.refl s m, .refl s m, fun _ _ => rfl⟩

theorem State.Apart.trans {s t u : State} {m : Manifold} (h : s.Apart m t) (g : t.Apart m u) : s.Apart m u :=
  ⟨h.spares.trans g.spares, h.grounds.trans g.grounds, fun i own => (g.loops i own).trans (h.loops i own)⟩

theorem State.apart_ite {c : Prop} [Decidable c] {s t u : State} {m : Manifold} (h : s.Apart m t) (g : s.Apart m u) :
    s.Apart m (if c then t else u) := by split <;> assumption

/-- What leaves the drive and, but for open counters, the loops. -/
theorem State.Apart.of_counted {s t : State} {m : Manifold} (spares : s.Spares m t) (counted : s.Counted t)
    (drive : t.drive = s.drive) (loops : ∀ i, manifoldOf i = m → t.loop i = s.loop i) : s.Apart m t :=
  ⟨spares, ⟨spares.campaign, State.suspends_congr spares.house spares.channels (by rw [drive]) m,
    counted.still drive m, by rw [drive], by rw [drive]⟩, loops⟩

section
variable (s : State) {n m : Manifold} (other : n ≠ m)
include other

theorem State.loop_clearCounters_apart {i : LoopIx} (own : manifoldOf i = m) : (s.clearCounters n).loop i = s.loop i := by
  rw [State.clearCounters, State.loop_mapLoops, if_neg fun w => other (w.symm.trans own)]

theorem State.apart_pauseRound (b : Bool) : s.Apart m ((s.clearCounters n).roundStart n b) := by
  have counted := (s.counted_clearCounters n).trans (State.counted_roundStart _ n b)
  have spares := ((s.quiet_clearCounters n).spares (s.steps_clearCounters n) m).trans (State.spares_roundStart _ other b)
  refine .of_counted spares counted (by simp [State.roundStart, State.clearCounters]) fun i own => ?_
  rw [State.roundStart, State.loop_setSupplyRef, State.loop_setTimer]
  exact s.loop_clearCounters_apart other own

theorem State.apart_checkTimer : s.Apart m (s.checkTimer n) := by
  refine .of_counted (s.spares_checkTimer other) (s.counted_checkTimer n) (s.checkTimer_same n).2 fun i own => ?_
  unfold State.checkTimer
  split_ifs
  · rfl
  · exact (s.apart_pauseRound other true).loops i own
  · rfl
  · rfl

theorem State.apart_enterRounds : s.Apart m (s.enterRounds n) := by
  have set := s.spares_setCampaign other { s.campaign n with state := .rounds, resume := none }
  exact .trans (.of_counted set (fun _ => .inl rfl) rfl fun _ _ => rfl) (State.apart_pauseRound _ other _)

theorem State.apart_setCampaign (c : Campaign) : s.Apart m (s.setCampaign n c) :=
  .of_counted (s.spares_setCampaign other c) (fun _ => .inl rfl) rfl fun _ _ => rfl

omit other in
theorem State.apart_markHouse (b : Bool) : s.Apart m (s.markHouse b) :=
  have told := s.mark_records .house 0 b
  ⟨s.spares_markHouse b m, s.sameGrounds_markHouse b m, fun i _ => told.loop i⟩

theorem State.apart_checkCampaign : s.Apart m (s.checkCampaign n) := by
  refine ⟨s.spares_checkCampaign other, s.sameGrounds_checkCampaign other, ?_⟩
  have suspended (r : ResumeState) : s.Apart m ((s.suspend n r).markHouse true) := by
    refine .trans ?_ (State.apart_markHouse _ true)
    unfold State.suspend State.checkTimerIf
    exact (s.apart_setCampaign other _).trans (State.apart_ite (State.apart_checkTimer _ other) (.refl _ m))
  have resumed : s.Apart m ((s.resumed n).markHouse true) := by
    refine .trans ?_ (State.apart_markHouse _ true)
    unfold State.resumed State.endOpening
    exact State.apart_ite (s.apart_enterRounds other)
      ((s.apart_setCampaign other _).trans (State.apart_ite (State.apart_enterRounds _ other) (.refl _ m)))
  unfold State.checkCampaign
  split
  · exact fun _ _ => rfl
  · exact (State.apart_ite (suspended _) (.refl s m)).loops
  · exact (State.apart_ite (suspended _) (.refl s m)).loops
  · exact (State.apart_ite (.refl s m) resumed).loops

end

/-- What is done to A and then to B: of either manifold, its own act between acts that leave it alone. -/
theorem State.both_apart {f : State → Manifold → State} (apart : ∀ s n m, n ≠ m → State.Apart s m (f s n)) (s : State)
    (m : Manifold) : ∃ u, s.Apart m u ∧ (f u m).Apart m (f (f s .a) .b) := by
  cases m with
  | a => exact ⟨s, .refl s .a, apart _ .b .a Manifold.noConfusion⟩
  | b => exact ⟨f s .a, apart s .a .b Manifold.noConfusion, .refl _ .b⟩

/-! ### A change of the supply's state, heard by the timer and the campaign (R107, R130, R156) -/

section
variable {r s t : State} {m : Manifold}

/-- What a report to the timer says of a state whose supply was in another state than it is. -/
theorem State.Timed.of_moved (h : s.Timed m t) (timer : s.timer m = r.timer m) (campaign : s.campaign m = r.campaign m)
    (moved : (r.channel (supplyChannel m)).state ≠ (t.channel (supplyChannel m)).state) : r.Timed m t := by
  obtain ⟨entered, checked⟩ := h
  rw [campaign] at entered checked
  refine ⟨entered, fun w => ?_⟩
  obtain ⟨freezes, released, runsOn, -⟩ := checked w
  rw [timer] at freezes released runsOn
  exact ⟨freezes, released, runsOn, fun _ same => absurd same.symm moved⟩

/-- A supply reference that is the supply's reading stays so. -/
theorem State.Timed.reference (h : s.Timed m t) (channels : t.channels = s.channels)
    (ref : s.supplyRefs.get m = (s.channel (supplyChannel m)).reading) :
    t.supplyRefs.get m = (t.channel (supplyChannel m)).reading := by
  have supply := State.channel_congr channels (supplyChannel m)
  by_cases entered : (s.campaign m).state ≠ .rounds ∧ (t.campaign m).state = .rounds
  · exact (h.entered entered.1 entered.2).started.supplyRef
  · have checked := h.checked (by tauto)
    by_cases released : t.RoundConditions m ∧ (s.timer m).remaining = none
    · exact (checked.released released.1 released.2).started.supplyRef
    · rw [checked.supplyRef (by tauto) (by rw [supply]), ref, supply]

theorem State.loop_checkTimer_of_fails (fails : ¬s.RoundConditions m) (i : LoopIx) : (s.checkTimer m).loop i = s.loop i := by
  rw [State.checkTimer, if_neg fun runs => fails ((s.timerRuns_iff m).1 runs)]
  split_ifs <;> rfl

/-- An examination that leaves the round's conditions failing, and starts no round, finds them failing and leaves the
loops alone. -/
theorem State.checkCampaign_of_fails (frozen : ¬s.RoundConditions m → (s.timer m).remaining = none)
    (stays : (s.campaign m).state = .rounds ∨ ((s.checkCampaign m).campaign m).state ≠ .rounds)
    (fails : ¬(s.checkCampaign m).RoundConditions m) :
    ¬s.RoundConditions m ∧ ∀ i, (s.checkCampaign m).loop i = s.loop i := by
  rcases State.checkCampaign_forms frozen with same | ⟨c, other, leaves, suspended⟩ | ⟨suspended, u, enters⟩
  · rw [same] at fails ⊢
    exact ⟨fails, fun _ => rfl⟩
  · rw [suspended] at fails ⊢
    have told := (s.setCampaign m c).spares_markHouse true m
    have conditions := told.roundConditions.trans (State.conditions_setCampaign other leaves)
    exact ⟨fun w => fails (conditions.2 w), fun i => ((s.setCampaign m c).mark_records .house 0 true).loop i⟩
  · rcases stays with rounds | left
    · exact CampaignState.noConfusion (rounds.symm.trans suspended)
    · rw [enters, ((u.enterRounds m).spares_markHouse true m).campaign, State.campaign_enterRounds] at left
      exact absurd rfl left

end

/-! ### A loop's record after a scan (R6, R104, R109, R141, R142) -/

section
variable (s : State) (samples : Vector (Option Int) 28)

/-- The channels sampled, the supply references followed and the loops told, before the timers and the campaigns hear. -/
def State.scanTaken : State :=
  (((s.scanned samples).setSupplyRef .a (s.scannedRef (s.scanned samples) .a)).setSupplyRef .b
    (s.scannedRef (s.scanned samples) .b)).takeNews s (s.scanned samples)

/-- The same with both manifolds' supply news. -/
def State.scanTimed : State :=
  ((s.scanTaken samples).supplyNews s (s.scanned samples) .a).supplyNews s (s.scanned samples) .b

/-- The same with the campaigns examined. -/
def State.scanExamined : State :=
  ((s.scanTimed samples).supplyCampaign s (s.scanned samples) .a).supplyCampaign s (s.scanned samples) .b

theorem State.channel_scanned (c : ChannelIx) : (s.scanned samples).channel c = (s.channel c).sample samples[c] := by
  have channels : (s.scanned samples).channels = s.sampled samples := by
    rw [State.scanned, State.mapLoops_channels]
    rfl
  rw [State.channel, channels]
  exact Vector.getElem_ofFn ..

theorem State.loop_scanned (i : LoopIx) :
    (s.scanned samples).loop i = (s.loop i).setDelta ((s.scanned samples).deltaOf i) := by
  have channels : (s.scanned samples).channels = (s.setChannels (s.sampled samples)).channels :=
    State.mapLoops_channels _ _
  have delta : (s.scanned samples).deltaOf i = (s.setChannels (s.sampled samples)).deltaOf i := by
    unfold State.deltaOf
    rw [State.channel_congr channels, State.channel_congr channels]
  rw [delta, State.scanned, State.loop_mapLoops, State.loop_congr (State.setChannels_loops s (s.sampled samples))]

theorem State.loop_scanTaken (i : LoopIx) : (s.scanTaken samples).loop i =
    s.newsOf (s.scanned samples) i ((s.loop i).setDelta ((s.scanned samples).deltaOf i)) := by
  rw [← s.loop_scanned samples, State.scanTaken, State.takeNews, State.loop_mapLoops, State.loop_setSupplyRef,
    State.loop_setSupplyRef]

end

/-- A loop's news (R6, R109, R141). -/
inductive State.NewsOf (s x : State) (i : LoopIx) (l : Loop) : Loop → Prop
  | none (quiet : l.life = .vacant ∨
      ((s.channel (loopChannel i)).state ≠ .fault ∧ (x.channel (loopChannel i)).state ≠ .fault) ∨
      ((s.channel (loopChannel i)).state = .fault ∧ (x.channel (loopChannel i)).state ≠ .ok)) : s.NewsOf x i l l
  | entered (occupied : l.life ≠ .vacant) (before : (s.channel (loopChannel i)).state ≠ .fault)
      (after : (x.channel (loopChannel i)).state = .fault) :
      s.NewsOf x i l ((l.setFaults l.faults.withSensor).rate 0 .excluded)
  | recovered (occupied : l.life ≠ .vacant) (before : (s.channel (loopChannel i)).state = .fault)
      (after : (x.channel (loopChannel i)).state = .ok) : s.NewsOf x i l (l.rate 0 (x.unmeasured i))

theorem State.newsOf_cases (s x : State) (i : LoopIx) (l : Loop) : s.NewsOf x i l (s.newsOf x i l) := by
  unfold State.newsOf
  split_ifs with vacant entered recovered
  · exact .none (.inl (by simpa [Loop.occupied] using vacant))
  · simp only [State.entered, State.sensorFault, Bool.and_eq_true, Bool.not_eq_true', decide_eq_false_iff_not,
      decide_eq_true_eq] at entered
    exact .entered (by simpa [Loop.occupied] using vacant) entered.1 entered.2
  · simp only [State.recovered, State.sensorFault, Bool.and_eq_true, decide_eq_true_eq] at recovered
    exact .recovered (by simpa [Loop.occupied] using vacant) recovered.1 recovered.2
  · simp only [State.entered, State.recovered, State.sensorFault, Bool.and_eq_true, Bool.not_eq_true',
      decide_eq_false_iff_not, decide_eq_true_eq, not_and] at entered recovered
    refine .none (.inr ?_)
    by_cases before : (s.channel (loopChannel i)).state = .fault
    · exact .inr ⟨before, recovered before⟩
    · exact .inl ⟨before, entered before⟩

/-! ### A manifold's supply after a scan (R105 to R107, R130, R134, R156) -/

theorem State.apart_supplyNews (before after : State) (s : State) (n m : Manifold) (other : n ≠ m) :
    s.Apart m (s.supplyNews before after n) :=
  State.apart_ite (s.apart_checkTimer other) (State.apart_ite (s.apart_pauseRound other _) (.refl s m))

theorem State.apart_supplyCampaign (before after : State) (s : State) (n m : Manifold) (other : n ≠ m) :
    s.Apart m (s.supplyCampaign before after n) :=
  State.apart_ite (s.apart_checkCampaign other) (.refl s m)

theorem State.sensorMoved_iff (s x : State) (c : ChannelIx) :
    s.sensorMoved x c = true ↔ (s.channel c).state ≠ (x.channel c).state := decide_eq_true_iff

theorem State.not_drifted {s x : State} {m : Manifold} (close : ∀ r, s.supplyRefs.get m = some r → ∀ n,
    (x.channel (supplyChannel m)).reading = some n → (n - r).natAbs ≤ 15) : s.drifted x m = false := by
  unfold State.drifted
  split
  · next r n ref reading =>
    have near : ¬Config.driftWidth < (n - r).natAbs := Nat.not_lt.2 (close r ref n reading)
    rw [decide_eq_false near, Bool.and_false]
  · rfl

theorem State.drifted_of_far {s x : State} {m : Manifold} {r n : Int} (ref : s.supplyRefs.get m = some r)
    (reading : (x.channel (supplyChannel m)).reading = some n)
    (stays : (s.channel (supplyChannel m)).state = (x.channel (supplyChannel m)).state) (far : 15 < (n - r).natAbs) :
    s.drifted x m = true := by
  have still : s.sensorMoved x (supplyChannel m) = false :=
    Bool.eq_false_iff.2 fun moved => (s.sensorMoved_iff x _).1 moved stays
  unfold State.drifted
  rw [ref, reading]
  simp only [still]
  exact decide_eq_true far

section
variable (s : State) (samples : Vector (Option Int) 28)

/-- What the scan has left of the records when the timers hear of it. -/
theorem State.scanTaken_records : (s.scanTaken samples).drive = s.drive ∧ (s.scanTaken samples).timers = s.timers ∧
    (s.scanTaken samples).campaigns = s.campaigns ∧
      (s.scanTaken samples).channels = (s.scanned samples).channels ∧
      ∀ m, (s.scanTaken samples).supplyRefs.get m = s.scannedRef (s.scanned samples) m := by
  refine ⟨?_, ?_, ?_, ?_, fun m => ?_⟩
  · simp [State.scanTaken, State.takeNews, State.scanned]
  · simp [State.scanTaken, State.takeNews, State.scanned]
  · simp [State.scanTaken, State.takeNews, State.scanned]
  · simp only [State.scanTaken, State.takeNews, State.mapLoops_channels, State.setSupplyRef_channels]
  · rw [State.scanTaken, State.takeNews, State.mapLoops_supplyRefs]
    cases m <;> rfl

/-- A manifold's own part of the supply news, between parts that leave it alone. -/
theorem State.scan_apart (m : Manifold) : ∃ u v : State, (s.scanTaken samples).Apart m u ∧
    (u.supplyNews s (s.scanned samples) m).Apart m v ∧
      (v.supplyCampaign s (s.scanned samples) m).Apart m (s.scanExamined samples) := by
  obtain ⟨u, before, between⟩ :=
    State.both_apart (State.apart_supplyNews s (s.scanned samples)) (s.scanTaken samples) m
  obtain ⟨v, heard, after⟩ :=
    State.both_apart (State.apart_supplyCampaign s (s.scanned samples)) (s.scanTimed samples) m
  exact ⟨u, v, before, between.trans heard, after⟩

variable {s samples} {m : Manifold}

section
variable (moved : (s.channel (supplyChannel m)).state ≠ ((s.scanned samples).channel (supplyChannel m)).state)
include moved

/-- A change of the supply's state (R105, R107, R130, R156). -/
theorem State.scan_moved : (s.scanExamined samples).supplyRefs.get m =
      ((s.scanExamined samples).channel (supplyChannel m)).reading ∧
    s.Examined m (s.scanExamined samples) ∧ s.Timed m (s.scanExamined samples) ∧
    ((s.campaign m).state = .rounds ∨ ((s.scanExamined samples).campaign m).state ≠ .rounds →
      ¬(s.scanExamined samples).RoundConditions m → ∀ i, manifoldOf i = m →
        (s.scanExamined samples).loop i = (s.scanTaken samples).loop i) := by
  obtain ⟨drive, timers, campaigns, channels, refs⟩ := s.scanTaken_records samples
  obtain ⟨u, v, before, between, after⟩ := s.scan_apart samples m
  have moves := (s.sensorMoved_iff (s.scanned samples) _).2 moved
  have news (t : State) : t.supplyNews s (s.scanned samples) m = t.checkTimer m := if_pos moves
  have hears (t : State) : t.supplyCampaign s (s.scanned samples) m = t.checkCampaign m := if_pos moves
  have ref : (s.scanTaken samples).supplyRefs.get m = ((s.scanTaken samples).channel (supplyChannel m)).reading := by
    rw [refs, State.channel_congr channels, State.scannedRef, moves, Bool.true_or, if_pos rfl]
  have supply : (s.channel (supplyChannel m)).state ≠ ((s.scanTaken samples).channel (supplyChannel m)).state := by
    rwa [State.channel_congr channels]
  have campaign : (s.scanTaken samples).campaign m = s.campaign m := congrArg (PerManifold.get · m) campaigns
  have timer : (s.scanTaken samples).timer m = s.timer m := State.timer_congr timers m
  generalize s.scanTaken samples = x at before ref supply drive campaign timer
  generalize s.scanExamined samples = y at after
  rw [news] at between
  rw [hears] at after
  have checked : x.Checked m v := (before.spares.checked (u.checked_checkTimer m)).of_spares between.spares
  have same : v.campaign m = x.campaign m := between.spares.campaign.trans
    ((congrArg (PerManifold.get · m) (u.checkTimer_same m).1).trans before.spares.campaign)
  have timed : x.Timed m y := (checked.timed same).of_spares after.spares
  have channels : y.channels = x.channels := after.spares.channels.trans
    ((v.mild_checkCampaign m).channels.trans (between.spares.channels.trans
      ((u.mild_checkTimer m).channels.trans before.spares.channels)))
  refine ⟨timed.reference channels ref, ?_, timed.of_moved timer campaign (by rwa [State.channel_congr channels]), ?_⟩
  · have moving : v.drive.moving = s.drive.moving := by
      rw [between.grounds.moving, (u.checkTimer_same m).2, before.grounds.moving, drive]
    have dwell : v.drive.dwell = s.drive.dwell := by
      rw [between.grounds.dwell, (u.checkTimer_same m).2, before.grounds.dwell, drive]
    exact ((v.examined_checkCampaign m).of_same after.grounds).of_before (same.trans campaign) moving dwell
  · intro stays fails i own
    rw [after.spares.campaign] at stays
    rw [after.spares.roundConditions] at fails
    have frozen : ¬v.RoundConditions m → (v.timer m).remaining = none := fun w => by rw [checked.freezes w]
    have rounds : (v.campaign m).state = .rounds ∨ ((v.checkCampaign m).campaign m).state ≠ .rounds := by
      rwa [same, campaign]
    obtain ⟨failing, loops⟩ := State.checkCampaign_of_fails frozen rounds fails
    rw [between.spares.roundConditions, u.roundConditions_checkTimer] at failing
    rw [after.loops i own, loops, between.loops i own, State.loop_checkTimer_of_fails failing, before.loops i own]

end

section
variable (stays : (s.channel (supplyChannel m)).state = ((s.scanned samples).channel (supplyChannel m)).state)
include stays

theorem State.scan_unmoved : ∃ u : State, (s.scanTaken samples).Apart m u ∧
    ((if s.drifted (s.scanned samples) m then u.coupling m else u).Apart m (s.scanExamined samples)) := by
  obtain ⟨u, v, before, between, after⟩ := s.scan_apart samples m
  have still : ¬s.sensorMoved (s.scanned samples) (supplyChannel m) = true := fun moved =>
    (s.sensorMoved_iff _ _).1 moved stays
  have news (t : State) : t.supplyNews s (s.scanned samples) m =
    if s.drifted (s.scanned samples) m then t.coupling m else t := if_neg still
  have hears (t : State) : t.supplyCampaign s (s.scanned samples) m = t := if_neg still
  rw [news] at between
  rw [hears] at after
  exact ⟨u, before, between.trans after⟩

/-- A drift is one coupling event of the manifold (R106, R134). -/
theorem State.scan_drifted (drifted : s.drifted (s.scanned samples) m = true) :
    (s.scanExamined samples).supplyRefs.get m = ((s.scanned samples).channel (supplyChannel m)).reading ∧
      (s.scanExamined samples).campaign m = s.campaign m ∧
        (s.scanExamined samples).FreshRound m ((s.timer m).remaining ≠ none) := by
  obtain ⟨-, timers, campaigns, channels, -⟩ := s.scanTaken_records samples
  obtain ⟨u, before, after⟩ := State.scan_unmoved stays
  rw [if_pos drifted] at after
  have runs : u.timerRunning m = true ↔ (s.timer m).remaining ≠ none := by
    rw [State.timerRunning, Option.isSome_iff_ne_none, before.spares.round.timer, State.timer_congr timers]
  have fresh := ((u.freshRound_coupling m).congr runs).of_spares after.spares
  have same : (s.scanExamined samples).channels = (s.scanned samples).channels :=
    after.spares.channels.trans ((u.mild_coupling m).channels.trans (before.spares.channels.trans channels))
  refine ⟨?_, ?_, fresh⟩
  · rw [fresh.started.supplyRef, State.channel_congr same]
  · exact after.spares.campaign.trans ((State.campaign_coupling u m m).trans
      (before.spares.campaign.trans (congrArg (PerManifold.get · m) campaigns)))

/-- A supply that stays near its reference is no news (R106). -/
theorem State.scan_steady (steady : s.drifted (s.scanned samples) m = false) :
    (s.scanExamined samples).supplyRefs.get m = s.supplyRefs.get m ∧
      (s.scanExamined samples).timer m = s.timer m ∧ (s.scanExamined samples).campaign m = s.campaign m ∧
        ∀ i, manifoldOf i = m → (s.scanExamined samples).loop i = (s.scanTaken samples).loop i := by
  obtain ⟨-, timers, campaigns, -, refs⟩ := s.scanTaken_records samples
  obtain ⟨u, before, after⟩ := State.scan_unmoved stays
  rw [steady] at after
  have apart := before.trans after
  have still : s.sensorMoved (s.scanned samples) (supplyChannel m) = false :=
    Bool.eq_false_iff.2 fun moved => (s.sensorMoved_iff _ _).1 moved stays
  have ref : s.scannedRef (s.scanned samples) m = s.supplyRefs.get m := by
    rw [State.scannedRef, still, steady, Bool.or_false, if_neg Bool.false_ne_true]
  exact ⟨apart.spares.round.supplyRef.trans ((refs m).trans ref),
    apart.spares.round.timer.trans (State.timer_congr timers m),
    apart.spares.campaign.trans (congrArg (PerManifold.get · m) campaigns), apart.loops⟩

end
end

/-! ### The whole of a scan -/

section
variable (s : State) (samples : Vector (Option Int) 28)

theorem State.scan_records : (s.scanExamined samples).SameRecords (s.scan samples) := by
  have sensors (t : State) : t.SameRecords (t.markSensors s (s.scanned samples)) :=
    State.forEach_rel State.SameRecords.refl (fun _ _ _ => State.SameRecords.trans)
      (fun u i => ((u.records_markLoopIf _ i _).trans (State.records_markLoopIf _ _ i _)).trans
        (State.records_markLoopIf _ _ i _)) allLoops t
  have marks (t : State) (c : Bool) (m : Manifold) : t.SameRecords (t.markManifoldIf c m) := by
    unfold State.markManifoldIf
    split_ifs
    · exact t.mark_records _ _ _
    · exact .refl t
  have manifold (t : State) (m : Manifold) : t.SameRecords (t.markManifold s (s.scanned samples) m) :=
    (marks t _ m).trans (marks _ _ m)
  exact ((sensors _).trans (manifold _ .a)).trans (manifold _ .b)

theorem State.mild_scanExamined : (s.scanTaken samples).Mild (s.scanExamined samples) := by
  have news (t : State) (m : Manifold) : t.Mild (t.supplyNews s (s.scanned samples) m) :=
    State.mild_ite (t.mild_checkTimer m) (State.mild_ite (t.mild_coupling m) (.refl t))
  have hears (t : State) (m : Manifold) : t.Mild (t.supplyCampaign s (s.scanned samples) m) :=
    State.mild_ite (t.mild_checkCampaign m) (.refl t)
  exact (((news _ .a).trans (news _ .b)).trans (hears _ .a)).trans (hears _ .b)

theorem State.sameDemand_scanExamined : (s.scanTaken samples).SameDemand (s.scanExamined samples) := by
  have news (t : State) (m : Manifold) : t.SameDemand (t.supplyNews s (s.scanned samples) m) :=
    State.sameDemand_ite (fun _ => t.sameDemand_checkTimer m) fun _ =>
      State.sameDemand_ite (fun _ => t.sameDemand_coupling m) fun _ => .refl t
  have hears (t : State) (m : Manifold) : t.SameDemand (t.supplyCampaign s (s.scanned samples) m) :=
    State.sameDemand_ite (fun _ => t.sameDemand_checkCampaign m) fun _ => .refl t
  exact (((news _ .a).trans (news _ .b)).trans (hears _ .a)).trans (hears _ .b)

theorem State.counted_scanExamined : (s.scanTaken samples).Counted (s.scanExamined samples) := by
  have news (t : State) (m : Manifold) : t.Counted (t.supplyNews s (s.scanned samples) m) :=
    State.counted_ite (t.counted_checkTimer m) (State.counted_ite (t.counted_coupling m) (.refl t))
  have hears (t : State) (m : Manifold) : t.Counted (t.supplyCampaign s (s.scanned samples) m) :=
    State.counted_ite (t.counted_checkCampaign m) (.refl t)
  exact (((news _ .a).trans (news _ .b)).trans (hears _ .a)).trans (hears _ .b)

theorem State.drive_scanExamined : (s.scanExamined samples).drive = (s.scanTaken samples).drive := by
  have news (t : State) (m : Manifold) : (t.supplyNews s (s.scanned samples) m).drive = t.drive := by
    unfold State.supplyNews
    split_ifs
    · exact (t.checkTimer_same m).2
    · exact t.drive_coupling m
    · rfl
  have hears (t : State) (m : Manifold) : (t.supplyCampaign s (s.scanned samples) m).drive = t.drive := by
    unfold State.supplyCampaign
    split_ifs
    · exact t.drive_checkCampaign m
    · rfl
  rw [State.scanExamined, hears, hears, State.scanTimed, news, news]

theorem State.beside_scanTaken : (s.scanTaken samples).powered = s.powered ∧ (s.scanTaken samples).rooms = s.rooms ∧
    (s.scanTaken samples).floorList = s.floorList ∧ (s.scanTaken samples).floorShort = s.floorShort ∧
      (s.scanTaken samples).house = s.house ∧ (s.scanTaken samples).storage = s.storage ∧
        (s.scanTaken samples).link = s.link ∧ (s.scanTaken samples).pending = s.pending := by
  simp [State.scanTaken, State.takeNews, State.scanned]

theorem State.link_scan : (s.scan samples).link = s.link := by
  obtain ⟨-, -, -, -, -, -, link, -⟩ := s.beside_scanTaken samples
  refine .trans ?_ ((s.mild_scanExamined samples).link.trans link)
  exact (((State.steps_forEach (f := fun t i => t.tellNews s (s.scanned samples) i) _ allLoops fun t i =>
    t.steps_tellNews _ _ i).trans (State.steps_markManifold _ _ _ .a)).trans
      (State.steps_markManifold _ _ _ .b)).calm.link

/-- A loop's record after a scan, but for what the scan writes (R104, R6, R141). -/
theorem State.NewsOf.rest {s x : State} {i : LoopIx} {l k y : Loop} {d : Option Int} (h : s.NewsOf x i (l.setDelta d) k)
    (counted : k.Counted y) : { y with
      deltaT := l.deltaT, faults := l.faults, inBand := l.inBand, balance := l.balance, openCounter := l.openCounter } = l ∧
    y.deltaT = d := by
  rcases counted with same | zeroed
  · rw [same]
    cases h <;> exact ⟨rfl, rfl⟩
  · rw [zeroed]
    cases h <;> exact ⟨rfl, rfl⟩

theorem State.NewsOf.counter {s x : State} {i : LoopIx} {l k : Loop} {d : Option Int} (h : s.NewsOf x i (l.setDelta d) k) :
    k.openCounter = l.openCounter := by cases h <;> rfl

theorem State.openCounter_scanTaken (s : State) (samples : Vector (Option Int) 28) (i : LoopIx) :
    ((s.scanTaken samples).loop i).openCounter = (s.loop i).openCounter := by
  have news := s.newsOf_cases (s.scanned samples) i ((s.loop i).setDelta ((s.scanned samples).deltaOf i))
  rw [s.loop_scanTaken samples]
  exact news.counter

theorem State.NewsOf.of_entered {s x : State} {i : LoopIx} {l k : Loop} (h : s.NewsOf x i l k) (occupied : l.life ≠ .vacant)
    (before : (s.channel (loopChannel i)).state ≠ .fault) (after : (x.channel (loopChannel i)).state = .fault) :
    k = (l.setFaults l.faults.withSensor).rate 0 .excluded := by
  cases h with
  | none quiet => rcases quiet with vacant | ⟨-, fine⟩ | ⟨fault, -⟩ <;> contradiction
  | entered => rfl
  | recovered _ fault => exact absurd fault before

theorem State.NewsOf.of_recovered {s x : State} {i : LoopIx} {l k : Loop} (h : s.NewsOf x i l k)
    (occupied : l.life ≠ .vacant) (before : (s.channel (loopChannel i)).state = .fault)
    (after : (x.channel (loopChannel i)).state = .ok) : k = l.rate 0 (x.unmeasured i) := by
  cases h with
  | none quiet => rcases quiet with vacant | ⟨fine, -⟩ | ⟨-, down⟩ <;> contradiction
  | entered _ fine => exact absurd before fine
  | recovered => rfl

theorem State.NewsOf.of_none {s x : State} {i : LoopIx} {l k : Loop} (h : s.NewsOf x i l k)
    (quiet : l.life = .vacant ∨
      ((s.channel (loopChannel i)).state ≠ .fault ∧ (x.channel (loopChannel i)).state ≠ .fault) ∨
      ((s.channel (loopChannel i)).state = .fault ∧ (x.channel (loopChannel i)).state = .fault)) : k = l := by
  cases h with
  | none => rfl
  | entered occupied before after => rcases quiet with vacant | ⟨-, fine⟩ | ⟨fault, -⟩ <;> contradiction
  | recovered occupied before after =>
    rcases quiet with vacant | ⟨fine, -⟩ | ⟨-, fault⟩
    · exact absurd vacant occupied
    · exact absurd before fine
    · exact SensorState.noConfusion (after.symm.trans fault)

theorem State.deltaOf_some {x : State} {i : LoopIx} {supply back : Int}
    (forward : (x.channel (supplyChannel (manifoldOf i))).reading = some supply)
    (returned : (x.channel (loopChannel i)).reading = some back) : x.deltaOf i = some (supply - back) := by
  rw [State.deltaOf, forward, returned]

theorem State.deltaOf_none {x : State} {i : LoopIx} (missing : (x.channel (supplyChannel (manifoldOf i))).reading = none ∨
    (x.channel (loopChannel i)).reading = none) : x.deltaOf i = none := by
  unfold State.deltaOf
  split
  · next forward returned => rcases missing with missing | missing <;> simp_all
  · rfl

/-- An occupied loop's status where its channel has recovered (R142). -/
theorem State.unmeasured_of_ok {x : State} {i : LoopIx} (occupied : (x.loop i).life ≠ .vacant)
    (ok : (x.channel (loopChannel i)).state = .ok) :
    x.unmeasured i = if (x.loop i).owner = .service then .excluded else .unmeasured := by
  have fine : x.sensorFault i = false := decide_eq_false (by rw [ok]; exact SensorState.noConfusion)
  have held : (x.loop i).occupied = true := decide_eq_true occupied
  simp [State.unmeasured, fine, held]

theorem Loop.Counted.judgement {l x : Loop} (h : l.Counted x) : x.faults = l.faults ∧ x.balance = l.balance ∧
    x.inBand = l.inBand := by
  rcases h with rfl | rfl <;> exact ⟨rfl, rfl, rfl⟩

/-- The judgement a scan leaves a loop, by its channel's news (R6, R109, R141, R142). -/
theorem State.NewsOf.judgement {s x : State} {i : LoopIx} {l k y : Loop} {d : Option Int}
    (h : s.NewsOf x i (l.setDelta d) k) (counted : k.Counted y) (own : x.loop i = l.setDelta d) :
    (l.life ≠ .vacant → (s.channel (loopChannel i)).state ≠ .fault → (x.channel (loopChannel i)).state = .fault →
      y.faults = { l.faults with sensor := true } ∧ y.balance = .excluded ∧ y.inBand = 0) ∧
    (l.life ≠ .vacant → (s.channel (loopChannel i)).state = .fault → (x.channel (loopChannel i)).state = .ok →
      y.faults = l.faults ∧ y.inBand = 0 ∧ y.balance = if l.owner = .service then .excluded else .unmeasured) ∧
    (l.life = .vacant ∨
        ((s.channel (loopChannel i)).state ≠ .fault ∧ (x.channel (loopChannel i)).state ≠ .fault) ∨
        ((s.channel (loopChannel i)).state = .fault ∧ (x.channel (loopChannel i)).state = .fault) →
      y.faults = l.faults ∧ y.balance = l.balance ∧ y.inBand = l.inBand) := by
  obtain ⟨faults, balance, inBand⟩ := Loop.Counted.judgement counted
  rw [faults, balance, inBand]
  refine ⟨fun occupied before after => ?_, fun occupied before after => ?_, fun quiet => ?_⟩
  · rw [h.of_entered occupied before after]
    exact ⟨rfl, rfl, rfl⟩
  · rw [h.of_recovered occupied before after, State.unmeasured_of_ok (by rw [own]; exact occupied) after, own]
    exact ⟨rfl, rfl, rfl⟩
  · rw [h.of_none quiet]
    exact ⟨rfl, rfl, rfl⟩

end

theorem exec_scanCompletion_next {s : State} (p : s.powered = true) (samples : Vector (Option Int) 28) :
    exec (.scanCompletion samples) s = .next (s.scan samples).serve.tellWatches := by
  rw [exec_scanCompletion, execScanCompletion, event_next p]

end Sys2Proof.Machine

open Sys2Proof Sys2Proof.Machine

/-- Settles O42: the channels, then the loops, then each manifold's supply. -/
theorem scanCompletionReadsEveryChannel : Obligations.ScanCompletionReadsEveryChannel := by
  intro s samples p start
  obtain ⟨drive, -, -, channels, -⟩ := s.scanTaken_records samples
  obtain ⟨powered, rooms, floorList, floorShort, house, storage, -, pending⟩ := s.beside_scanTaken samples
  have mild := s.mild_scanExamined samples
  have short := (s.sameDemand_scanExamined samples).strokes.short
  have records := s.scan_records samples
  have drives := records.drive.trans ((s.drive_scanExamined samples).trans drive)
  have still : (s.scan samples).serve = s.scan samples :=
    State.serve_of_startLaw (State.startLaw_congr (s := s) drives start)
  have told := records.trans (s.scan samples).tellWatches_records
  have step := exec_scanCompletion_next p samples
  rw [still] at step
  have kept := State.linkKept_told (s.link_scan samples)
  have all := told.channels.trans (mild.channels.trans channels)
  refine ⟨_, step, kept, ?_⟩
  generalize (s.scan samples).tellWatches = t at told all
  have channel := State.channel_congr all
  refine ⟨told.powered.trans (mild.powered.trans powered), told.rooms.trans (mild.rooms.trans rooms),
    told.floorList.trans (mild.floorList.trans floorList), told.floorShort.trans (short.trans floorShort),
    told.house.trans (mild.house.trans house), told.storage.trans (mild.storage.trans storage),
    told.drive.trans ((s.drive_scanExamined samples).trans drive), told.pending.trans (mild.pending.trans pending),
    fun c => (channel c).trans (s.channel_scanned samples c), fun i => ?_,
    fun m => ⟨fun moved => ?_, fun stays => ⟨fun r ref n reading far => ?_, fun close => ?_⟩⟩⟩
  · have news := s.newsOf_cases (s.scanned samples) i ((s.loop i).setDelta ((s.scanned samples).deltaOf i))
    rw [← s.loop_scanTaken samples] at news
    have counted := (s.counted_scanExamined samples).loop i
    rw [← told.loop] at counted
    obtain ⟨rest, delta⟩ := news.rest counted
    rw [channel, channel, delta]
    exact ⟨rest, fun supply forward back returned => State.deltaOf_some forward returned, State.deltaOf_none,
      news.judgement counted (s.loop_scanned samples i)⟩
  · rw [channel] at moved ⊢
    obtain ⟨ref, examined, timed, loops⟩ := State.scan_moved moved
    have spares := told.spares m
    have read := State.channel_congr spares.channels (supplyChannel m)
    refine ⟨?_, examined.of_same (told.grounds m), timed.of_spares spares, fun rounds fails i own => ?_⟩
    · rw [spares.round.supplyRef, ref, ← read, channel]
    · rw [spares.campaign] at rounds
      rw [spares.roundConditions] at fails
      rw [told.loop, loops rounds fails i own, s.openCounter_scanTaken samples]
  · rw [channel] at stays reading
    obtain ⟨moves, campaign, fresh⟩ := State.scan_drifted stays (State.drifted_of_far ref reading stays far)
    have spares := told.spares m
    exact ⟨spares.round.supplyRef.trans (moves.trans reading), spares.campaign.trans campaign, fresh.of_spares spares⟩
  · simp only [channel] at stays close
    obtain ⟨ref, timer, campaign, loops⟩ := State.scan_steady stays (State.not_drifted close)
    have spares := told.spares m
    refine ⟨spares.round.supplyRef.trans ref, spares.round.timer.trans timer, spares.campaign.trans campaign,
      fun i own => ?_⟩
    rw [told.loop, loops i own, s.openCounter_scanTaken samples]
end

section
/-! PROOF. O27: the start of campaigns (R150 to R152, R156): strokes of an open campaign's manifold, its work through the start of a move, and each named manifold's start. -/

namespace Sys2Proof.Machine

/-! ### Strokes of a manifold whose campaign is open (R113, R120) -/

/-- The campaign of a manifold is open, and its READY loops are commanded what R113 gives them then; no other loop's
demand changes that. -/
structure State.OpenStrokes (s : State) (m : Manifold) : Prop where
  opened : (s.campaign m).state ≠ .idle
  settled : ∀ i, manifoldOf i = m → (s.loop i).life = .ready → (s.loop i).commanded = s.baseStroke i

theorem State.baseStroke_opened {s : State} {i : LoopIx} (opened : (s.campaign (manifoldOf i)).state ≠ .idle)
    (ready : (s.loop i).life = .ready) : s.baseStroke i = if (s.loop i).owner = .service then (s.loop i).override
      else if s.house.season = .standby then 0 else (s.loop i).ceiling := by
  unfold State.baseStroke
  dsimp only
  rw [if_neg (not_not.2 ready), (s.campaignOpen_iff (manifoldOf i)).2 opened]
  rfl

/-- A loop of a manifold whose campaign is open is not held for the flow floor (R121). -/
theorem State.stroke_recompute_opened {s : State} {i : LoopIx} (opened : (s.campaign (manifoldOf i)).state ≠ .idle) :
    (s.recompute.loop i).commanded = s.baseStroke i := by
  rw [State.stroke_recompute_of_held]
  refine if_neg fun held => ?_
  rw [State.held_recompute] at held
  obtain ⟨-, -, -, idle, -⟩ := (s.canHelp_iff i).1 (s.floorWalk_held held).1
  exact opened idle

theorem State.openStrokes_recompute {s : State} {m : Manifold} (opened : (s.campaign m).state ≠ .idle) :
    s.recompute.OpenStrokes m := by
  have quiet := s.quiet_recompute
  have campaign : s.recompute.campaign m = s.campaign m := congrArg (PerManifold.get · m) quiet.campaigns
  refine ⟨by rw [campaign]; exact opened, fun i own ready => ?_⟩
  subst own
  have steady := quiet.loops i
  have config := steady.config
  rw [State.stroke_recompute_opened opened, State.baseStroke_opened opened (steady.kept.life.symm.trans ready),
    State.baseStroke_opened (by rw [campaign]; exact opened) ready, config.owner, config.override, config.ceiling,
    quiet.house]

section
variable {s t : State} {m : Manifold} (h : s.OpenStrokes m)
include h

theorem State.OpenStrokes.stroke {i : LoopIx} (own : manifoldOf i = m) (ready : (s.loop i).life = .ready) :
    (s.recompute.loop i).commanded = (s.loop i).commanded := by
  rw [h.settled i own ready, State.stroke_recompute_opened (own ▸ h.opened)]

/-- What leaves the READY loops of the manifold, the season and the open campaign. -/
theorem State.OpenStrokes.of_loops (opened : (t.campaign m).state ≠ .idle) (season : t.house.season = s.house.season)
    (loops : ∀ i, manifoldOf i = m → (t.loop i).life = .ready → (s.loop i).SameAim (t.loop i)) : t.OpenStrokes m := by
  refine ⟨opened, fun i own ready => ?_⟩
  have aim := loops i own ready
  have before : (s.loop i).life = .ready := aim.life.symm.trans ready
  have config := aim.config
  have was := h.opened
  subst own
  rw [aim.stroke, h.settled i rfl before, State.baseStroke_opened was before, State.baseStroke_opened opened ready,
    config.owner, config.override, config.ceiling, season]

theorem State.OpenStrokes.of_demand (g : s.SameDemand t) : t.OpenStrokes m := by
  refine h.of_loops ?_ g.inputs.season fun i own ready =>
    ⟨g.inputs.life i, g.inputs.config i, g.strokes.stroke i, g.strokes.held i⟩
  rw [← State.campaignOpen_iff, g.inputs.campaigns, State.campaignOpen_iff]
  exact h.opened

/-! ### A loop with no want and no waiting entry, beside a recompute and a move's end -/

variable {j : LoopIx} (own : manifoldOf j = m) (free : State.Unqueued j s)
include own free

theorem State.OpenStrokes.unqueued_recompute : State.Unqueued j s.recompute := by
  by_cases ready : (s.loop j).life = .ready
  · have evaluated : State.Unqueued j s.evaluated :=
      free.of_eq (by rw [State.evaluated, State.loop_setFloorShort, State.loop_mapLoops]; rfl) rfl
    have stays : (s.loop j).commanded = (s.evaluated.loop j).commanded := by
      rw [← s.sameStrokes_recompute.stroke j, h.stroke own ready]
    have handed : State.Unqueued j (s.evaluated.handStrokes s s.evaluated) := by
      refine State.forEach_keeps (P := State.Unqueued j) (fun t i g => ?_) allLoops _ evaluated
      split_ifs with moved
      · exact State.Unqueued.takeStroke_ne g fun self => moved.2 (self ▸ stays)
      · exact g
    have short : State.Unqueued j ((s.evaluated.handStrokes s s.evaluated).tellShort s s.evaluated) := by
      unfold State.tellShort
      split_ifs
      · exact handed
      · exact handed.of_eq rfl rfl
    unfold State.recompute State.tellStrokes
    exact State.forEach_keeps (P := State.Unqueued j) (fun t i g => State.Unqueued.markLoopIf g _ i _) allLoops _ short
  · exact free.recompute ready

end

/-! ### A manifold with no work, through the end of another loop's move -/

section
variable {s : State} {j : LoopIx}

theorem State.Unqueued.of_records {t : State} (h : State.Unqueued j s) (g : s.SameRecords t) : State.Unqueued j t :=
  h.of_eq (by rw [g.loop]) (by rw [g.drive])

theorem State.Unqueued.of_queue {t : State} (h : State.Unqueued j s) (want : (t.loop j).want = (s.loop j).want)
    (within : ∀ e ∈ t.drive.queue, e ∈ s.drive.queue) : State.Unqueued j t := by
  refine ⟨want.trans h.want, (t.queued_eq_false j).2 fun e mem => ?_⟩
  exact (s.queued_eq_false j).1 h.queued e (within e mem)

theorem State.Unqueued.clearWork (h : State.Unqueued j s) (i : LoopIx) : State.Unqueued j (s.clearWork i) := by
  by_cases self : j = i
  · rw [self]
    exact s.unqueued_clearWork i
  · refine h.of_queue ?_ fun e mem => List.mem_of_mem_filter mem
    rw [State.clearWork, State.loop_modLoop_ne _ self]
    rfl

theorem State.dropWork_records (s : State) (i : LoopIx) :
    ((s.clearWork i).examineOpening (manifoldOf i)).SameRecords (s.dropWork i) :=
  ((State.records_markLoopIf _ _ i _).trans (State.records_markLoopIf _ _ i _)).trans (State.markHouseIf_records _ _ _)

/-- The loops' commanded strokes and what a recompute reads are left by the removal of a loop's work. -/
theorem State.sameDemand_dropWork (s : State) (i : LoopIx) : s.SameDemand (s.dropWork i) :=
  ((s.sameDemand_clearWork i).trans (State.sameDemand_examineOpening _ _)).trans (s.dropWork_records i).sameDemand

theorem State.OpenStrokes.unqueued_lifeChanged {m : Manifold} (h : s.OpenStrokes m) (own : manifoldOf j = m)
    (free : State.Unqueued j s) (i : LoopIx) (old : Lifecycle) : State.Unqueued j (s.lifeChanged i old) := by
  have told := ((h.unqueued_recompute own free).couplingIf (s.crossed i old) (manifoldOf i)).recount i
  unfold State.lifeChanged State.examineOpeningIf
  split_ifs
  · exact (told.examineOpening _).of_eq (by rw [State.loop_markLoop]) rfl
  · exact told.of_eq (by rw [State.loop_markLoop]) rfl

/-- A loop with no work has none once another has become VACANT, where its campaign is open: the recompute that follows
changes no stroke of its manifold. -/
theorem State.OpenStrokes.unqueued_becomeVacant {m : Manifold} {i : LoopIx} (h : s.OpenStrokes m)
    (own : manifoldOf j = m) (free : State.Unqueued j (s.clearWork i)) (other : j ≠ i) :
    State.Unqueued j (s.becomeVacant i) := by
  have dropped : State.Unqueued j (s.dropWork i) := (free.examineOpening (manifoldOf i)).of_records (s.dropWork_records i)
  have strokes := h.of_demand (s.sameDemand_dropWork i)
  unfold State.becomeVacant
  generalize s.dropWork i = u at dropped strokes
  have vacated : State.Unqueued j ((u.dropMember i).modLoop i Loop.vacated) :=
    dropped.of_eq (by rw [State.loop_modLoop_ne _ other, State.loop_dropMember]) rfl
  have open_ : ((u.dropMember i).modLoop i Loop.vacated).OpenStrokes m := by
    refine strokes.of_loops strokes.opened rfl fun k own ready => ?_
    by_cases self : k = i
    · rw [self, State.loop_modLoop_self] at ready
      exact Lifecycle.noConfusion ready
    · rw [State.loop_modLoop_ne _ self, State.loop_dropMember]
      exact .refl _
  have changed := open_.unqueued_lifeChanged own vacated i (s.loop i).life
  generalize ((u.dropMember i).modLoop i Loop.vacated).lifeChanged i (s.loop i).life = v at changed
  exact (changed.of_eq (by rw [State.loop_markRoomOf]) (by cases (s.loop i).room <;> rfl)).fill

/-- A move's end wants nothing of a loop that is not READY, nor of one that is not the move's (R87). -/
theorem State.Unqueued.takeEnd (h : State.Unqueued j s) {x : Move} (unheld : s.drive.state ≠ .holding)
    (aims : j ≠ x.loop ∨ (s.loop j).life ≠ .ready) (e : MoveEnd) (r : Option EndReason) :
    State.Unqueued j (s.takeEnd x e r false) := by
  have stopped : State.Unqueued j (s.stopRunning x e r) := h.of_eq (by rw [State.loop_stopRunning]) rfl
  have life : ((s.stopRunning x e r).loop j).life = (s.loop j).life := by rw [State.loop_stopRunning]
  have state : (s.stopRunning x e r).drive.state = s.drive.state := rfl
  unfold State.takeEnd State.holdAtEnd
  rw [if_neg (by simp [state, unheld])]
  generalize s.stopRunning x e r = u at stopped life
  have aimed : State.Unqueued j (u.wantAim x.loop) := by
    unfold State.wantAim
    split
    · split_ifs with away
      · rcases aims with other | unready
        · exact stopped.want_ne other _
        · refine stopped.want_ne (fun self => ?_) _
          rw [← self, life] at away
          exact unready away.1
      · exact stopped
    · exact stopped
  exact ((aimed.modLoop x.loop (f := fun l => l.setPending none) fun _ => rfl).examineOpening _).markLoopIf _ _ _

theorem State.Unqueued.arrives (h : State.Unqueued j s) (x : Move) (n : Nat) (driven : Bool) :
    State.Unqueued j (s.arrives x n driven) := by
  have stopped : State.Unqueued j (s.stopRunning x .done none) := h.of_eq (by rw [State.loop_stopRunning]) rfl
  exact (stopped.modLoop x.loop (f := fun l => l.arrived n driven) fun _ => rfl).recount x.loop

theorem State.sameDemand_arrives (s : State) (x : Move) (n : Nat) (driven : Bool) :
    s.SameDemand (s.arrives x n driven) :=
  ((State.sameDemand_stopRunning s x .done none).trans (State.sameDemand_modLoop _ x.loop
    (f := fun l => l.arrived n driven) fun _ => ⟨rfl, ⟨rfl, rfl, rfl, rfl, rfl, rfl⟩, rfl, rfl⟩)).trans
      (State.sameDemand_recount _ x.loop)

/-- The head entry's move taken up leaves another loop without work. -/
theorem State.Unqueued.taken_up (h : State.Unqueued j s) {e : Entry} {rest : List Entry}
    (queue : s.drive.queue = e :: rest) (x : Move) :
    j ≠ e.loop ∧ State.Unqueued j (((s.setQueue rest).begun e.move).setMoving (some x)) := by
  have other : j ≠ e.loop := fun self =>
    (s.queued_eq_false j).1 h.queued e (by rw [queue]; exact List.mem_cons_self) self.symm
  have same : ((s.setQueue rest).begun e.move).loop j = s.loop j := State.loop_begun_ne (s.setQueue rest) e.move other
  rw [State.begun_eq, State.loop_fill] at same
  have drive := (s.setQueue rest).drive_takenUp e.move
  refine ⟨other, ?_⟩
  rw [State.begun_eq]
  generalize (s.setQueue rest).takenUp e.move = u at same drive
  have up : State.Unqueued j u := h.of_queue (by rw [same]) fun f mem => by
    rw [drive] at mem
    rw [queue]
    exact List.mem_cons_of_mem e mem
  exact up.fill.of_eq (by rw [State.loop_setMoving]) (State.setMoving_drive_queue _ _)

end

/-! ### Work of a manifold through the start of a move, its campaign open (R83, R152) -/

theorem State.Still.unqueued {s : State} {m : Manifold} (h : s.Still m) {j : LoopIx} (own : manifoldOf j = m) :
    State.Unqueued j s := by
  obtain ⟨want, waits, -⟩ := h j own
  exact ⟨want, (s.queued_eq_false j).2 waits⟩

theorem State.still_of_unqueued {s : State} {m : Manifold} (free : ∀ j, manifoldOf j = m → State.Unqueued j s)
    (moving : ∀ x, s.drive.moving = some x → manifoldOf x.loop ≠ m) : s.Still m := fun j own =>
  ⟨(free j own).want, (s.queued_eq_false j).1 (free j own).queued, fun x moves self => moving x moves (self ▸ own)⟩

/-- An examination that takes a campaign from OPENING to ROUNDS has found no work of its manifold. -/
theorem State.still_of_examined {s : State} {n m : Manifold} (opening : (s.campaign m).state = .opening)
    (rounds : ((s.examineOpening n).campaign m).state = .rounds) : s.Still m := by
  have stays (same : (s.examineOpening n).campaign m = s.campaign m) : False := by
    rw [same, opening] at rounds
    exact CampaignState.noConfusion rounds
  by_cases own : n = m
  · subst own
    by_cases ended : (s.campaign n).state = .opening ∧ s.openingOver n = true
    · exact (s.openingOver_iff n).1 ended.2
    · exact (stays (by rw [State.campaign_examineOpening, if_neg ended])).elim
  · refine (stays ?_).elim
    unfold State.examineOpening
    split_ifs
    · exact ((s.spares_enterRounds own).trans (State.spares_markHouse _ true m)).campaign
    · rfl

theorem State.still_examineOpening {s : State} {m : Manifold} (h : s.Still m) (n : Manifold) :
    (s.examineOpening n).Still m :=
  (State.Counted.still (s.counted_examineOpening n) (s.drive_examineOpening n) m).2 h

/-- A move's end that takes a campaign from OPENING to ROUNDS leaves no work of its manifold (R86, R152). -/
theorem State.still_takeEnd_entered {s : State} {x : Move} {e : MoveEnd} {r : Option EndReason} {m : Manifold}
    (unheld : s.drive.state ≠ .holding) (opening : (s.campaign m).state = .opening)
    (rounds : ((s.takeEnd x e r false).campaign m).state = .rounds) : (s.takeEnd x e r false).Still m := by
  have stopped := s.spares_stopRunning x e r m
  have state := stopped.driveState
  unfold State.takeEnd State.holdAtEnd at rounds ⊢
  rw [if_neg (by simp [state, unheld])] at rounds ⊢
  have aimed := (State.quiet_aim (s.stopRunning x e r) x.loop).spares (State.steps_aim _ x.loop) m
  have campaign := (stopped.trans aimed).campaign
  generalize (s.stopRunning x e r).aim x.loop = u at rounds campaign ⊢
  have told := (u.examineOpening (manifoldOf x.loop)).records_markLoopIf (s.loop x.loop).pendingTarget.isSome x.loop false
  rw [(told.spares m).campaign] at rounds
  rw [State.still_records told]
  exact State.still_examineOpening (State.still_of_examined (by rw [campaign, opening]) rounds) _

/-- What follows the removal of a loop's work, where it becomes VACANT, leaves campaigns and rounds alone. -/
theorem State.spares_becomeVacant {s : State} {i : LoopIx} (unready : (s.loop i).life ≠ .ready) (m : Manifold) :
    (s.dropWork i).Spares m (s.becomeVacant i) := by
  unfold State.becomeVacant
  refine .trans ?_ ((State.quiet_fill _).spares (State.steps_fill _) m)
  refine .trans ?_ ((State.quiet_markRoomOf _ _).spares (State.steps_markRoomOf _ _) m)
  refine .trans ?_ (State.spares_lifeChanged ?_ m)
  · refine .trans (t := (s.dropWork i).dropMember i) ?_ ?_
    · exact ⟨rfl, ⟨rfl, rfl⟩, rfl, rfl, rfl, fun _ => id⟩
    · exact State.spares_modLoop _ i (f := Loop.vacated) (fun _ _ => rfl) m
  · rw [State.crossed, State.loop_modLoop_self, decide_eq_false unready]
    rfl

section
variable {s : State} {m : Manifold} {x : Move} (unmarked : (s.loop x.loop).restartMark = false)
  (running : s.drive.state = .running) (strokes : s.OpenStrokes m) (n : Nat)
include unmarked running strokes

theorem State.OpenStrokes.unqueued_moveDone {j : LoopIx} (own : manifoldOf j = m) (free : State.Unqueued j s)
    (other : j ≠ x.loop) : State.Unqueued j (s.moveDone x n false) := by
  have state : (s.arrives x n false).drive.state = .running := (s.driveState_arrives x n false).trans running
  have arrived := free.arrives x n false
  by_cases stays : x.kind ≠ .park ∨ (s.loop x.loop).life ≠ .retiring
  · rw [State.moveDone_of_stays unmarked n false stays]
    exact (arrived.takeEnd (by rw [state]; exact DriveState.noConfusion) (.inl other) .done none).markLoopIf _ _ _
  · simp only [ne_eq, not_or, not_not] at stays
    rw [State.moveDone_of_retires n false stays.1 stays.2]
    have open_ := strokes.of_demand (s.sameDemand_arrives x n false)
    have vacates := (s.arrives x n false).vacates_becomeVacant x.loop
    have vacant := open_.unqueued_becomeVacant own (arrived.clearWork x.loop) other
    exact (vacant.takeEnd (by rw [vacates.state, state]; exact DriveState.noConfusion) (.inl other) .done
      none).markLoopIf _ _ _

/-- A move DONE that takes a campaign from OPENING to ROUNDS leaves no work of its manifold. -/
theorem State.OpenStrokes.still_moveDone_entered (opening : (s.campaign m).state = .opening)
    (rounds : ((s.moveDone x n false).campaign m).state = .rounds) : (s.moveDone x n false).Still m := by
  have state : (s.arrives x n false).drive.state = .running := (s.driveState_arrives x n false).trans running
  have campaign := (s.spares_arrives x n false m).campaign
  by_cases stays : x.kind ≠ .park ∨ (s.loop x.loop).life ≠ .retiring
  · rw [State.moveDone_of_stays unmarked n false stays] at rounds ⊢
    have told := ((s.arrives x n false).takeEnd x .done none false).records_markLoopIf
      ((s.loop x.loop).headMoved (((s.arrives x n false).takeEnd x .done none false).loop x.loop)) x.loop false
    rw [State.tellHead, (told.spares m).campaign] at rounds
    rw [State.tellHead, State.still_records told]
    exact State.still_takeEnd_entered (by rw [state]; exact DriveState.noConfusion) (by rw [campaign, opening]) rounds
  · simp only [ne_eq, not_or, not_not] at stays
    rw [State.moveDone_of_retires n false stays.1 stays.2] at rounds ⊢
    have retiring : ((s.arrives x n false).loop x.loop).life = .retiring :=
      (s.loop_arrives_self x n false).life.trans stays.2
    have life : ((s.arrives x n false).loop x.loop).life ≠ .ready := by
      rw [retiring]
      exact Lifecycle.noConfusion
    have open_ := strokes.of_demand (s.sameDemand_arrives x n false)
    generalize s.arrives x n false = u at *
    have vacates := u.vacates_becomeVacant x.loop
    have unheld : (u.becomeVacant x.loop).drive.state ≠ .holding := by
      rw [vacates.state, state]
      exact DriveState.noConfusion
    have told := ((u.becomeVacant x.loop).takeEnd x .done none false).records_markLoopIf
      ((s.loop x.loop).headMoved (((u.becomeVacant x.loop).takeEnd x .done none false).loop x.loop)) x.loop false
    rw [State.tellHead, (told.spares m).campaign] at rounds
    rw [State.tellHead, State.still_records told]
    rcases State.passes_becomeVacant life m with spares | enters
    · exact State.still_takeEnd_entered unheld (by rw [spares.campaign, campaign, opening]) rounds
    · have dropped := (State.spares_becomeVacant life m).campaign
      have examined := ((u.dropWork_records x.loop).spares m).campaign
      have cleared : (u.clearWork x.loop).campaign m = u.campaign m :=
        ((u.quiet_clearWork x.loop).spares (u.steps_clearWork x.loop) m).campaign
      have still : (u.clearWork x.loop).Still m := by
        refine State.still_of_examined (n := manifoldOf x.loop) (by rw [cleared, campaign, opening]) ?_
        rw [← examined, ← dropped]
        exact enters.rounds
      refine State.still_of_unqueued (fun j own => ?_) fun y moves => ?_
      · by_cases self : j = x.loop
        · refine State.Unqueued.takeEnd (self ▸ u.unqueued_becomeVacant x.loop) unheld (.inr ?_) .done none
          rw [self, vacates.life]
          exact Lifecycle.noConfusion
        · exact (open_.unqueued_becomeVacant own (still.unqueued own) self).takeEnd unheld (.inl self) .done none
      · rw [State.moving_takeEnd] at moves
        cases moves

end

theorem State.sameDemand_begun (s : State) (x : Move) : s.SameDemand (s.begun x) := by
  have moving : s.SameDemand (s.setMoving (some x)) := s.sameDemand_setDrive { s.drive with moving := some x }
  have wanted : (s.setMoving (some x)).SameDemand ((s.setMoving (some x)).wantAtStart x) :=
    State.sameDemand_ite (fun _ => .refl _) fun _ =>
      (State.sameDemand_endWant _ x.loop).trans (State.sameDemand_tellWork _ _ x.loop)
  rw [State.begun_eq]
  refine (moving.trans wanted).trans (.trans ?_ (State.sameDemand_fill _))
  exact (State.sameDemand_modLoop _ x.loop (f := fun l => l.setPosition none)
    fun _ => ⟨rfl, ⟨rfl, rfl, rfl, rfl, rfl, rfl⟩, rfl, rfl⟩).trans (State.sameDemand_recount _ x.loop)

theorem State.sameDemand_taken_up (s : State) (rest : List Entry) (x y : Move) :
    s.SameDemand (((s.setQueue rest).begun x).setMoving (some y)) :=
  ((s.sameDemand_setQueue rest).trans (State.sameDemand_begun _ x)).trans
    (State.sameDemand_setDrive _ { ((s.setQueue rest).begun x).drive with moving := some y })

section
variable {s : State} {m : Manifold} (marks : s.MarkLaw) (strokes : s.OpenStrokes m)
include marks strokes

/-- A manifold without work has none after the start of a move. -/
theorem State.OpenStrokes.still_serve (still : s.Still m) : s.serve.Still m := by
  by_cases start : s.canStart = true
  · obtain ⟨e, rest, queue⟩ := State.canStart_queue start
    have free := marks.free start
    obtain ⟨x, loop, kind, runs | ⟨moves, n, ends⟩⟩ := State.serve_runs_or_ends start queue
    · rw [runs]
      refine State.still_of_unqueued (fun j own => ((still.unqueued own).taken_up queue x).2) fun y moving self => ?_
      rw [← Option.some.inj moving, loop] at self
      exact ((still.unqueued self).taken_up queue x).1 rfl
    · have unmarked : (((s.setQueue rest).begun e.move).loop x.loop).restartMark = false :=
        State.restartMark_begun (s := s.setQueue rest) free.marks e.move x.loop
      have state := (s.spares_taken_up rest e.move x m).driveState.trans free.state
      have open_ := strokes.of_demand (s.sameDemand_taken_up rest e.move x)
      have taken {j : LoopIx} (own : manifoldOf j = m) := (still.unqueued own).taken_up queue x
      rw [← State.loop_setMoving _ (some x)] at unmarked
      rw [ends]
      generalize ((s.setQueue rest).begun e.move).setMoving (some x) = u at unmarked state open_ taken
      refine State.still_of_unqueued (fun j own => ?_) fun y moving => ?_
      · exact open_.unqueued_moveDone unmarked state n own (taken own).2 fun self => (taken own).1 (self.trans loop)
      · rw [State.moving_moveDone] at moving
        cases moving
  · rw [State.serve, if_neg start]
    exact still

/-- A start that takes a campaign from OPENING to ROUNDS leaves no work of its manifold (R152). -/
theorem State.OpenStrokes.still_serve_entered (opening : (s.campaign m).state = .opening)
    (rounds : (s.serve.campaign m).state = .rounds) : s.serve.Still m := by
  have stays (same : s.serve.campaign m = s.campaign m) : False := by
    rw [same, opening] at rounds
    exact CampaignState.noConfusion rounds
  by_cases start : s.canStart = true
  · obtain ⟨e, rest, queue⟩ := State.canStart_queue start
    have free := marks.free start
    have spares (x : Move) := s.spares_taken_up rest e.move x m
    obtain ⟨x, loop, kind, runs | ⟨moves, n, ends⟩⟩ := State.serve_runs_or_ends start queue
    · exact (stays (by rw [runs]; exact (spares x).campaign)).elim
    · have unmarked : (((s.setQueue rest).begun e.move).loop x.loop).restartMark = false :=
        State.restartMark_begun (s := s.setQueue rest) free.marks e.move x.loop
      have state := (spares x).driveState.trans free.state
      have campaign := (spares x).campaign
      have open_ := strokes.of_demand (s.sameDemand_taken_up rest e.move x)
      rw [← State.loop_setMoving _ (some x)] at unmarked
      rw [ends] at rounds ⊢
      generalize ((s.setQueue rest).begun e.move).setMoving (some x) = u at *
      exact open_.still_moveDone_entered unmarked state n (by rw [campaign, opening]) rounds
  · exact (stays (by rw [State.serve, if_neg start])).elim

end

/-! ### The start of a campaign (R151, R152, R156) -/

/-- The record of a campaign that has just been started. -/
def Campaign.started : Campaign := ⟨.opening, none, 0, .none, none⟩

/-- What the start of a campaign comes to on its manifold (R151, R152, R156). -/
structure State.Started (s : State) (m : Manifold) (u : State) : Prop where
  suspended : s.Suspends m → u.campaign m = ⟨.suspended, some .opening, 0, .none, none⟩
  opened : ¬s.Suspends m → u.campaign m = .started ∧ ¬u.Still m ∨ u.campaign m = ⟨.rounds, none, 0, .none, none⟩ ∧ u.Still m
  fresh : (u.campaign m).state = .rounds → u.FreshRound m (u.RoundConditions m)
  round : (u.campaign m).state ≠ .rounds → s.SameRound m u

/-- The strokes of an open campaign's manifold stand, so a recompute wants nothing there. -/
theorem State.OpenStrokes.still_recompute {s : State} {m : Manifold} (h : s.OpenStrokes m) :
    s.recompute.Still m ↔ s.Still m := by
  have moving := s.quiet_recompute.moving
  refine ⟨fun still => ?_, fun still => ?_⟩
  · by_contra working
    refine (s.recompute.not_still_iff m).2 ?_ still
    obtain ⟨j, own, works⟩ := (s.not_still_iff m).1 working
    refine ⟨j, own, ?_⟩
    have kept : State.KeepsWork j s s.recompute := s.keepsWork_recompute
    exact works.imp kept.want (Or.imp kept.queued fun moves => (State.movingLoop_congr moving j).trans moves)
  · refine State.still_of_unqueued (fun j own => h.unqueued_recompute own (still.unqueued own)) fun x moves self => ?_
    rw [moving] at moves
    exact (still x.loop self).2.2 x moves rfl

section
variable (s : State) (m : Manifold)

theorem State.counted_examineStart : s.Counted (s.examineStart m) :=
  State.counted_ite (s.counted_suspend m .opening) (s.counted_endOpening m)

theorem State.suspend_opening : s.suspend m .opening =
    s.setCampaign m { s.campaign m with state := .suspended, resume := some .opening } := rfl

theorem State.drive_examineStart : (s.examineStart m).drive = s.drive := by
  unfold State.examineStart State.endOpening
  split_ifs
  · exact s.drive_suspend m .opening
  · exact s.drive_enterRounds m
  · rfl

theorem State.sameDemand_examineStart (opened : (s.campaign m).state ≠ .idle) : s.SameDemand (s.examineStart m) :=
  State.sameDemand_ite (fun _ => s.sameDemand_suspend opened .opening) fun _ => s.sameDemand_endOpening opened

/-- The campaign set in OPENING, and the whole house recomputed (R151, steps 1 and 2). -/
def State.startOpened : State := (s.setCampaign m .started).recompute

theorem State.startCampaign_eq : s.startCampaign m = ((s.startOpened m).examineStart m).markHouse true := rfl

theorem State.campaign_startOpened : (s.startOpened m).campaign m = .started :=
  ((s.setCampaign m .started).spares_recompute m).campaign.trans (s.campaign_setCampaign m _)

theorem State.keepsRound_startOpened : s.KeepsRound m (s.startOpened m) :=
  (s.keepsRound_setCampaign m .started m).trans ((s.setCampaign m .started).spares_recompute m).keepsRound

theorem State.openStrokes_startOpened : (s.startOpened m).OpenStrokes m :=
  State.openStrokes_recompute (by rw [State.campaign_setCampaign]; exact CampaignState.noConfusion)

theorem State.startCampaign_open : ((s.startOpened m).campaign m).state ≠ .idle := by
  rw [s.campaign_startOpened m]
  exact CampaignState.noConfusion

theorem State.sameDemand_startCampaign : (s.startOpened m).SameDemand (s.startCampaign m) :=
  ((s.startOpened m).sameDemand_examineStart m (s.startCampaign_open m)).trans (State.sameDemand_markHouse _ true)

/-- One recompute of the whole house gives the strokes (R151, R113). -/
theorem State.commanded_startCampaign : (s.startCampaign m).Commanded (s.startCampaign m) :=
  (State.commanded_recompute (s.setCampaign m .started)).of_demand (s.sameDemand_startCampaign m)

theorem State.openStrokes_startCampaign : (s.startCampaign m).OpenStrokes m :=
  (s.openStrokes_startOpened m).of_demand (s.sameDemand_startCampaign m)

theorem State.started_startCampaign : s.Started m (s.startCampaign m) := by
  have campaign := s.campaign_startOpened m
  have keeps := s.keepsRound_startOpened m
  have suspends := State.suspends_congr keeps.house keeps.channels keeps.driveState m
  rw [State.startCampaign_eq]
  generalize s.startOpened m = u at campaign keeps suspends
  have told := (u.examineStart m).mark_records .house 0 true
  have spares := (u.examineStart m).spares_markHouse true m
  suffices started : s.Started m (u.examineStart m) by
    obtain ⟨suspended, opened, fresh, round⟩ := started
    rw [← spares.campaign] at suspended opened fresh round
    rw [← State.still_records told] at opened
    exact ⟨suspended, opened, fun w => ((fresh w).of_spares spares).congr spares.roundConditions.symm, fun w =>
      ⟨spares.round.timer.trans (round w).timer, spares.round.supplyRef.trans (round w).supplyRef⟩⟩
  unfold State.examineStart State.endOpening
  by_cases held : u.held m = true
  · rw [if_pos held, State.suspend_opening, campaign]
    have set := u.campaign_setCampaign m ⟨.suspended, some .opening, 0, .none, none⟩
    have round := (keeps.trans (u.keepsRound_setCampaign m ⟨.suspended, some .opening, 0, .none, none⟩ m)).round
    refine ⟨fun _ => set, fun free => absurd (suspends.1 ((u.held_iff m).1 held)) free, fun w => ?_, fun _ => round⟩
    exact CampaignState.noConfusion ((congrArg Campaign.state set).symm.trans w)
  · have free : ¬s.Suspends m := fun w => held ((u.held_iff m).2 (suspends.2 w))
    rw [if_neg held]
    by_cases ended : u.openingOver m = true
    · rw [if_pos ended]
      have entered := u.campaign_enterRounds m
      rw [campaign] at entered
      have still := (State.Counted.still (u.counted_enterRounds m) (u.drive_enterRounds m) m).2
        ((u.openingOver_iff m).1 ended)
      refine ⟨fun w => absurd w free, fun _ => .inr ⟨entered, still⟩, fun _ => u.fresh_enterRounds m, fun w => ?_⟩
      rw [entered] at w
      exact absurd rfl w
    · rw [if_neg ended]
      refine ⟨fun w => absurd w free, fun _ => .inl ⟨campaign, fun w => ended ((u.openingOver_iff m).2 w)⟩,
        fun w => ?_, fun _ => keeps.round⟩
      rw [campaign] at w
      exact CampaignState.noConfusion w

end

/-! ### The campaigns of the named manifolds, one after the other -/

section
variable {s u : State} {n m : Manifold} (other : n ≠ m)

include other in
/-- The start of one manifold's campaign leaves the other's campaign and round alone. -/
theorem State.spares_startCampaign (u : State) : u.Spares m (u.startCampaign n) := by
  refine .trans (.trans (u.spares_setCampaign other .started) (State.spares_recompute _ m)) ?_
  refine .trans (t := (u.startOpened n).examineStart n) ?_ (State.spares_markHouse _ true m)
  unfold State.examineStart State.endOpening
  split_ifs
  · exact (u.startOpened n).spares_setCampaign other _
  · exact (u.startOpened n).spares_enterRounds other
  · exact .refl _ m

include other in
/-- Where the other manifold's campaign is open already, its strokes and its work stay, too. -/
theorem State.OpenStrokes.startCampaign (h : u.OpenStrokes m) :
    (u.startCampaign n).OpenStrokes m ∧ ((u.startCampaign n).Still m ↔ u.Still m) := by
  have set := u.spares_setCampaign other .started
  have open_ : (u.setCampaign n .started).OpenStrokes m :=
    h.of_loops (by rw [set.campaign]; exact h.opened) rfl fun _ _ _ => .refl _
  have still : (u.setCampaign n .started).Still m ↔ u.Still m := .rfl
  have recomputed : (u.startOpened n).OpenStrokes m :=
    State.openStrokes_recompute (s := u.setCampaign n .started) open_.opened
  refine ⟨recomputed.of_demand (u.sameDemand_startCampaign n), .trans ?_ (open_.still_recompute.trans still)⟩
  have told := ((u.startOpened n).examineStart n).mark_records .house 0 true
  exact (State.still_records told m).trans
    (State.Counted.still ((u.startOpened n).counted_examineStart n) ((u.startOpened n).drive_examineStart n) m)

theorem State.Started.of_spares {v : State} (h : s.Started m u) (g : u.Spares m v) (still : v.Still m ↔ u.Still m) :
    s.Started m v := by
  obtain ⟨suspended, opened, fresh, round⟩ := h
  rw [← g.campaign] at suspended opened fresh round
  rw [← still] at opened
  exact ⟨suspended, opened, fun w => ((fresh w).of_spares g).congr g.roundConditions.symm, fun w =>
    ⟨g.round.timer.trans (round w).timer, g.round.supplyRef.trans (round w).supplyRef⟩⟩

theorem State.Started.of_before {r : State} (h : s.Started m u) (g : r.Spares m s) : r.Started m u := by
  obtain ⟨suspended, opened, fresh, round⟩ := h
  have suspends := State.suspends_congr g.house g.channels g.driveState m
  rw [suspends] at suspended opened
  exact ⟨suspended, opened, fresh, fun w =>
    ⟨(round w).timer.trans g.round.timer, (round w).supplyRef.trans g.round.supplyRef⟩⟩

end

/-- The campaigns of the named manifolds started, before any move starts (R151). -/
def State.startAll (s : State) (ms : List Manifold) : State := s.forEach ms State.startCampaign

theorem State.mild_startAll (s : State) (ms : List Manifold) : s.Mild (s.startAll ms) :=
  State.forEach_rel State.Mild.refl (fun _ _ _ => State.Mild.trans) (fun t m => t.mild_startCampaign m) ms s

theorem State.spares_startAll {m : Manifold} {ms : List Manifold} (unnamed : m ∉ ms) (s : State) :
    s.Spares m (s.startAll ms) := by
  induction ms generalizing s with
  | nil => exact .refl s m
  | cons n rest ih =>
    rw [List.mem_cons, not_or] at unnamed
    exact (State.spares_startCampaign (Ne.symm unnamed.1) s).trans (ih unnamed.2 (s.startCampaign n))

/-- A campaign that has been started stays so while those of other manifolds are. -/
theorem State.Started.startAll {s u : State} {m : Manifold} {ms : List Manifold} (unnamed : m ∉ ms)
    (h : s.Started m u) (strokes : u.OpenStrokes m) : s.Started m (u.startAll ms) ∧ (u.startAll ms).OpenStrokes m := by
  induction ms generalizing u with
  | nil => exact ⟨h, strokes⟩
  | cons n rest ih =>
    rw [List.mem_cons, not_or] at unnamed
    have other := Ne.symm unnamed.1
    obtain ⟨kept, still⟩ := strokes.startCampaign other
    exact ih unnamed.2 (h.of_spares (State.spares_startCampaign other u) still) kept

theorem State.started_startAll {m : Manifold} {ms : List Manifold} (named : m ∈ ms) (distinct : ms.Nodup) (s : State) :
    s.Started m (s.startAll ms) ∧ (s.startAll ms).OpenStrokes m := by
  induction ms generalizing s with
  | nil => cases named
  | cons n rest ih =>
    obtain ⟨fresh, distinct⟩ := List.nodup_cons.1 distinct
    by_cases self : n = m
    · subst self
      exact State.Started.startAll (ms := rest) fresh (s.started_startCampaign n)
        (s.openStrokes_startCampaign n)
    · have later : m ∈ rest := (List.mem_cons.1 named).resolve_left (Ne.symm self)
      obtain ⟨started, strokes⟩ := ih later distinct (s.startCampaign n)
      exact ⟨started.of_before (State.spares_startCampaign self s), strokes⟩

theorem State.commanded_startAll {ms : List Manifold} (some : ms ≠ []) (s : State) :
    (s.startAll ms).Commanded (s.startAll ms) := by
  cases ms with
  | nil => exact absurd rfl some
  | cons n rest =>
    exact State.forEach_keeps (P := fun t => t.Commanded t) (fun t m _ => t.commanded_startCampaign m) rest _
      (s.commanded_startCampaign n)

/-- The start of a move after campaigns have been started: it may end opening in its turn (R152). -/
theorem State.Started.serve {s u : State} {m : Manifold} (h : s.Started m u) (strokes : u.OpenStrokes m)
    (marks : u.MarkLaw) : s.Started m u.serve := by
  have passes := State.passes_serve marks m
  by_cases held : s.Suspends m
  · have suspended := h.suspended held
    have spares := State.spares_serve_unopened marks (m := m) (by rw [suspended]; exact CampaignState.noConfusion)
    have other : (u.campaign m).state ≠ .rounds := by
      rw [suspended]
      exact CampaignState.noConfusion
    refine ⟨fun _ => spares.campaign.trans suspended, fun w => absurd held w, fun w => ?_, fun _ => ?_⟩
    · rw [spares.campaign] at w
      exact absurd w other
    · exact ⟨spares.round.timer.trans (h.round other).timer, spares.round.supplyRef.trans (h.round other).supplyRef⟩
  · refine ⟨fun w => absurd w held, fun _ => ?_, fun rounds => ?_, fun unstarted => ?_⟩
    · rcases h.opened held with ⟨opening, working⟩ | ⟨rounds, still⟩
      · rcases passes with spares | enters
        · have same := spares.campaign.trans opening
          refine .inl ⟨same, State.still_serve marks working ?_⟩
          rw [same]
          rfl
        · refine .inr ⟨enters.campaign.trans (by rw [opening]; rfl), ?_⟩
          exact strokes.still_serve_entered marks enters.opening enters.rounds
      · have spares := passes.spares (by rw [rounds]; exact CampaignState.noConfusion)
        exact .inr ⟨spares.campaign.trans rounds, strokes.still_serve marks still⟩
    · rcases passes with spares | enters
      · rw [spares.campaign] at rounds
        exact ((h.fresh rounds).of_spares spares).congr spares.roundConditions.symm
      · exact enters.fresh
    · rcases passes with spares | enters
      · rw [spares.campaign] at unstarted
        exact ⟨spares.round.timer.trans (h.round unstarted).timer,
          spares.round.supplyRef.trans (h.round unstarted).supplyRef⟩
      · exact absurd enters.rounds unstarted

/-! ### The request (R150) -/

theorem State.hasReady_iff (s : State) (m : Manifold) :
    s.hasReady m = true ↔ ∃ i, manifoldOf i = m ∧ (s.loop i).life = .ready := by
  simp [State.hasReady, List.any_eq_true, mem_loopsOf]

theorem nonempty_of_named {b : Byte} {ms : List Manifold}
    (h : (b, ms) ∈ [((1 : Byte), [Manifold.a]), (2, [.b]), (3, [.a, .b])]) : ms ≠ [] := by
  simp only [List.mem_cons, Prod.mk.injEq, List.not_mem_nil, or_false] at h
  obtain ⟨-, rfl⟩ | ⟨-, rfl⟩ | ⟨-, rfl⟩ := h <;> exact List.cons_ne_nil _ _

theorem exec_campaignStart_eq (p : List Byte) (s : State) : exec (.campaignStart p) s =
    request s serviceStation fun _ t => checked campaignForm p t fun ms => t.startCampaigns ms := rfl

theorem State.Polled.exec_campaignStart {s : State} {k : SlotIx} {x : Slot} (h : s.Polled k x)
    (service : slotKind k = .service) {p : List Byte} {ms : List Manifold} (form : campaignForm p = some ms) :
    exec (.campaignStart p) s = .next (((s.heard k x).startCampaigns ms).finish k) := by
  rw [exec_campaignStart_eq]
  exact h.taken (decide_eq_true service) form fun _ t ms => t.startCampaigns ms

section
variable {s : State} {ms : List Manifold}

theorem State.startCampaigns_busy (h : s.house.season = .standby ∨ ∃ m ∈ ms, (s.campaign m).state ≠ .idle) :
    s.startCampaigns ms = s.refuse .busy := by
  refine if_pos (h.imp_right fun ⟨m, named, opened⟩ => ?_)
  exact List.any_eq_true.2 ⟨m, named, (s.campaignOpen_iff m).2 opened⟩

variable (season : s.house.season = .heating) (idle : ∀ m ∈ ms, (s.campaign m).state = .idle)
include season idle

theorem State.startCampaigns_free : s.startCampaigns ms =
    if ms.all s.hasReady then ⟨.deferred, [], (s.startAll ms).serve⟩ else s.refuse .nosuch := by
  refine if_neg ?_
  rintro (standby | opened)
  · exact Season.noConfusion (season.symm.trans standby)
  · obtain ⟨m, named, opened⟩ := List.any_eq_true.1 opened
    exact (s.campaignOpen_iff m).1 opened (idle m named)

theorem State.startCampaigns_unready (h : ∃ m ∈ ms, ∀ i, manifoldOf i = m → (s.loop i).life ≠ .ready) :
    s.startCampaigns ms = s.refuse .nosuch := by
  obtain ⟨m, named, none⟩ := h
  rw [State.startCampaigns_free season idle]
  refine if_neg fun all => ?_
  obtain ⟨i, own, ready⟩ := (s.hasReady_iff m).1 (List.all_eq_true.1 all m named)
  exact none i own ready

theorem State.startCampaigns_ready (h : ∀ m ∈ ms, ∃ i, manifoldOf i = m ∧ (s.loop i).life = .ready) :
    s.startCampaigns ms = ⟨.deferred, [], (s.startAll ms).serve⟩ := by
  rw [State.startCampaigns_free season idle]
  exact if_pos (List.all_eq_true.2 fun m named => (s.hasReady_iff m).2 (h m named))

end

end Sys2Proof.Machine

open Sys2Proof Sys2Proof.Machine

/-- Settles O27: each named campaign's start, then the start of a move, which may end an opening in its turn. -/
theorem campaignStartOpensTheManifolds : Obligations.CampaignStartOpensTheManifolds := by
  refine ⟨fun s k x p polled service unnamed => ?_, fun s k x b ms polled marks service row => ?_⟩
  · rw [exec_campaignStart_eq]
    exact polled.onlyRange (decide_eq_true service) (campaignForm_of_unnamed unnamed)
      fun _ t ms => t.startCampaigns ms
  · have taken := polled.exec_campaignStart service (campaignForm_of_named row)
    refine ⟨fun busy => onlyAnswers_of_refused taken (State.startCampaigns_busy busy), fun season idle =>
      ⟨fun unready => onlyAnswers_of_refused taken (State.startCampaigns_unready season idle unready), fun ready => ?_⟩⟩
    rw [State.startCampaigns_ready (s := s.heard k x) season idle ready] at taken
    have heard := s.heard_records k x
    have mild := (s.heard k x).mild_startAll ms
    have law := mild.markLaw (heard.markLaw marks)
    obtain ⟨replies, drive, -, busy⟩ := State.served_finish [] .deferred mild.link law mild.onlyDrive
    have told := Taken.finish_records ⟨.deferred, [], ((s.heard k x).startAll ms).serve⟩ k
    have commanded := State.commanded_startAll (nonempty_of_named row) (s.heard k x)
    refine ⟨_, taken, replies, drive, fun m named => ?_, fun b => ?_, fun b i named life owner => ?_,
      fun b m unnamed => ?_⟩
    · obtain ⟨started, strokes⟩ := State.started_startAll named (nodup_of_named row) (s.heard k x)
      have still := State.still_records told m
      obtain ⟨suspended, opened, fresh, round⟩ :=
        ((started.serve strokes law).of_before (heard.spares m)).of_spares (told.spares m) still
      refine ⟨suspended, fun pause running supply => ?_, fresh, round⟩
      have free : ¬s.Suspends m := by
        rintro (paused | stopped | failed)
        · exact Bool.noConfusion (pause.symm.trans paused)
        · exact stopped running
        · exact failed supply
      rcases opened free with ⟨opening, working⟩ | ⟨rounds, still⟩
      · refine ⟨.inl opening, iff_of_false working fun rounds => ?_⟩
        exact CampaignState.noConfusion (congrArg Campaign.state (opening.symm.trans rounds))
      · exact ⟨.inr rounds, iff_of_true still rounds⟩
    · exact commanded.of_records (busy (mild.busy (heard.busy b)))
    · obtain ⟨-, strokes⟩ := State.started_startAll named (nodup_of_named row) (s.heard k x)
      have same := (busy (mild.busy (heard.busy b))).loop i
      have steady := mild.loops i
      have before : (s.heard k x).loop i = s.loop i := heard.loop i
      have config := steady.config
      have ready := (steady.kept.life.trans (congrArg Loop.life before)).trans life
      rw [same, strokes.settled i rfl ready, State.baseStroke_opened strokes.opened ready, config.owner, mild.house,
        heard.house, before, owner, season, if_neg Owner.noConfusion, if_neg Season.noConfusion, config.ceiling, before]
    · have spares := (heard.spares m).trans (State.spares_startAll unnamed (s.heard k x))
      exact ((busy (mild.busy (heard.busy b))).spares m).campaign.trans spares.campaign
end

section
/-! PROOF. O33: the restart mark, taken at the ends of a move (R170, R74). -/

namespace Sys2Proof.Machine

/-! ### The restart mark, taken at a move's end (R170) -/

/-- The record of a loop whose head is to be homed afresh, of a loop whose lifecycle state was `life` (R170). -/
structure Loop.Rehomed (life : Lifecycle) (x : Loop) : Prop where
  mark : x.restartMark = false
  faults : x.faults = .empty
  stalls : x.stallCount = 0
  homed : x.homed = false
  capacity : x.capacity = none
  stepPos : x.stepPos = none
  position : x.position = none
  want : x.want = some .home
  life : x.life = if life = .retiring then .retiring else .homing

theorem Loop.Rehomed.counted {life : Lifecycle} {x y : Loop} (h : Loop.Rehomed life x) (same : x.Counted y) :
    Loop.Rehomed life y := by
  rcases same with rfl | rfl
  · exact h
  · exact ⟨h.mark, h.faults, h.stalls, h.homed, h.capacity, h.stepPos, h.position, h.want, h.life⟩

/-- An absent position sets no aim (R87). -/
theorem Loop.Rehomed.aimed {life : Lifecycle} {x : Loop} (h : Loop.Rehomed life x) : Loop.Rehomed life x.aimed := by
  refine ⟨h.mark, h.faults, h.stalls, h.homed, h.capacity, h.stepPos, h.position, Eq.trans ?_ h.want, h.life⟩
  change (x.position.map x.wantAt).getD x.want = x.want
  rw [h.position, Option.map_none, Option.getD_none]

/-- What a move's end leaves of a loop's record before the restart mark is taken. -/
structure Loop.Bears (l x : Loop) : Prop where
  mark : x.restartMark = l.restartMark
  present : x.present = l.present
  retiring : x.life = .retiring ↔ l.life = .retiring
  vacant : x.life = .vacant ↔ l.life = .vacant

theorem Loop.Bears.trans {l x y : Loop} (h : l.Bears x) (g : x.Bears y) : l.Bears y :=
  ⟨g.mark.trans h.mark, g.present.trans h.present, g.retiring.trans h.retiring, g.vacant.trans h.vacant⟩

theorem Loop.bears_of_life {l x : Loop} (mark : x.restartMark = l.restartMark) (present : x.present = l.present)
    (life : x.life = l.life) : l.Bears x := ⟨mark, present, by rw [life], by rw [life]⟩

theorem Loop.bears_of_other {l x : Loop} (mark : x.restartMark = l.restartMark) (present : x.present = l.present)
    (old : l.life ≠ .retiring ∧ l.life ≠ .vacant) (new : x.life ≠ .retiring ∧ x.life ≠ .vacant) : l.Bears x :=
  ⟨mark, present, iff_of_false new.1 old.1, iff_of_false new.2 old.2⟩

theorem Loop.Counted.bears {l x y : Loop} (same : x.Counted y) (h : l.Bears x) : l.Bears y := by
  rcases same with rfl | rfl
  · exact h
  · exact h.trans (Loop.bears_of_life rfl rfl rfl)

section
variable {s : State} {i : LoopIx}

theorem State.takeRestartMark_of_marked (marked : (s.loop i).restartMark = true) (present : (s.loop i).present = true) :
    s.takeRestartMark i = (s.unmark i).rehomeAtEnd i := by
  rw [State.takeRestartMark, if_pos marked, if_pos present]

theorem State.loop_unmark : (s.unmark i).loop i = (s.loop i).unmarked := by
  rw [State.unmark, (State.records_markLoopIf _ _ _ _).loop, State.loop_modLoop_self]

/-- The record of a loop whose head is wanted home once its mark has been taken. -/
theorem State.loop_unmark_wantHome : ((s.loop i).unmarked.unhomed.setWant (some .home)).Counted
    (((s.unmark i).wantHome i).loop i) := by
  rw [← State.loop_unmark]
  exact (s.unmark i).loop_wantHome i

/-- The mark taken: a READY or ENROLLED loop becomes HOMING, a HOMING or RETIRING one stays (R170). -/
theorem State.rehomed_takeRestartMark (marked : (s.loop i).restartMark = true) (present : (s.loop i).present = true)
    (occupied : (s.loop i).life ≠ .vacant) : Loop.Rehomed (s.loop i).life ((s.takeRestartMark i).loop i) := by
  rw [State.takeRestartMark_of_marked marked present, State.rehomeAtEnd, State.loop_unmark]
  have wanted := State.loop_unmark_wantHome (s := s) (i := i)
  split_ifs with idle
  · have homing := State.loop_setLife (s := (s.unmark i).wantHome i) (i := i) (new := .homing) Lifecycle.noConfusion
    refine Loop.Rehomed.counted ?_ ((wanted.map (f := fun l => (l.setLife .homing).setStroke 0 false) fun _ => rfl).trans
      homing)
    refine ⟨rfl, rfl, rfl, rfl, rfl, rfl, rfl, rfl, (if_neg fun retiring => ?_).symm⟩
    rcases idle with ready | enrolled
    · exact Lifecycle.noConfusion (ready.symm.trans retiring)
    · exact Lifecycle.noConfusion (enrolled.symm.trans retiring)
  · refine Loop.Rehomed.counted ⟨rfl, rfl, rfl, rfl, rfl, rfl, rfl, rfl, ?_⟩ wanted
    change (s.loop i).life = if (s.loop i).life = .retiring then .retiring else .homing
    have others : ¬((s.loop i).life = .ready ∨ (s.loop i).life = .enrolled) := idle
    cases life : (s.loop i).life with
    | retiring => rfl
    | homing => rfl
    | vacant => exact absurd life occupied
    | ready => exact absurd (.inl life) others
    | enrolled => exact absurd (.inr life) others

end

theorem State.RestartTaken.of_records {i : LoopIx} {life : Lifecycle} {t u : State} (h : t.RestartTaken i life)
    (g : t.SameRecords u) : u.RestartTaken i life := by
  have loop := g.loop i
  refine ⟨?_, ?_, ?_, ?_, ?_, ?_, ?_, ?_, ?_, (congrArg Drive.moving g.drive).trans h.moving⟩ <;> rw [loop]
  exacts [h.mark, h.faults, h.stalls, h.homed, h.capacity, h.stepPos, h.position, h.want, h.life]

/-- What the Drive Queue's end leaves of a loop whose mark has been taken. -/
theorem State.restartTaken_takeEnd {u : State} {m : Move} {life : Lifecycle}
    (h : Loop.Rehomed life (u.loop m.loop)) (e : MoveEnd) (r : Option EndReason) (toHeld : Bool) (before : State) :
    ((u.takeEnd m e r toHeld).tellHead before m.loop).RestartTaken m.loop life := by
  have loop := h.aimed.counted (u.loop_takeEnd_self m e r toHeld)
  have rests := u.moving_takeEnd m e r toHeld
  generalize u.takeEnd m e r toHeld = t at loop rests
  rw [← State.loop_tellHead t before m.loop m.loop] at loop
  rw [← State.drive_tellHead t before m.loop] at rests
  exact ⟨loop.mark, loop.faults, loop.stalls, loop.homed, loop.capacity, loop.stepPos, loop.position, loop.want,
    loop.life, rests⟩

/-- The restart mark of a loop whose move has ended with its head present. -/
theorem State.restartTaken {s u : State} {m : Move} (bears : (s.loop m.loop).Bears (u.loop m.loop))
    (marked : (s.loop m.loop).restartMark = true) (present : (s.loop m.loop).present = true)
    (occupied : (s.loop m.loop).life ≠ .vacant) (e : MoveEnd) (r : Option EndReason) (toHeld : Bool) (before : State) :
    (((u.takeRestartMark m.loop).takeEnd m e r toHeld).tellHead before m.loop).RestartTaken m.loop
      (s.loop m.loop).life := by
  have rehomed := State.rehomed_takeRestartMark (s := u) (bears.mark.trans marked) (bears.present.trans present)
    fun vacant => occupied (bears.vacant.1 vacant)
  have life := rehomed.life
  simp only [bears.retiring] at life
  exact State.restartTaken_takeEnd ⟨rehomed.mark, rehomed.faults, rehomed.stalls, rehomed.homed, rehomed.capacity,
    rehomed.stepPos, rehomed.position, rehomed.want, life⟩ e r toHeld before

/-! #### The ends of a move that bear the mark -/

section
variable {s : State} {m : Move}

theorem Loop.bears_stoppedAt (l : Loop) (step stalls : Nat) (driven : Bool) : l.Bears (l.stoppedAt step stalls driven) :=
  Loop.bears_of_life rfl rfl rfl

theorem Loop.bears_parkedAgain (l : Loop) (kind : MoveKind) : l.Bears (l.parkedAgain kind) := by
  unfold Loop.parkedAgain
  split_ifs <;> exact Loop.bears_of_life rfl rfl rfl

theorem State.bears_parkAgain (e : MoveEnd) (r : Option EndReason) (step stalls : Nat) :
    (s.loop m.loop).Bears (((s.stopAt m e r step stalls).parkAgain m).loop m.loop) :=
  (State.loop_parked e r stalls).bears ((Loop.bears_stoppedAt _ _ _ _).trans (Loop.bears_parkedAgain _ _))

/-- The Head Ports' and the Loop Table's part of a stall bears the mark (R70, R12). -/
theorem State.bears_afterStall (step : Nat) (occupied : (s.loop m.loop).life ≠ .vacant) :
    (s.loop m.loop).Bears (((s.stalledAt m step).afterStall m).loop m.loop) := by
  unfold State.afterStall
  split_ifs with limit
  · by_cases ready : (s.loop m.loop).life = .ready
    · rw [State.stallLimit_ready ready]
      refine (State.loop_stalledHome ready).bears (Loop.bears_of_other rfl rfl ?_ ?_)
      · rw [ready]
        exact ⟨Lifecycle.noConfusion, Lifecycle.noConfusion⟩
      · exact ⟨Lifecycle.noConfusion, Lifecycle.noConfusion⟩
    · rw [State.stallLimit_other occupied ready]
      exact (State.loop_latched_stalled occupied).bears (Loop.bears_of_life rfl rfl rfl)
  · exact State.bears_parkAgain .failed (some .stall) step 1

theorem State.moveStalled_eq (step : Nat) : s.moveStalled m step =
    ((((s.stalledAt m step).afterStall m).takeRestartMark m.loop).takeEnd m .failed (some .stall) false).tellHead s
      m.loop := rfl

theorem State.bears_moveDone {step : Nat} (stroke : Nat) (driven : Bool)
    (stays : (s.loop m.loop).life ≠ .retiring ∨ m.kind ≠ .park) :
    (s.loop m.loop).Bears ((((s.atStep m step).arrives m stroke driven).retireAtEnd m).loop m.loop) := by
  have record := (s.atStep m step).loop_arrives_self m stroke driven
  rw [State.loop_atStep] at record
  have bears := record.bears (l := s.loop m.loop) (Loop.bears_of_life rfl rfl rfl)
  rwa [State.retireAtEnd, if_neg fun retires => ?_]
  rcases stays with life | kind
  · exact life (bears.retiring.1 retires.1)
  · exact kind retires.2

theorem State.bears_homeTaken (count : Nat) :
    (s.loop m.loop).Bears (((s.homeReached m count).homeTaken m.loop).loop m.loop) := by
  have record := State.loop_homeReached (s := s) (m := m) count
  by_cases homing : (s.loop m.loop).life = .homing
  · obtain ⟨stroke, held, ready⟩ := State.loop_homedReady (s := s) (m := m) count
    rw [State.homeTaken_homeReached count homing]
    refine ready.bears ?_
    unfold Loop.commandedTo
    have old : (s.loop m.loop).life ≠ .retiring ∧ (s.loop m.loop).life ≠ .vacant := by
      rw [homing]
      exact ⟨Lifecycle.noConfusion, Lifecycle.noConfusion⟩
    split_ifs <;> exact Loop.bears_of_other rfl rfl old ⟨Lifecycle.noConfusion, Lifecycle.noConfusion⟩
  · by_cases retiring : (s.loop m.loop).life = .retiring
    · exact (State.loop_homedRetiring count retiring).bears (Loop.bears_of_life rfl rfl rfl)
    · rw [State.homeTaken_other (by rwa [record.life]) (by rwa [record.life])]
      exact record.bears (Loop.bears_of_life rfl rfl rfl)

theorem State.bears_failTaken (reason : EndReason) (driven : Bool) (stays : (s.loop m.loop).life ≠ .retiring) :
    (s.loop m.loop).Bears (((s.homeFailing m reason driven).failTaken m.loop).loop m.loop) := by
  by_cases homing : (s.loop m.loop).life = .homing
  · refine (State.loop_failTaken_homing reason driven homing).bears (Loop.bears_of_other rfl rfl ⟨stays, ?_⟩ ?_)
    · rw [homing]
      exact Lifecycle.noConfusion
    · exact ⟨Lifecycle.noConfusion, Lifecycle.noConfusion⟩
  · have life := State.life_homeFailing (s := s) (m := m) reason driven
    rw [State.failTaken_other (by rwa [life]) (by rwa [life])]
    exact (State.loop_homeFailing reason driven).bears (Loop.bears_of_life rfl rfl rfl)

end

/-- A HOME fails at its travel limit, at a stall, or short of the least capacity (R65, R66). -/
theorem exec_homeFailed_of_home {s : State} {m : Move} {n : Nat} (p : s.powered = true)
    (moving : s.drive.moving = some m) (home : m.kind = .home) {c : Instr}
    (h : c ∈ Instr.homingTravelLimit :: .stall n ::
      (if m.leg = .second ∧ n < 200 then [.endStopReached .openEnd n] else [])) :
    ∃ reason driven, exec c s = .next (s.homeFailed m reason driven).tellWatches := by
  have listed : ∃ reason, (c, reason) ∈ [(Instr.homingTravelLimit, EndReason.travel), (.stall n, .stall)] ++
      (if m.leg = .second ∧ n < 200 then [(.endStopReached .openEnd n, .travel)] else []) := by
    rw [List.mem_cons, List.mem_cons] at h
    rcases h with rfl | rfl | short
    · exact ⟨.travel, by simp⟩
    · exact ⟨.stall, by simp⟩
    · refine ⟨.travel, ?_⟩
      split_ifs at short ⊢ with leg
      · rw [List.mem_singleton.1 short]
        simp
      · exact absurd short List.not_mem_nil
  obtain ⟨reason, mem⟩ := listed
  obtain ⟨driven, fails⟩ := exec_homeFailed p moving home mem
  exact ⟨reason, driven, fails⟩

/-! #### The ends, one by one -/

/-- A loop that its move's end has made VACANT: no mark and no want is left (R14, R170). -/
structure State.LeavesVacant (i : LoopIx) (t : State) : Prop where
  life : (t.loop i).life = .vacant
  mark : (t.loop i).restartMark = false
  want : (t.loop i).want = none

theorem State.leavesVacant_of_loop {i : LoopIx} {t : State} {l : Loop} (h : t.loop i = l.vacated) : t.LeavesVacant i := by
  constructor <;> rw [h] <;> rfl

theorem State.LeavesVacant.of_records {i : LoopIx} {t u : State} (h : t.LeavesVacant i) (g : t.SameRecords u) :
    u.LeavesVacant i := by
  constructor <;> rw [g.loop]
  exacts [h.life, h.mark, h.want]

section
variable {s : State} {m : Move} {n : Nat}

theorem State.legReached_vacates (single : m.kind ≠ .exercise ∨ m.leg = .second) (park : m.kind = .park)
    (retiring : (s.loop m.loop).life = .retiring) : (s.legReached m).LeavesVacant m.loop := by
  rw [State.legReached_done (by rw [park]; exact MoveKind.noConfusion) single]
  refine State.leavesVacant_of_loop (State.loop_moveDone_of_retires (s := s.atStep m (s.legTo m)) _ _ park ?_)
  rw [State.loop_atStep]
  exact retiring

theorem State.homeFailed_vacates (home : m.kind = .home) (retiring : (s.loop m.loop).life = .retiring)
    (reason : EndReason) (driven : Bool) : (s.homeFailed m reason driven).LeavesVacant m.loop :=
  State.leavesVacant_of_loop (State.homeFailed_retiring home reason driven retiring).2.1

section
variable (marked : (s.loop m.loop).restartMark = true) (present : (s.loop m.loop).present = true)
  (occupied : (s.loop m.loop).life ≠ .vacant)
include marked present occupied

theorem State.restartTaken_moveStalled : (s.moveStalled m n).RestartTaken m.loop (s.loop m.loop).life := by
  rw [State.moveStalled_eq]
  exact State.restartTaken (State.bears_afterStall n occupied) marked present occupied _ _ _ s

theorem State.restartTaken_moveStopped : (s.moveStopped m n).RestartTaken m.loop (s.loop m.loop).life := by
  rw [State.moveStopped_eq, State.endsShort]
  exact State.restartTaken (State.bears_parkAgain _ _ n 0) marked present occupied _ _ _ s

theorem State.restartTaken_legReached (moves : m.kind ≠ .home) (single : m.kind ≠ .exercise ∨ m.leg = .second)
    (stays : (s.loop m.loop).life ≠ .retiring ∨ m.kind ≠ .park) :
    (s.legReached m).RestartTaken m.loop (s.loop m.loop).life := by
  rw [State.legReached_done moves single, State.moveDone_eq]
  exact State.restartTaken (State.bears_moveDone _ _ stays) marked present occupied _ _ _ _

theorem State.restartTaken_homeDone : (s.homeDone m n).RestartTaken m.loop (s.loop m.loop).life := by
  rw [State.homeDone_eq]
  exact State.restartTaken (State.bears_homeTaken n) marked present occupied _ _ _ s

theorem State.restartTaken_homeFailed (stays : (s.loop m.loop).life ≠ .retiring) (reason : EndReason) (driven : Bool) :
    (s.homeFailed m reason driven).RestartTaken m.loop (s.loop m.loop).life := by
  rw [State.homeFailed_eq]
  exact State.restartTaken (State.bears_failTaken reason driven stays) marked present occupied _ _ _ s

variable (p : s.powered = true) (moving : s.drive.moving = some m)
include p moving

theorem exec_stall_restartTaken (moves : m.kind ≠ .home) :
    ∃ t, exec (.stall n) s = .next t ∧ t.RestartTaken m.loop (s.loop m.loop).life :=
  ⟨_, exec_stall_next p moving moves,
    (State.restartTaken_moveStalled marked present occupied).of_records (State.tellWatches_records _)⟩

theorem exec_legReached_restartTaken (moves : m.kind ≠ .home) (single : m.kind ≠ .exercise ∨ m.leg = .second)
    (stays : (s.loop m.loop).life ≠ .retiring ∨ m.kind ≠ .park) :
    ∃ t, exec .legReached s = .next t ∧ t.RestartTaken m.loop (s.loop m.loop).life :=
  ⟨_, exec_legReached_next p moving,
    (State.restartTaken_legReached marked present occupied moves single stays).of_records (State.tellWatches_records _)⟩

theorem exec_openEnd_restartTaken (home : m.kind = .home) (leg : m.leg = .second) (least : 200 ≤ n) (most : n ≤ 1200) :
    ∃ t, exec (.endStopReached .openEnd n) s = .next t ∧ t.RestartTaken m.loop (s.loop m.loop).life := by
  refine ⟨_, exec_endStop_home p moving home .openEnd, ?_⟩
  rw [State.homeEndStop_open leg least most]
  exact (State.restartTaken_homeDone marked present occupied).of_records (State.tellWatches_records _)

omit p in
theorem exec_stop_restartTaken (moves : m.kind ≠ .home) {k : SlotIx} {x : Slot} (polled : s.Polled k x)
    (service : slotKind k = .service) :
    ∃ t, exec (.stop [] n) s = .next t ∧ t.RestartTaken m.loop (s.loop m.loop).life := by
  have stop := polled.ordered (c := .stop [] n) service (exec_stop [] n s)
  rw [State.stop_move (s := s.heard k x) moving moves] at stop
  have loop := (s.heard_records k x).loop m.loop
  rw [← loop] at marked present occupied
  have taken := State.restartTaken_moveStopped (n := n) marked present occupied
  rw [loop] at taken
  generalize (s.heard k x).moveStopped m n = u at stop taken
  exact ⟨_, stop, taken.of_records (Taken.finish_records ⟨.done, [], u⟩ k)⟩

end
end

end Sys2Proof.Machine
end

section
/-! PROOF. O33: RESTART in the order of R169: the campaigns, the queue, the heads wanted home, the first start, the leases and the rounds
(R28, R37, R74, R98, R147, R158, R170). -/

namespace Sys2Proof.Machine

/-! ### RESTART up to the homing of the heads (R169, R98) -/

/-- The state of a RESTART with the campaigns abandoned, the queue cleared and the drive RUNNING (R169, steps 1, 2). -/
def State.cleared (s : State) : State :=
  ((s.abandon .a .restart).abandon .b .restart).clearQueue.setDriveState .running

theorem State.restart_eq (s : State) : s.restart = s.cleared.rehome.serve.restartLeases.restartRounds := rfl

/-! #### The campaigns -/

/-- A campaign's record after a RESTART (R147, R158). -/
def Campaign.restarted (c : Campaign) : Campaign :=
  if c.state = .idle then c else ⟨.idle, none, c.roundsDone, .abandoned, some .restart⟩

theorem Campaign.idle_restarted (c : Campaign) : c.restarted.state = .idle := by
  unfold Campaign.restarted
  split_ifs with idle
  · exact idle
  · rfl

section
variable (s : State) (m : Manifold)

theorem State.campaign_abandoned :
    ((s.abandon .a .restart).abandon .b .restart).campaign m = (s.campaign m).restarted := by
  obtain ⟨ended, stays, -, -⟩ :=
    State.abandoned_abandonAll (ms := [.a, .b]) (mem_bothManifolds m) (by decide) .restart s
  unfold Campaign.restarted
  split_ifs with idle
  · exact stays idle
  · exact ended idle

/-- The queue cleared, before the reports (R98, step 1). -/
def State.emptied (s : State) : State :=
  (s.setQueue []).mapLoops fun i l => if s.homing i then l else l.setWant none

theorem State.emptied_records : s.emptied.SameRecords s.clearQueue :=
  (State.forEach_rel (R := State.SameRecords) .refl (fun _ _ _ => .trans)
    (fun t i => (t.records_markLoopIf _ i _).trans (State.records_markLoopIf _ _ i _)) allLoops _).trans
      (State.markHouseIf_records _ _ _)

theorem State.loop_emptied (i : LoopIx) :
    s.emptied.loop i = if s.homing i then s.loop i else (s.loop i).setWant none := by
  rw [State.emptied, State.loop_mapLoops]
  rfl

theorem State.drive_emptied : s.emptied.drive = { s.drive with queue := [] } := by
  rw [State.emptied, State.mapLoops_drive]
  rfl

theorem State.campaigns_emptied : s.emptied.campaigns = s.campaigns := by
  rw [State.emptied, State.mapLoops_campaigns]
  rfl

theorem State.floorList_emptied : s.emptied.floorList = s.floorList := by
  rw [State.emptied, State.mapLoops_floorList]
  rfl

/-- A change of the drive state leaves a campaign that is IDLE (R156). -/
theorem State.campaign_setDriveState_idle (idle : (s.campaign m).state = .idle) (d : DriveState) :
    (s.setDriveState d).campaign m = s.campaign m := by
  by_cases same : s.drive.state = d
  · rw [State.setDriveState, if_pos same]
  · exact (State.examined_setDriveState same m).1.idle idle

end

/-- What stands before RESTART homes the heads. -/
structure State.Clears (s u : State) : Prop where
  calm : s.Calm u
  floorList : u.floorList = s.floorList
  moving : u.drive.moving = s.drive.moving
  state : u.drive.state = .running
  queue : u.drive.queue = []
  campaign : ∀ m, u.campaign m = (s.campaign m).restarted
  loops : ∀ i, (s.loop i).Steady (u.loop i)
  wants : ∀ i, s.homing i = false → (u.loop i).want = none

theorem State.homing_congr {s t : State} (h : t.drive.moving = s.drive.moving) (i : LoopIx) :
    t.homing i = s.homing i := by
  unfold State.homing
  rw [h]

theorem Loop.steady_unwanted (l : Loop) (c : Bool) : l.Steady (if c then l else l.setWant none) := by
  cases c <;> rfl

theorem State.clears_cleared (s : State) : s.Clears s.cleared := by
  have abandons := (s.mild_abandon .a .restart).trans (State.mild_abandon _ .b .restart)
  have steps := (s.steps_abandon .a .restart).trans (State.steps_abandon _ .b .restart)
  have campaign := s.campaign_abandoned
  unfold State.cleared
  generalize (s.abandon .a .restart).abandon .b .restart = t at abandons steps campaign
  have told := t.emptied_records
  have homing := State.homing_congr abandons.moving
  have drive : t.clearQueue.drive = { t.drive with queue := [] } := told.drive.trans t.drive_emptied
  have emptied (m : Manifold) : t.clearQueue.campaign m = t.campaign m :=
    congrArg (PerManifold.get · m) (told.campaigns.trans t.campaigns_emptied)
  have loop (i : LoopIx) : t.clearQueue.loop i = if s.homing i then t.loop i else (t.loop i).setWant none := by
    rw [told.loop, State.loop_emptied, homing]
  have floorList : t.clearQueue.floorList = s.floorList :=
    told.floorList.trans (t.floorList_emptied.trans abandons.floorList)
  have cleared := steps.trans t.steps_clearQueue
  generalize t.clearQueue = c at drive emptied loop floorList cleared
  have mild := c.mild_setDriveState .running
  have counted := State.Counted.loop (c.counted_setDriveState .running)
  have set := c.drive_setDriveState .running
  have kept (m : Manifold) : (c.setDriveState .running).campaign m = (s.campaign m).restarted := by
    have idle : (c.campaign m).state = .idle := by
      rw [emptied, campaign]
      exact Campaign.idle_restarted _
    rw [State.campaign_setDriveState_idle c m idle, emptied, campaign]
  have calm := (cleared.trans (c.steps_setDriveState .running)).calm
  generalize c.setDriveState .running = u at mild counted set kept calm
  refine ⟨calm, mild.floorList.trans floorList, ?_, ?_, ?_, kept, fun i => ?_, fun i still => ?_⟩
  · rw [set, drive]
    exact abandons.moving
  · rw [set]
  · rw [set, drive]
  · have put : (c.loop i).Steady (u.loop i) := mild.loops i
    rw [loop] at put
    exact ((abandons.loops i).trans (Loop.steady_unwanted _ _)).trans put
  · rw [(counted i).want, loop, still]
    rfl

/-! ### Waiting entries of the kind that their loop wants (R78, R80) -/

/-- Every waiting entry is of the kind that its loop wants. -/
def State.KindsAgree (s : State) : Prop := ∀ e ∈ s.drive.queue, (s.loop e.loop).want = some e.kind

theorem State.want_modLoop (s : State) (j i : LoopIx) {f : Loop → Loop} (same : ∀ l : Loop, (f l).want = l.want) :
    ((s.modLoop i f).loop j).want = (s.loop j).want := by
  by_cases self : j = i
  · subst self
    rw [State.loop_modLoop_self, same]
  · rw [State.loop_modLoop_ne _ self]

section
variable {s t : State}

theorem State.KindsAgree.congr (h : s.KindsAgree) (want : ∀ i, (t.loop i).want = (s.loop i).want)
    (queue : t.drive.queue = s.drive.queue) : t.KindsAgree := by
  intro e mem
  rw [queue] at mem
  exact (want e.loop).trans (h e mem)

theorem State.KindsAgree.of_counted (h : s.KindsAgree) (counted : s.Counted t) (queue : t.drive.queue = s.drive.queue) :
    t.KindsAgree := h.congr (fun i => (counted.loop i).want) queue

theorem State.KindsAgree.of_records (h : s.KindsAgree) (g : s.SameRecords t) : t.KindsAgree :=
  h.congr (fun i => congrArg Loop.want (g.loop i)) (congrArg Drive.queue g.drive)

theorem State.kindsAgree_ite {c : Prop} [Decidable c] {u : State} (h : t.KindsAgree) (g : u.KindsAgree) :
    (if c then t else u).KindsAgree := by
  split_ifs
  · exact h
  · exact g

theorem State.KindsAgree.place (h : s.KindsAgree) (i : LoopIx) : (s.place i).KindsAgree := by
  unfold State.place
  split
  · next k want =>
    split_ifs
    · have appended : (s.setQueue (s.drive.queue ++ [s.entryFor i k])).KindsAgree := by
        intro e mem
        rcases List.mem_append.1 mem with old | new
        · exact h e old
        · rw [List.mem_singleton.1 new]
          exact want
      exact appended.of_records (State.markHouseIf_records _ _ _)
    · exact h
  · exact h

theorem State.KindsAgree.fill (h : s.KindsAgree) : s.fill.KindsAgree :=
  State.forEach_keeps (P := State.KindsAgree) (fun _ i k => State.KindsAgree.place k i) allLoops s h

/-- A want set on a loop is taken by its entry in place (R80). -/
theorem State.kindsAgree_retarget {i : LoopIx} {k : MoveKind} (own : (s.loop i).want = some k)
    (others : ∀ e ∈ s.drive.queue, e.loop ≠ i → (s.loop e.loop).want = some e.kind) : (s.retarget i k).KindsAgree := by
  intro e mem
  rw [State.loop_retarget]
  rw [State.retarget, State.setQueue_drive_queue] at mem
  obtain ⟨old, waits, taken⟩ := List.mem_map.1 mem
  by_cases self : old.loop = i
  · rw [if_pos self] at taken
    rw [← taken]
    exact own
  · rw [if_neg self] at taken
    rw [← taken]
    exact others old waits self

theorem State.KindsAgree.retarget (h : s.KindsAgree) (i : LoopIx) (k : MoveKind) :
    ((s.modLoop i fun l => l.setWant (some k)).retarget i k).KindsAgree := by
  have own : ((s.modLoop i fun l => l.setWant (some k)).loop i).want = some k := by
    rw [State.loop_modLoop_self]
    rfl
  have others (e : Entry) (mem : e ∈ s.drive.queue) (other : e.loop ≠ i) :
      ((s.modLoop i fun l => l.setWant (some k)).loop e.loop).want = some e.kind := by
    rw [State.loop_modLoop_ne _ other]
    exact h e mem
  have drive := s.modLoop_drive i fun l => l.setWant (some k)
  generalize (s.modLoop i fun l => l.setWant (some k)) = u at own others drive
  rw [← drive] at others
  exact State.kindsAgree_retarget own others

theorem State.KindsAgree.want (h : s.KindsAgree) (i : LoopIx) (k : MoveKind) : (s.want i k).KindsAgree := by
  unfold State.want
  split_ifs
  · have counted := (h.retarget i k).of_counted (State.counted_recount _ i) (by rw [State.drive_recount])
    have marked := counted.of_records (State.mark_records _ .loop i.val false)
    unfold State.placeOwn
    split_ifs
    · exact marked
    · exact marked.place i
  · exact h

theorem State.KindsAgree.takeStroke (h : s.KindsAgree) (i : LoopIx) : (s.takeStroke i).KindsAgree := by
  unfold State.takeStroke
  split_ifs
  · have pending : (s.modLoop i fun l => l.setPending (some (s.loop i).commanded)).KindsAgree :=
      h.congr (fun j => s.want_modLoop j i fun _ => rfl) (by rw [State.modLoop_drive])
    exact pending.of_records ((State.records_markLoopIf _ _ i _).trans (State.records_markLoopIf _ _ i _))
  · exact h.want i .position

theorem State.tellShort_records (t before after : State) : t.SameRecords (t.tellShort before after) := by
  unfold State.tellShort
  split_ifs
  · exact .refl t
  · exact State.mark_records _ _ _ _

theorem State.KindsAgree.recompute (h : s.KindsAgree) : s.recompute.KindsAgree := by
  have evaluated : s.evaluated.KindsAgree :=
    h.congr (fun i => (congrArg Loop.want (s.loop_evaluated i)).trans rfl) (by simp [State.evaluated])
  have handed : (s.evaluated.handStrokes s s.evaluated).KindsAgree :=
    State.forEach_keeps (P := State.KindsAgree) (fun t i k => State.kindsAgree_ite (k.takeStroke i) k) allLoops _
      evaluated
  have short := handed.of_records (State.tellShort_records _ s s.evaluated)
  unfold State.recompute State.tellStrokes
  exact State.forEach_keeps (P := State.KindsAgree) (fun t i k => k.of_records (t.records_markLoopIf _ i _)) allLoops _
    short

theorem State.KindsAgree.couplingIf (h : s.KindsAgree) (c : Bool) (m : Manifold) : (s.couplingIf c m).KindsAgree :=
  State.kindsAgree_ite (h.of_counted (s.counted_coupling m) (by rw [State.drive_coupling])) h

end

/-! ### The heads wanted home (R28, R98, step 3) -/

/-- What RESTART hands on once every loop's record has been changed. -/
structure State.Rehomes (b h : State) : Prop where
  floorList : h.floorList = b.floorList
  moving : h.drive.moving = b.drive.moving
  state : h.drive.state = b.drive.state
  loops : ∀ i, (b.loop i).Steady (h.loop i)
  campaign : ∀ m, h.campaign m = b.campaign m
  kinds : b.KindsAgree → h.KindsAgree
  unready : ∀ i, (b.loop i).life ≠ .ready → ((b.loop i).setStroke 0 false).Counted (h.loop i)
  ready : b.drive.moving = none → ∀ i, (b.loop i).life = .ready → (b.loop i).want = none →
    ∃ stroke held, ((b.loop i).commandedTo stroke held).Counted (h.loop i)

theorem State.campaign_couplingIf (s : State) (c : Bool) (n m : Manifold) :
    (s.couplingIf c n).campaign m = s.campaign m := by
  unfold State.couplingIf
  split_ifs
  · exact State.campaign_coupling s n m
  · rfl

/-- The recompute, the coupling events and the filling of the queue that follow a change of every loop (log 15). -/
def State.rehomeTold (s : State) (a b : Bool) : State :=
  ((s.recompute.couplingIf a .a).couplingIf b .b).recountAll.fill

theorem State.rehomes_rehomeTold (s : State) (a b : Bool) : s.Rehomes (s.rehomeTold a b) := by
  have first := s.recompute.counted_couplingIf a .a
  have second := State.counted_couplingIf (s.recompute.couplingIf a .a) b .b
  have counted := State.counted_recountAll ((s.recompute.couplingIf a .a).couplingIf b .b)
  have loop (i : LoopIx) : (s.recompute.loop i).Counted ((s.rehomeTold a b).loop i) := by
    rw [State.rehomeTold, State.loop_fill]
    exact ((first.loop i).trans (second.loop i)).trans (counted.loop i)
  have coupled := s.quiet_recompute.mild.trans ((State.mild_couplingIf _ a .a).trans (State.mild_couplingIf _ b .b))
  have recounted := State.quiet_recountAll ((s.recompute.couplingIf a .a).couplingIf b .b)
  have told := recounted.trans (State.quiet_fill _)
  have mild : s.Mild (s.rehomeTold a b) := coupled.trans told.mild
  refine ⟨mild.floorList, mild.moving, mild.state, mild.loops, fun m => ?_, fun kinds => ?_, fun i unready => ?_,
    fun still i ready want => ?_⟩
  · exact (congrArg (PerManifold.get · m) told.campaigns).trans ((State.campaign_couplingIf _ b .b m).trans
      ((State.campaign_couplingIf _ a .a m).trans (congrArg (PerManifold.get · m) s.quiet_recompute.campaigns)))
  · have coupled := (kinds.recompute.couplingIf a .a).couplingIf b .b
    exact (coupled.of_counted counted (by rw [State.recountAll, State.mapLoops_drive])).fill
  · have record := loop i
    rwa [s.loop_recompute i unready] at record
  · obtain ⟨stroke, held, taken⟩ := State.loop_recompute_unwanted ready want still
    exact ⟨stroke, held, taken.trans (loop i)⟩

theorem State.Rehomes.of_records {s b h t : State} (r : b.Rehomes h) (before : s.SameRecords b)
    (after : h.SameRecords t) : s.Rehomes t := by
  obtain ⟨floorList, moving, state, loops, campaign, kinds, unready, ready⟩ := r
  refine ⟨after.floorList.trans (floorList.trans before.floorList),
    (congrArg Drive.moving after.drive).trans (moving.trans (congrArg Drive.moving before.drive)),
    (congrArg Drive.state after.drive).trans (state.trans (congrArg Drive.state before.drive)), fun i => ?_, fun m => ?_,
    fun agree => (kinds (agree.of_records before)).of_records after, fun i life => ?_, fun still i life want => ?_⟩
  · rw [after.loop, ← before.loop]
    exact loops i
  · exact (congrArg (PerManifold.get · m) after.campaigns).trans
      ((campaign m).trans (congrArg (PerManifold.get · m) before.campaigns))
  · rw [after.loop, ← before.loop]
    rw [← before.loop] at life
    exact unready i life
  · rw [after.loop, ← before.loop]
    rw [← before.loop] at life want
    rw [← before.drive] at still
    exact ready still i life want

theorem State.rehome_eq (s : State) : s.rehome =
    (((s.allRestarted.forEach allLoops fun t i => t.tellWork s i).rehomeTold (s.readyLost s.allRestarted .a)
      (s.readyLost s.allRestarted .b)).forEach allLoops fun t i => t.tellRestarted s s.allRestarted i) := rfl

theorem State.rehomes_rehome (s : State) : s.allRestarted.Rehomes s.rehome := by
  rw [State.rehome_eq]
  exact (State.rehomes_rehomeTold _ _ _).of_records
    (State.forEach_rel (R := State.SameRecords) .refl (fun _ _ _ => .trans)
      (fun t i => (t.records_markLoopIf _ i _).trans (State.records_markLoopIf _ _ i _)) allLoops _)
    (State.forEach_rel (R := State.SameRecords) .refl (fun _ _ _ => .trans)
      (fun t i => (t.records_markLoopIf _ i _).trans (State.records_markLoopIf _ _ i _)) allLoops _)

theorem State.calm_rehome (s : State) : s.allRestarted.Calm s.rehome := by
  rw [State.rehome_eq]
  refine State.Steps.calm (.trans ?_ (State.steps_forEach _ _ fun t i =>
    (t.steps_markLoopIf _ i _).trans (State.steps_markLoopIf _ _ i _)))
  refine .trans (.trans ?_ (State.steps_recountAll _)) (State.steps_fill _)
  refine .trans (.trans ?_ (State.steps_couplingIf _ _ _)) (State.steps_couplingIf _ _ _)
  exact (State.steps_forEach _ _ fun t i => t.steps_tellWork _ i).trans (State.steps_recompute _)

/-! ### The start of the first HOME (R98, step 4) -/

/-- What the start of a move leaves of a loop's record: a HOME changes no want, and no other loop but a READY one has
work. -/
structure Loop.Served (l x : Loop) : Prop where
  stands : l.Stands x
  want : l.life ≠ .ready → x.want = l.want
  stalls : l.life ≠ .ready → x.stallCount = l.stallCount
  position : l.life ≠ .ready → l.position = none → x.position = none

theorem Loop.Served.refl (l : Loop) : l.Served l := ⟨(Loop.Kept.refl l).stands, fun _ => rfl, fun _ => rfl, fun _ => id⟩

theorem Loop.Counted.served {l x : Loop} (h : l.Counted x) : l.Served x :=
  ⟨h.stands, fun _ => h.want, fun _ => h.stallCount, fun _ absent => h.position.trans absent⟩

theorem Loop.served_of_ready {l x : Loop} (ready : l.life = .ready) (stands : l.Stands x) : l.Served x :=
  ⟨stands, fun other => absurd ready other, fun other => absurd ready other, fun other => absurd ready other⟩

theorem Loop.kept_begun (l : Loop) (kind : MoveKind) : l.Kept (l.begun kind) := rfl

theorem Loop.kept_arrived_aimed (l : Loop) (stroke : Nat) : l.Kept (l.arrived stroke false).aimed := rfl

theorem Loop.served_begun {l : Loop} {kind : MoveKind} (allowed : kind = .home ∨ l.life = .ready) :
    l.Served (l.begun kind) := by
  have stands := (l.kept_begun kind).stands
  rcases allowed with rfl | ready
  · exact ⟨stands, fun _ => rfl, fun _ => rfl, fun _ _ => rfl⟩
  · exact Loop.served_of_ready ready stands

/-- The waiting entries are HOMEs, and POSITIONs of READY loops that hold no restart mark. -/
def State.HomesOrAims (s : State) : Prop :=
  ∀ e ∈ s.drive.queue, e.kind = .home ∨
    e.kind = .position ∧ (s.loop e.loop).life = .ready ∧ (s.loop e.loop).restartMark = false

/-- What the start of a move leaves where no campaign is open. -/
structure State.Serves (s t : State) : Prop where
  floorList : t.floorList = s.floorList
  state : t.drive.state = s.drive.state
  campaign : ∀ m, (s.campaign m).state = .idle → t.campaign m = s.campaign m
  loops : ∀ i, (s.loop i).Served (t.loop i)

theorem State.Serves.refl (s : State) : s.Serves s := ⟨rfl, rfl, fun _ _ => rfl, fun _ => .refl _⟩

section
variable (s : State) (m : Move)

theorem State.floorList_begun : (s.begun m).floorList = s.floorList := by
  have quiet : ((s.setMoving (some m)).wantAtStart m).floorList = s.floorList := by
    unfold State.wantAtStart
    split_ifs
    · rfl
    · exact (State.quiet_unwant _ _).floorList
  rw [State.begun, (State.quiet_fill _).floorList, (State.quiet_recount _ _).floorList, ← quiet]
  rfl

/-- The driver has taken an entry up: its own loop's record, and the others'. -/
theorem State.loop_taken_up (rest : List Entry) (x : Move) (i : LoopIx) :
    (((s.setQueue rest).begun m).setMoving (some x)).loop i =
      if i = m.loop then (s.loop i).begun m.kind else s.loop i := by
  rw [State.loop_setMoving]
  split_ifs with self
  · subst self
    rw [State.loop_begun_self, State.loop_setQueue]
  · rw [State.loop_begun_ne _ m self, State.loop_setQueue]

end

section
variable {s : State} {e : Entry} {rest : List Entry} {x : Move}

/-- The loop's own record as a HOME, or a READY loop's move, starts. -/
theorem State.served_taken_up (allowed : e.kind = .home ∨ (s.loop e.loop).life = .ready) (i : LoopIx) :
    (s.loop i).Served ((((s.setQueue rest).begun e.move).setMoving (some x)).loop i) := by
  have record := s.loop_taken_up e.move rest x i
  by_cases self : i = e.loop
  · rw [if_pos (show i = e.move.loop from self)] at record
    rw [record]
    rw [← self] at allowed
    exact Loop.served_begun allowed
  · rw [if_neg (show i ≠ e.move.loop from self)] at record
    rw [record]
    exact .refl (s.loop i)

theorem State.serves_taken_up (allowed : e.kind = .home ∨ (s.loop e.loop).life = .ready) :
    s.Serves (((s.setQueue rest).begun e.move).setMoving (some x)) :=
  ⟨by rw [State.setMoving_floorList, State.floorList_begun, State.setQueue_floorList],
    (s.spares_taken_up rest e.move x .a).driveState, fun m _ => (s.spares_taken_up rest e.move x m).campaign,
    State.served_taken_up allowed⟩

/-- A move of a READY loop that is DONE with no step driven. -/
theorem State.serves_moveDone {n : Nat} (running : s.drive.state = .running) (ready : (s.loop x.loop).life = .ready)
    (unmarked : (s.loop x.loop).restartMark = false) : s.Serves (s.moveDone x n false) := by
  have stays : x.kind ≠ .park ∨ (s.loop x.loop).life ≠ .retiring := by
    rw [ready]
    exact .inr Lifecycle.noConfusion
  refine ⟨?_, ?_, fun m idle => ?_, fun i => ?_⟩
  · rw [State.moveDone_of_stays unmarked n false stays, State.floorList_takeEnd, State.floorList_arrives]
  · exact (State.passes_moveDone unmarked running n false .a).driveState
  · refine ((State.passes_moveDone unmarked running n false m).spares ?_).campaign
    rw [idle]
    exact CampaignState.noConfusion
  · by_cases self : i = x.loop
    · subst self
      have done := State.loop_moveDone unmarked n false stays
      exact Loop.served_of_ready ready ((Loop.kept_arrived_aimed _ n).stands.trans done.stands)
    · exact (State.loop_moveDone_ne unmarked n false stays self).served

end

theorem Loop.Served.trans {l x y : Loop} (h : l.Served x) (g : x.Served y) : l.Served y where
  stands := h.stands.trans g.stands
  want w := (g.want (by rwa [h.stands.life])).trans (h.want w)
  stalls w := (g.stalls (by rwa [h.stands.life])).trans (h.stalls w)
  position w absent := g.position (by rwa [h.stands.life]) (h.position w absent)

theorem State.Serves.trans {s t u : State} (h : s.Serves t) (g : t.Serves u) : s.Serves u :=
  ⟨g.floorList.trans h.floorList, g.state.trans h.state, fun m idle =>
    (g.campaign m (by rw [h.campaign m idle, idle])).trans (h.campaign m idle), fun i => (h.loops i).trans (g.loops i)⟩

theorem State.serves_serve {s : State} (work : s.drive.moving = none → s.HomesOrAims) : s.Serves s.serve := by
  by_cases start : s.canStart = true
  · obtain ⟨e, rest, queue⟩ := State.canStart_queue start
    obtain ⟨still, -, running, -⟩ := (State.canStart_iff s).1 start
    have kind := work still e (by rw [queue]; exact List.mem_cons_self)
    have allowed : e.kind = .home ∨ (s.loop e.loop).life = .ready := kind.imp id fun aims => aims.2.1
    obtain ⟨x, loop, -, runs | ⟨moves, n, ends⟩⟩ := State.serve_runs_or_ends start queue
    · rw [runs]
      exact State.serves_taken_up allowed
    · obtain ⟨-, ready, unmarked⟩ := kind.resolve_left moves
      have taken := State.serves_taken_up (rest := rest) (x := x) allowed
      rw [ends]
      generalize ((s.setQueue rest).begun e.move).setMoving (some x) = u at taken
      have stands := (taken.loops x.loop).stands
      rw [loop] at stands
      refine taken.trans (State.serves_moveDone (taken.state.trans running) ?_ ?_) <;> rw [loop]
      · exact stands.life.trans ready
      · exact stands.restartMark.trans unmarked
  · rw [State.serve, if_neg start]
    exact .refl s

/-! ### The leases restarted (R37, R42) -/

/-- Other rooms, with every loop's record and the rest but for the reports. -/
structure State.OnlyRooms (s t : State) : Prop where
  quiet : (s.withRooms t.rooms).Quiet t
  loops : t.loops = s.loops

theorem State.OnlyRooms.refl (s : State) : s.OnlyRooms s := ⟨.refl s, rfl⟩

theorem State.OnlyRooms.trans {s t u : State} (h : s.OnlyRooms t) (g : t.OnlyRooms u) : s.OnlyRooms u :=
  ⟨(h.quiet.withRooms u.rooms).trans g.quiet, g.loops.trans h.loops⟩

/-- A room whose lease restarts where it is CLAIMED. -/
def Room.leasedAgain (unit : Nat) (y : Room) : Room :=
  if y.state = .claimed then { y with leaseRemaining := y.leaseLength * unit } else y

theorem Room.leasedAgain_leasedAgain (unit : Nat) (y : Room) :
    (y.leasedAgain unit).leasedAgain unit = y.leasedAgain unit := by
  by_cases claimed : y.state = .claimed
  · rw [Room.leasedAgain, Room.leasedAgain, if_pos claimed]
    exact if_pos claimed
  · rw [Room.leasedAgain, Room.leasedAgain, if_neg claimed, if_neg claimed]

/-- The lease of one room restarted where it is CLAIMED. -/
def State.leaseAgain (s : State) (r : RoomIx) : State :=
  if (s.room r).state = .claimed then s.changeRoom r ((s.room r).leased (s.leaseMinutes r)) else s

section
variable (s : State)

theorem State.onlyRooms_leaseAgain (r : RoomIx) : s.OnlyRooms (s.leaseAgain r) := by
  unfold State.leaseAgain
  split_ifs
  · rw [State.changeRoom_unheard (Room.effective_leased _ _).symm]
    have told := (s.setRoom r ((s.room r).leased (s.leaseMinutes r))).markRoomIf_records
      (decide (s.room r ≠ (s.room r).leased (s.leaseMinutes r))) r
      (decide ((s.room r).state ≠ ((s.room r).leased (s.leaseMinutes r)).state))
    have quiet := (s.setRoom r ((s.room r).leased (s.leaseMinutes r))).quiet_markRoomIf
      (decide (s.room r ≠ (s.room r).leased (s.leaseMinutes r))) r
      (decide ((s.room r).state ≠ ((s.room r).leased (s.leaseMinutes r)).state))
    refine ⟨?_, told.loops⟩
    rw [told.rooms]
    exact quiet
  · exact .refl s

theorem State.room_leaseAgain (r q : RoomIx) :
    (s.leaseAgain r).room q = if r = q then (s.room q).leasedAgain s.house.leaseUnit else s.room q := by
  unfold State.leaseAgain
  by_cases claimed : (s.room r).state = .claimed
  · rw [if_pos claimed, State.room_changeRoom]
    split
    next self =>
      rw [← self, Room.leasedAgain, if_pos claimed]
      rfl
    · rfl
  · rw [if_neg claimed]
    split
    next self => rw [← self, Room.leasedAgain, if_neg claimed]
    · rfl

theorem State.restartLeases_eq : s.restartLeases = s.forEach allRooms State.leaseAgain := rfl

theorem State.onlyRooms_restartLeases : s.OnlyRooms s.restartLeases :=
  State.forEach_rel (R := State.OnlyRooms) .refl (fun _ _ _ => .trans) (fun t r => t.onlyRooms_leaseAgain r) allRooms s

theorem State.room_leaseAll (l : List RoomIx) (q : RoomIx) :
    (s.forEach l State.leaseAgain).room q =
      if q ∈ l then (s.room q).leasedAgain s.house.leaseUnit else s.room q := by
  induction l generalizing s with
  | nil => simp [State.forEach]
  | cons r l ih =>
    refine (ih (s.leaseAgain r)).trans ?_
    have house : (s.leaseAgain r).house = s.house := (s.onlyRooms_leaseAgain r).quiet.house
    rw [State.room_leaseAgain, house]
    by_cases self : r = q
    · simp only [self, if_true, Room.leasedAgain_leasedAgain, ite_self, List.mem_cons_self]
    · simp only [if_neg self, List.mem_cons, Ne.symm self, false_or]

theorem State.room_restartLeases (r : RoomIx) :
    s.restartLeases.room r = (s.room r).leasedAgain s.house.leaseUnit := by
  rw [State.restartLeases_eq, State.room_leaseAll, if_pos (mem_allRooms r)]

end

/-! ### What RESTART makes of a loop's record (R28, R74, R147, R170) -/

section
variable (l : Loop) (moving : Bool)

theorem State.loop_allRestarted (s : State) (i : LoopIx) :
    s.allRestarted.loop i = (s.loop i).restarted (s.movingLoop i) := by
  rw [State.allRestarted, State.loop_mapLoops]

theorem State.drive_allRestarted (s : State) : s.allRestarted.drive = s.drive := by
  rw [State.allRestarted, State.mapLoops_drive]

/-- What RESTART leaves of every loop's record. -/
structure Loop.RestartKeeps (x : Loop) : Prop where
  config : l.SameConfig x
  present : x.present = l.present
  idleDays : x.idleDays = l.idleDays
  balance : x.balance = l.balance
  inBand : x.inBand = l.inBand

theorem Loop.restartKeeps_restarted : l.RestartKeeps (l.restarted moving) := by
  unfold Loop.restarted
  split_ifs <;> exact ⟨⟨rfl, rfl, rfl, rfl, rfl, rfl⟩, rfl, rfl, rfl, rfl⟩

theorem Loop.RestartKeeps.trans {l x y : Loop} (h : l.RestartKeeps x) (g : x.RestartKeeps y) : l.RestartKeeps y :=
  ⟨h.config.trans g.config, g.present.trans h.present, g.idleDays.trans h.idleDays, g.balance.trans h.balance,
    g.inBand.trans h.inBand⟩

theorem Loop.Stands.restartKeeps {l x : Loop} (h : l.Stands x) : l.RestartKeeps x :=
  ⟨h.config, h.present, h.idleDays, h.balance, h.inBand⟩

variable {l}

theorem Loop.restarted_of_vacant (vacant : l.life = .vacant) : l.restarted moving = l := if_pos vacant

section
variable (occupied : l.life ≠ .vacant)
include occupied

theorem Loop.restarted_of_moving : l.restarted true = l.marked := by
  rw [Loop.restarted, if_neg occupied, if_pos rfl]

theorem Loop.restarted_of_present (present : l.present = true) : l.restarted false =
    ((l.unmarked.unhomed.setLife (if l.life = .retiring then .retiring else .homing)).setWant (some .home)) := by
  rw [Loop.restarted, if_neg occupied, if_neg Bool.false_ne_true, if_pos present]

theorem Loop.restarted_of_absent (absent : l.present = false) : l.restarted false = l.unmarked := by
  rw [Loop.restarted, if_neg occupied, if_neg Bool.false_ne_true, if_neg (by rw [absent]; exact Bool.false_ne_true)]

end

/-- Of the loops at rest, only one whose head is away stays READY. -/
theorem Loop.restarted_of_ready (ready : (l.restarted false).life = .ready) : l.restarted false = l.unmarked := by
  by_cases vacant : l.life = .vacant
  · rw [Loop.restarted_of_vacant false vacant, vacant] at ready
    exact absurd ready Lifecycle.noConfusion
  · by_cases present : l.present = true
    · rw [Loop.restarted_of_present vacant present] at ready
      change (if l.life = .retiring then Lifecycle.retiring else .homing) = .ready at ready
      split_ifs at ready
    · exact Loop.restarted_of_absent vacant (Bool.eq_false_iff.2 present)

/-- A loop at rest that wants nothing wants HOME, or nothing still. -/
theorem Loop.want_restarted {k : MoveKind} (unwanted : l.want = none) (wants : (l.restarted false).want = some k) :
    k = .home := by
  by_cases vacant : l.life = .vacant
  · rw [Loop.restarted_of_vacant false vacant, unwanted] at wants
    exact absurd wants (Option.some_ne_none k).symm
  · by_cases present : l.present = true
    · rw [Loop.restarted_of_present vacant present] at wants
      exact (Option.some.inj wants).symm
    · rw [Loop.restarted_of_absent vacant (Bool.eq_false_iff.2 present)] at wants
      exact absurd (unwanted.symm.trans wants) (Option.some_ne_none k).symm

end

theorem Loop.want_commandedTo {l : Loop} {stroke : Nat} {held : Bool} {k : MoveKind} (unwanted : l.want = none)
    (wants : (l.commandedTo stroke held).want = some k) : k = .position := by
  unfold Loop.commandedTo at wants
  split_ifs at wants
  · exact (Option.some.inj wants).symm
  · exact absurd (unwanted.symm.trans wants) (Option.some_ne_none k).symm

/-- Before the first start of a RESTART, the entries are the HOMEs, and POSITIONs of READY loops whose heads are away. -/
theorem State.homesOrAims_rehome {s : State} (queue : s.drive.queue = []) (still : s.drive.moving = none)
    (unwanted : ∀ i, (s.loop i).want = none) : s.rehome.HomesOrAims := by
  have rehomes := s.rehomes_rehome
  have drive := s.drive_allRestarted
  have loop := s.loop_allRestarted
  have rests (i : LoopIx) : s.movingLoop i = false := by
    unfold State.movingLoop
    rw [still]
  simp only [rests] at loop
  have agrees : s.allRestarted.KindsAgree := by
    intro e mem
    rw [drive, queue] at mem
    exact absurd mem List.not_mem_nil
  generalize s.allRestarted = b at rehomes drive loop agrees
  intro e mem
  have wants := rehomes.kinds agrees e mem
  have stands := (rehomes.loops e.loop).kept.stands
  by_cases ready : (b.loop e.loop).life = .ready
  · have unmarked : b.loop e.loop = (s.loop e.loop).unmarked := by
      rw [loop] at ready ⊢
      exact Loop.restarted_of_ready ready
    have wantsNone : (b.loop e.loop).want = none := by
      rw [unmarked]
      exact unwanted e.loop
    obtain ⟨stroke, held, taken⟩ := rehomes.ready (by rw [drive, still]) e.loop ready wantsNone
    rw [taken.want] at wants
    refine .inr ⟨Loop.want_commandedTo wantsNone wants, stands.life.trans ready, stands.restartMark.trans ?_⟩
    rw [unmarked]
    rfl
  · have taken := rehomes.unready e.loop ready
    rw [taken.want] at wants
    have homes : (b.loop e.loop).want = some e.kind := wants
    rw [loop] at homes
    exact .inl (Loop.want_restarted (unwanted e.loop) homes)

/-! ### RESTART whole (R169) -/

/-- A loop's record after a RESTART, of a loop whose move runs or does not (R28, R74, R170). -/
structure Loop.RestartedTo (l : Loop) (moving : Bool) (x : Loop) : Prop where
  keeps : l.RestartKeeps x
  marked : l.life ≠ .vacant → moving = true → x.restartMark = true ∧ x.life = l.life ∧ x.faults = l.faults ∧
    x.homed = l.homed ∧ x.stallCount = l.stallCount
  cleared : l.life ≠ .vacant → moving = false → x.faults = .empty ∧ x.restartMark = false
  homed : l.life ≠ .vacant → moving = false → l.present = true → x.stallCount = 0 ∧ x.homed = false ∧
    x.capacity = none ∧ x.stepPos = none ∧ x.position = none ∧ x.want = some .home ∧
      x.life = if l.life = .retiring then .retiring else .homing
  away : l.life ≠ .vacant → moving = false → l.present = false → x.life = l.life
  vacant : l.life = .vacant → x.life = .vacant ∧ x.faults = l.faults ∧ x.restartMark = l.restartMark

theorem Loop.restartedTo_of_served {l y x : Loop} {moving : Bool} (steady : l.Steady y)
    (served : (y.restarted moving).Served x) (stalls : moving = true → x.stallCount = (y.restarted moving).stallCount) :
    l.RestartedTo moving x := by
  have before := steady.kept.stands
  have after := served.stands
  refine ⟨(before.restartKeeps.trans (y.restartKeeps_restarted moving)).trans after.restartKeeps, fun occupied moves => ?_,
    fun occupied rests => ?_, fun occupied rests present => ?_, fun occupied rests absent => ?_, fun vacant => ?_⟩
  · have stalled := stalls moves
    subst moves
    rw [← before.life] at occupied
    rw [Loop.restarted_of_moving occupied] at after stalled
    exact ⟨after.restartMark, after.life.trans before.life, after.faults.trans before.faults,
      after.homed.trans before.homed, stalled.trans steady.stallCount⟩
  · subst rests
    rw [← before.life] at occupied
    by_cases present : y.present = true
    · rw [Loop.restarted_of_present occupied present] at after
      exact ⟨after.faults, after.restartMark⟩
    · rw [Loop.restarted_of_absent occupied (Bool.eq_false_iff.2 present)] at after
      exact ⟨after.faults, after.restartMark⟩
  · subst rests
    rw [← before.life] at occupied
    rw [← before.present] at present
    rw [Loop.restarted_of_present occupied present] at after served
    have unready : (if y.life = .retiring then Lifecycle.retiring else .homing) ≠ .ready := by split_ifs <;> decide
    refine ⟨served.stalls unready, after.homed, after.capacity, after.stepPos, served.position unready rfl,
      served.want unready, ?_⟩
    rw [← before.life]
    exact after.life
  · subst rests
    rw [← before.life] at occupied
    rw [← before.present] at absent
    rw [Loop.restarted_of_absent occupied absent] at after
    exact after.life.trans before.life
  · rw [← before.life] at vacant
    rw [Loop.restarted_of_vacant moving vacant] at after
    exact ⟨after.life.trans vacant, after.faults.trans before.faults, after.restartMark.trans before.restartMark⟩

theorem State.Rehomes.served {b h : State} (r : b.Rehomes h) (i : LoopIx) : (b.loop i).Served (h.loop i) := by
  refine ⟨(r.loops i).kept.stands, fun unready => ?_, fun unready => ?_, fun unready absent => ?_⟩
  · exact (r.unready i unready).want
  · exact (r.unready i unready).stallCount
  · exact (r.unready i unready).position.trans absent

theorem State.Calm.trans {s t u : State} (h : s.Calm t) (g : t.Calm u) : s.Calm u :=
  ⟨g.powered.trans h.powered, g.rooms.trans h.rooms, g.house.trans h.house, g.storage.trans h.storage,
    g.channels.trans h.channels, g.link.trans h.link, g.pending.trans h.pending⟩

theorem State.calm_mapLoops (s : State) (f : LoopIx → Loop → Loop) : s.Calm (s.mapLoops f) := by
  constructor <;> simp

theorem State.homing_of_still {s : State} (still : s.drive.moving = none) (i : LoopIx) : s.homing i = false := by
  unfold State.homing
  rw [still]

theorem State.serve_of_moving {s : State} {i : LoopIx} (moving : s.movingLoop i = true) : s.serve = s := by
  rw [State.serve, if_neg]
  intro start
  unfold State.movingLoop at moving
  rw [((State.canStart_iff s).1 start).1] at moving
  exact Bool.false_ne_true moving

/-- A RESTART up to the start of the first HOME (R98, R169). -/
structure State.Homed (s v : State) : Prop where
  calm : s.Calm v
  floorList : v.floorList = s.floorList
  state : v.drive.state = .running
  campaign : ∀ m, v.campaign m = (s.campaign m).restarted
  loops : ∀ i, (s.loop i).RestartedTo (s.movingLoop i) (v.loop i)

theorem State.homed_serve (s : State) : s.Homed s.cleared.rehome.serve := by
  have clears := s.clears_cleared
  generalize s.cleared = u at clears
  have rehomes := u.rehomes_rehome
  have calm := (clears.calm.trans (u.calm_mapLoops _)).trans u.calm_rehome
  have loop := u.loop_allRestarted
  have drive := u.drive_allRestarted
  have floorList : u.allRestarted.floorList = u.floorList := State.mapLoops_floorList _ _
  have campaign (m : Manifold) : u.allRestarted.campaign m = u.campaign m :=
    congrArg (PerManifold.get · m) (State.mapLoops_campaigns _ _)
  have work (still : u.rehome.drive.moving = none) : u.rehome.HomesOrAims := by
    rw [rehomes.moving, drive] at still
    exact State.homesOrAims_rehome clears.queue still fun i =>
      clears.wants i (State.homing_of_still (clears.moving.symm.trans still) i)
  have serves := State.serves_serve work
  have moves (i : LoopIx) : u.rehome.movingLoop i = s.movingLoop i :=
    State.movingLoop_congr (rehomes.moving.trans ((congrArg Drive.moving drive).trans clears.moving)) i
  simp only [State.movingLoop_congr clears.moving] at loop
  generalize u.allRestarted = b at rehomes loop drive floorList campaign
  refine ⟨calm.trans (State.steps_serve _).calm, ?_, ?_, fun m => ?_, fun i => ?_⟩
  · exact serves.floorList.trans (rehomes.floorList.trans (floorList.trans clears.floorList))
  · exact serves.state.trans (rehomes.state.trans ((congrArg Drive.state drive).trans clears.state))
  · have before := (rehomes.campaign m).trans ((campaign m).trans (clears.campaign m))
    exact (serves.campaign m (by rw [before]; exact Campaign.idle_restarted _)).trans before
  · have served := (rehomes.served i).trans (serves.loops i)
    rw [loop] at served
    refine Loop.restartedTo_of_served (clears.loops i) served fun moving => ?_
    rw [State.serve_of_moving ((moves i).trans moving), (rehomes.loops i).stallCount, loop]

theorem Loop.RestartedTo.counted {l x y : Loop} {moving : Bool} (h : l.RestartedTo moving x) (same : x.Counted y) :
    l.RestartedTo moving y := by
  rcases same with rfl | rfl
  · exact h
  · exact ⟨⟨h.keeps.config.trans ⟨rfl, rfl, rfl, rfl, rfl, rfl⟩, h.keeps.present, h.keeps.idleDays, h.keeps.balance,
      h.keeps.inBand⟩, h.marked, h.cleared, h.homed, h.away, h.vacant⟩

/-- The round timer that a RESTART leaves (R147, R131, R130). -/
def State.restartTimer (s : State) (m : Manifold) : RoundTimer :=
  ⟨if s.house.season = .heating ∧ s.house.trimEnable = true ∧ s.house.pause = false ∧
      (s.channel (supplyChannel m)).state = .ok then some s.house.settleBase else none,
    s.house.settleBase, s.house.design m, s.house.deadband⟩

/-- With its drive RUNNING and its campaign IDLE, a manifold's round runs by the House Record and the supply channel. -/
theorem State.FreshRound.restartTimer {z : State} {m : Manifold} (fresh : z.FreshRound m (z.RoundConditions m))
    (running : z.drive.state = .running) (idle : (z.campaign m).state = .idle) :
    z.timer m = z.restartTimer m ∧ z.supplyRefs.get m = (z.channel (supplyChannel m)).reading := by
  obtain ⟨⟨runs, frozen, settleBase, design, deadband, supplyRef⟩, -⟩ := fresh
  refine ⟨?_, supplyRef⟩
  have conditions : z.RoundConditions m ↔ z.house.season = .heating ∧ z.house.trimEnable = true ∧
      z.house.pause = false ∧ (z.channel (supplyChannel m)).state = .ok := by
    simp [State.RoundConditions, running, idle]
  rw [conditions] at runs frozen
  have remaining : (z.timer m).remaining = (z.restartTimer m).remaining := by
    unfold State.restartTimer
    split_ifs with meets
    · exact runs meets
    · exact frozen meets
  generalize z.timer m = timer at settleBase design deadband remaining
  obtain ⟨_, _, _, _⟩ := timer
  subst settleBase design deadband remaining
  rfl

/-- What RESTART leaves, but for the answer. -/
structure State.Restarted (s z : State) : Prop where
  powered : z.powered = s.powered
  house : z.house = s.house
  storage : z.storage = s.storage
  channels : z.channels = s.channels
  pending : z.pending = s.pending
  floorList : z.floorList = s.floorList
  state : z.drive.state = .running
  campaign : ∀ m, z.campaign m = (s.campaign m).restarted
  supplyRef : ∀ m, z.supplyRefs.get m = (s.channel (supplyChannel m)).reading
  timer : ∀ m, z.timer m = s.restartTimer m
  room : ∀ r, z.room r = (s.room r).leasedAgain s.house.leaseUnit
  loops : ∀ i, (s.loop i).RestartedTo (s.movingLoop i) (z.loop i)
  counter : ∀ i, (z.loop i).openCounter = 0

theorem State.mild_restartRounds (s : State) : s.Mild s.restartRounds :=
  (s.mild_pauseRound .a).trans (State.mild_pauseRound _ .b)

theorem State.counted_restartRounds (s : State) : s.Counted s.restartRounds :=
  (s.counted_pauseRound .a).trans (State.counted_pauseRound _ .b)

theorem State.restartTimer_congr {s t : State} (house : t.house = s.house) (channels : t.channels = s.channels)
    (m : Manifold) : t.restartTimer m = s.restartTimer m := by
  unfold State.restartTimer
  rw [house, State.channel_congr channels]

theorem State.restarted_restart (s : State) : s.Restarted s.restart ∧ s.restart.link = s.link := by
  have homed := s.homed_serve
  rw [State.restart_eq]
  generalize s.cleared.rehome.serve = v at homed
  have leased := v.onlyRooms_restartLeases
  have room := v.room_restartLeases
  generalize v.restartLeases = w at leased room
  have mild := w.mild_restartRounds
  have counted := w.counted_restartRounds
  have campaigns := w.campaigns_restartRounds
  have fresh := w.fresh_restartRounds
  generalize w.restartRounds = z at mild counted campaigns fresh
  have quiet := leased.quiet
  have house := mild.house.trans (quiet.house.trans homed.calm.house)
  have channels := mild.channels.trans (quiet.channels.trans homed.calm.channels)
  have state := mild.state.trans (quiet.state.trans homed.state)
  have campaign (m : Manifold) : z.campaign m = (s.campaign m).restarted :=
    (congrArg (PerManifold.get · m) (campaigns.trans quiet.campaigns)).trans (homed.campaign m)
  have round (m : Manifold) := (fresh m).restartTimer state (by rw [campaign]; exact Campaign.idle_restarted _)
  refine ⟨⟨mild.powered.trans (quiet.powered.trans homed.calm.powered), house,
    mild.storage.trans (quiet.storage.trans homed.calm.storage), channels,
    mild.pending.trans (quiet.pending.trans homed.calm.pending),
    mild.floorList.trans (quiet.floorList.trans homed.floorList), state, campaign, fun m => ?_, fun m => ?_, fun r => ?_,
    fun i => ?_, fun i => (fresh (manifoldOf i)).counters i rfl⟩, mild.link.trans (quiet.link.trans homed.calm.link)⟩
  · rw [(round m).2, State.channel_congr channels]
  · rw [(round m).1, State.restartTimer_congr house channels]
  · rw [State.room_congr mild.rooms, room, State.room_congr homed.calm.rooms, homed.calm.house]
  · have same : w.loop i = v.loop i := State.loop_congr leased.loops i
    have after := counted.loop i
    rw [same] at after
    exact (homed.loops i).counted after

theorem State.Restarted.of_records {s z t : State} (h : s.Restarted z) (g : z.SameRecords t) : s.Restarted t := by
  refine ⟨g.powered.trans h.powered, g.house.trans h.house, g.storage.trans h.storage, g.channels.trans h.channels,
    g.pending.trans h.pending, g.floorList.trans h.floorList, (congrArg Drive.state g.drive).trans h.state, fun m => ?_,
    fun m => ?_, fun m => ?_, fun r => (g.room r).trans (h.room r), fun i => ?_, fun i => ?_⟩
  · exact (congrArg (PerManifold.get · m) g.campaigns).trans (h.campaign m)
  · exact (congrArg (PerManifold.get · m) g.supplyRefs).trans (h.supplyRef m)
  · exact (congrArg (PerManifold.get · m) g.timers).trans (h.timer m)
  · rw [g.loop]
    exact h.loops i
  · rw [g.loop]
    exact h.counter i

theorem State.Restarted.of_before {r s z : State} (h : s.Restarted z) (g : r.SameRecords s) : r.Restarted z := by
  have loop := g.loop
  have drive (i : LoopIx) : s.movingLoop i = r.movingLoop i := State.movingLoop_congr (congrArg Drive.moving g.drive) i
  have campaign (m : Manifold) : s.campaign m = r.campaign m := congrArg (PerManifold.get · m) g.campaigns
  obtain ⟨powered, house, storage, channels, pending, floorList, state, campaigns, supplyRef, timer, room, loops,
    counter⟩ := h
  simp only [campaign, State.channel_congr g.channels, State.restartTimer_congr g.house g.channels, g.room, g.house, loop,
    drive] at campaigns supplyRef timer room loops
  exact ⟨powered.trans g.powered, house.trans g.house, storage.trans g.storage, channels.trans g.channels,
    pending.trans g.pending, floorList.trans g.floorList, state, campaigns, supplyRef, timer, room, loops, counter⟩

theorem State.Polled.exec_restart {s : State} {k : SlotIx} {x : Slot} (h : s.Polled k x)
    (service : slotKind k = .service) :
    ∃ t, exec (.restart []) s = .next t ∧ s.Replies k x .done [] t ∧ s.Restarted t := by
  have restart := h.ordered (c := .restart []) service (Sys2Proof.Machine.exec_restart [] s)
  obtain ⟨restarted, link⟩ := (s.heard k x).restarted_restart
  generalize (s.heard k x).restart = u at restart restarted link
  exact ⟨_, restart, State.replies_finish link .done [],
    (restarted.of_before (s.heard_records k x)).of_records (Taken.finish_records ⟨.done, [], u⟩ k)⟩

end Sys2Proof.Machine

open Sys2Proof Sys2Proof.Machine

/-- Settles O33, by the ends of a move that bear the restart mark, and the order of R169 for RESTART itself. -/
theorem restartRehomesTheHouse : Obligations.RestartRehomesTheHouse := by
  refine ⟨fun s m n p moving marked present occupied => ⟨fun moves stays c mem => ?_, fun park retiring => ⟨?_, ?_⟩,
    fun moves k x polled service => exec_stop_restartTaken marked present occupied moving moves polled service,
    fun home leg least most => exec_openEnd_restartTaken marked present occupied p moving home leg least most,
    fun home c mem => ?_⟩, fun s k x polled service => ?_⟩
  · rcases List.mem_cons.1 mem with rfl | leg
    · exact exec_stall_restartTaken marked present occupied p moving moves
    · split_ifs at leg with single
      · rw [List.mem_singleton.1 leg]
        exact exec_legReached_restartTaken marked present occupied p moving moves single stays
      · exact absurd leg List.not_mem_nil
  · rw [← retiring]
    exact exec_stall_restartTaken marked present occupied p moving (by rw [park]; exact MoveKind.noConfusion)
  · have vacates := (State.legReached_vacates (.inl (by rw [park]; exact MoveKind.noConfusion)) park
      retiring).of_records (State.tellWatches_records _)
    exact ⟨_, exec_legReached_next p moving, vacates.life, vacates.mark, vacates.want⟩
  · obtain ⟨reason, driven, fails⟩ := exec_homeFailed_of_home p moving home mem
    refine ⟨fun stays => ⟨_, fails, ?_⟩, fun retiring => ⟨_, fails, ?_⟩⟩
    · exact (State.restartTaken_homeFailed marked present occupied stays reason driven).of_records
        (State.tellWatches_records _)
    · have vacates := (State.homeFailed_vacates home retiring reason driven).of_records (State.tellWatches_records _)
      exact ⟨vacates.life, vacates.mark, vacates.want⟩
  · obtain ⟨t, next, replies, restarted⟩ := polled.exec_restart service
    refine ⟨t, next, replies, restarted.powered, restarted.house, restarted.storage, restarted.channels,
      restarted.pending, restarted.floorList, restarted.state,
      fun m => ⟨restarted.campaign m, restarted.supplyRef m, restarted.timer m⟩, restarted.room, fun i => ?_⟩
    obtain ⟨keeps, marks, cleared, homed, away, vacant⟩ := restarted.loops i
    exact ⟨keeps.config, restarted.counter i, keeps.present, keeps.idleDays, keeps.balance, keeps.inBand, marks,
      fun occupied rests => ⟨(cleared occupied rests).1, (cleared occupied rests).2, homed occupied rests,
        away occupied rests⟩, vacant⟩
end
